-- ==== Sys2Proof/Word.lean ====
section
/-! DEFINITION. The word types of the Dravfinar (R3, R45, R142) and the sparse table that most of its state is held in. -/

namespace Sys2Proof

/-- One byte (R3). -/
abbrev Byte := BitVec 8
/-- A scalar register's value (R45). -/
abbrev Word := BitVec 64
/-- One lane's 32-bit register value (R45), and one S-word (R133). -/
abbrev Half := BitVec 32
/-- A 96-bit L-word (R142). -/
abbrev LWord := BitVec 96
/-- A set of lanes: bit `l` is lane `l` (R20, R21). A predicate register and a mask are lane sets. -/
abbrev Lanes := BitVec 1024

/-- A table from keys to values: keys rise strictly, and no entry holds the table's default value. -/
abbrev SMap (α : Type) := List (Nat × α)

end Sys2Proof
end

