-- ==== Sys2Proof/Config.lean ====
section
/-! DEFINITION. What the manual leaves to the implementation, and the free values: constants with no body, so that
no proof can see what they are (assumption log 3). -/

namespace Sys2Proof

/-- FREE VALUE: a byte the manual calls unspecified (R94, R192); the argument is the counter `State.fresh`. -/
opaque Config.freeByte : Nat → Byte
/-- FREE VALUE: a 64-bit value the manual calls unspecified (R55 CYC, R5). -/
opaque Config.freeWord : Nat → Word
/-- FREE CHOICE: an order or a pick the manual does not fix (R105, R380), as a number. -/
opaque Config.freePick : Nat → Nat
/-- FREE CHOICE: the slice of a cluster cache that holds a line (R13), as a number: the manual gives no rule. -/
opaque Config.slicePick : Nat → Nat
/-- FREE VALUE: by how many issue cycles a partition's count has risen when it is read (R18, R58). -/
opaque Config.cycles : Nat → Nat
/-- FREE VALUE: the signature made with the fused private key over the given bytes (R440). -/
opaque Config.signature : List Byte → List Byte
/-- FREE VALUE: the hash of a group's binding that the link blocks compare up the tree (R413): the manual names no function. -/
opaque Config.bindingHash : List Byte → List Byte
/-- FREE VALUE: the CRC-64 of a flit's header and payload (R403): the manual names no polynomial. -/
opaque Config.crc64 : List Byte → Nat
/-- FREE VALUE: the device certificate (R437). -/
opaque Config.certificate : List Byte
/-- FREE CHOICE: the region of the global range in which bring-up puts the device queue's ring (R371). -/
opaque Config.ringRegion : Nat
/-- FREE CHOICE: the size of the device queue's ring (R371). -/
opaque Config.ringSlots : Nat
/-- FREE VALUE: the digest of the ROM image, in fuses (R436, R439). -/
opaque Config.romDigest : List Byte

/-- Lanes in a mask word (R20). -/
def Config.laneWord : Nat := 32
/-- Vector registers (R45). -/
def Config.vregs : Nat := 1536
/-- Depth limit of the mask stack (R51). -/
def Config.stackDepth : Nat := 256

/-- The top entries of a mask stack, which the hardware holds itself (R51). -/
def Config.stackNear : Nat := 32
/-- Entries of the lane queue (R24). -/
def Config.queueDepth : Nat := 64
/-- Entries of a core's late-fault store buffer (R352). -/
def Config.bufferEntries : Nat := 512
/-- Entries that one team may hold (R352). -/
def Config.teamEntries : Nat := 128
/-- Closed, incomplete batches that a team may hold (R181). -/
def Config.closedBatches : Nat := 16
/-- Lines of a partition's register cache (R59). -/
def Config.registerLines : Nat := 3072
/-- Slices of a cluster cache (R13). -/
def Config.slices : Nat := 12
/-- 256 B lines of a slice of 16 MiB (R13). -/
def Config.sliceLines : Nat := 65536
/-- 64 B sectors of a core's L1 of 64 KiB (R12). -/
def Config.l1Sectors : Nat := 1024
/-- 64 B sectors of a core's scalar instruction cache of 32 KiB (R12). -/
def Config.scalarCode : Nat := 512
/-- 64 B sectors of a core's lane instruction cache of 96 KiB (R12). -/
def Config.laneCode : Nat := 1536
/-- Accepted tile tasks of a core (R274). -/
def Config.coreTasks : Nat := 64
/-- Copies of a channel not yet complete (R285). -/
def Config.channelCopies : Nat := 16
/-- Outstanding collectives of a rank (R297). -/
def Config.rankCollectives : Nat := 8
/-- Requests of one source to one group without a stamp reply, and the deduplication window (R408, R409). -/
def Config.groupWindow : Nat := 4096
/-- Stamped requests that a root keeps (R411). -/
def Config.rootKeeps : Nat := 65536
/-- Fetched, incomplete cards of one queue (R375). -/
def Config.queueCards : Nat := 1024
/-- Flits of a replay buffer (R407). -/
def Config.replayFlits : Nat := 2048
/-- Scrubber entries (R442). -/
def Config.scrubEntries : Nat := 4096
/-- Entries of the module error log (R447). -/
def Config.errorLog : Nat := 65536
/-- The first byte of the copy aperture (R284). -/
def Config.aperture : Nat := 0x00FFFFFFFFFE0000
/-- Where a context image keeps the records that have no slot (R354): in the spare bytes of the depth-1 `xiss` state, for which the
manual names no place (assumption log 6). -/
def Config.keptOffset : Nat := 0xE810
/-- The region number that holds the copy aperture (R284). -/
def Config.apertureRegion : Nat := 0x7FFFFFFFF

end Sys2Proof
end

