-- ==== Sys2Proof/Syntax.lean ====
section
/-! DEFINITION. The instructions: one constructor for each row of the opcode table, those without fields last. S-words carry their register and
immediate fields (R133, R136), L-words the fields of R142, and the steps of the hardware, which have no encoding, the
things they name: a team by its handle (R335), a message by its payload. -/

namespace Sys2Proof

/-- A 7-bit scalar register field (R134): 0 to 95 name s0 to s95, and 127 is sz. -/
abbrev SReg := BitVec 7

/-- The fields of an L-word beside its opcode (R142). `d` to `e` are operand codes (R48 to R50) or raw numbers
(R201), the guards are R144, `hint` R145 and `sched` R146. -/
structure LaneFields where
  ty : BitVec 4
  md : BitVec 4
  d : BitVec 11
  a : BitVec 11
  b : BitVec 11
  c : BitVec 11
  e : BitVec 11
  g1 : BitVec 5
  g2 : BitVec 5
  hint : BitVec 3
  sched : BitVec 6
deriving DecidableEq, Repr

/-- One register line of a team (R337): team handle, register and mask word. -/
structure RegLine where
  team : Nat
  v : Nat
  w : Nat
deriving DecidableEq, Repr

/-- A queue (R371): its cluster and its index there. -/
structure QueueId where
  cluster : Nat
  index : Nat
deriving DecidableEq, Repr

/-- A fetched card: its queue and the number of the slot it was fetched from (R372). -/
structure CardId where
  queue : QueueId
  slot : Nat
deriving DecidableEq, Repr

/-- A node of a job's graph (R376). -/
structure NodeId where
  job : Nat
  graph : Nat
  node : Nat
deriving DecidableEq, Repr

/-- The part of a bus message that every kind carries (R393): the sending cluster, the ASID and a VA of the line, the mask of the line's sectors
and the requester's transaction tag; the core whose stash sends it, where no slice does; and byte 12[0] of the payload, which in a recall drops
the reverse-map names. -/
structure BusMsg where
  cluster : Nat
  asid : Nat
  va : Nat
  sectors : BitVec 4 := 1
  tag : BitVec 12 := 0
  stash : Option Nat := none
  flag : Bool := false
deriving DecidableEq, Repr

/-- The payload of an update atomic (R393, kind UA). -/
structure UpdAtomic where
  aop : BitVec 3
  wide : Bool
  f32 : Bool
  off : Nat
  operand : Word
  compare : Word
deriving DecidableEq, Repr

/-- What a group request asks for (R304): a store of bytes, or an atomic. -/
inductive GroupOp where
  | store (bytes : List (Nat × Byte))
  | atomic (va : Nat) (aop : BitVec 3) (kind : BitVec 3) (operand compare : Word)
deriving DecidableEq, Repr

/-- A group request (R304, R408): group, source module, request number, issuing team, ASID and operation. -/
structure GroupReq where
  group : Nat
  src : Nat
  number : Nat
  team : Nat
  asid : Nat
  op : GroupOp
deriving DecidableEq, Repr

/-- The fields that the hash of a contribution covers (R298). -/
structure CollHash where
  kind : Nat
  op : Nat
  fmt : Nat
  elems : Nat
  root : Nat
  ranks : List Nat
deriving DecidableEq, Repr

/-- A tile of a contribution that arrives (R301): group, issue count, slot, tile index, its bytes, and the hash fields. -/
structure CollTile where
  group : Nat
  issue : Nat
  rank : Nat
  slot : Nat
  tile : Nat
  data : List Byte
  hash : CollHash
deriving DecidableEq, Repr

/-- A packet (R403): its route header and the payload that follows it. -/
structure Packet where
  dst : Nat
  src : Nat
  gen : Nat
  number : Nat
  kind : Nat
  body : List Byte
deriving DecidableEq, Repr

/-- A flit (R403): hop sequence, acknowledged sequence, channel, whether it is the first and the last of its packet, 64 B of payload, and its
CRC-64. -/
structure Flit where
  hseq : Nat
  hack : Nat
  chan : Nat
  first : Bool
  last : Bool
  payload : List Byte
  crc : Nat
deriving DecidableEq, Repr

/-- A host request (R418): the adapter and the address in its HDM range. -/
structure HostReq where
  adapter : Nat
  dpa : Nat
deriving DecidableEq, Repr

/-- What a back-invalidation names (R420, R423): a granule for BISnpInvBlk, a line for BISnpInv, by the DPA divided by its size. -/
structure SnoopPlace where
  blk : Bool
  place : Nat
deriving DecidableEq, Repr

/-- What bring-up finds (R436): whether the ROM digest agrees, laser fibres in range, the flight time of each bus in slots, the groups that do
not tune as (bus, cluster), the clusters that fail steps 5 to 7 as (step, cluster), and the highest clock step that each cluster's margin
allows. -/
structure BringUp where
  romOk : Bool := true
  fibres : Nat := 24
  flight : List Nat := [10, 10, 10, 10, 10, 10, 10, 10]
  spares : List (Nat × Nat) := []
  failed : List (Nat × Nat) := []
  clocks : List (Nat × Nat) := []
deriving DecidableEq, Repr

/-- What the sensors of a module in service report (R438, R446): the wear indicators as (indicator number from 1, cluster or unit, value),
the junction temperatures in °C as (cluster, temperature), an unlisted one lying below every limit, and the power in W that the module
would take. -/
structure Sensors where
  values : List (Nat × Nat × Nat) := []
  temps : List (Nat × Nat) := []
  power : Nat := 0
deriving DecidableEq, Repr

/-- Where an uncorrectable error is met (R368): location class, ASID, VA or local address, cluster, and the accessing
team, if any. `engine` says that an engine met it, and `work` for which task, copy or collective; `lane` that the team's L-word met it, `line` that
the fetch of one of its register lines did (R339); and `queue` that a card fetch did (R375). -/
structure ErrorSite where
  cls : Nat
  asid : Nat
  addr : Nat
  cluster : Nat
  team : Option Nat
  engine : Bool
  work : Option Nat := none
  lane : Bool := false
  line : Bool := false
  queue : Option QueueId := none
deriving DecidableEq, Repr

/-- The instructions, one constructor for each row of the opcode table. -/
inductive Instr where
  /- S-words (R133, R136). -/
  /-- ADD (R165). Writes sa + sb, wrapping modulo 2^64, to sd. -/
  | add (d a b : SReg)
  /-- SUB (R165). Writes sa − sb to sd. -/
  | sub (d a b : SReg)
  /-- MUL (R165). Writes the low 64 bits of sa × sb to sd. -/
  | mul (d a b : SReg)
  /-- MULH_S (R165). Writes the high 64 bits of the signed product to sd. -/
  | mulhS (d a b : SReg)
  /-- MULH_Z (R165). Writes the high 64 bits of the unsigned product to sd. -/
  | mulhZ (d a b : SReg)
  /-- DIV_S (R166). Signed division truncated toward zero; never traps. -/
  | divS (d a b : SReg)
  /-- DIV_Z (R166). Unsigned division; division by zero gives all ones. -/
  | divZ (d a b : SReg)
  /-- REM_S (R166). Signed remainder taking the sign of sa. -/
  | remS (d a b : SReg)
  /-- REM_Z (R166). Unsigned remainder; division by zero gives sa. -/
  | remZ (d a b : SReg)
  /-- AND (R165). Writes the bitwise AND of sa and sb to sd. -/
  | and (d a b : SReg)
  /-- OR (R165). Writes the bitwise OR of sa and sb to sd. -/
  | or (d a b : SReg)
  /-- XOR (R165). Writes the bitwise XOR of sa and sb to sd. -/
  | xor (d a b : SReg)
  /-- SHL (R165). Shifts sa left by sb[5:0]. -/
  | shl (d a b : SReg)
  /-- SHR (R165). Shifts sa right logically by sb[5:0]. -/
  | shr (d a b : SReg)
  /-- SRA (R165). Shifts sa right arithmetically by sb[5:0]. -/
  | sra (d a b : SReg)
  /-- MIN_S (R165). Writes the smaller of sa and sb as .s64. -/
  | minS (d a b : SReg)
  /-- MIN_Z (R165). Writes the smaller of sa and sb as .z64. -/
  | minZ (d a b : SReg)
  /-- MAX_S (R165). Writes the larger of sa and sb as .s64. -/
  | maxS (d a b : SReg)
  /-- MAX_Z (R165). Writes the larger of sa and sb as .z64. -/
  | maxZ (d a b : SReg)
  /-- SLT_S (R165). Writes 1 if sa < sb as .s64, else 0. -/
  | sltS (d a b : SReg)
  /-- SLT_Z (R165). Writes 1 if sa < sb as .z64, else 0. -/
  | sltZ (d a b : SReg)
  /-- SEQ (R165). Writes 1 if sa equals sb, else 0. -/
  | seq (d a b : SReg)
  /-- CLZ (R165). Counts the leading zero bits of sa. -/
  | clz (d a : SReg)
  /-- CTZ (R165). Counts the trailing zero bits of sa. -/
  | ctz (d a : SReg)
  /-- POPC (R165). Counts the one bits of sa. -/
  | popc (d a : SReg)
  /-- SEL (R165). Writes sa if the old sd is non-zero, else sb. -/
  | sel (d a b : SReg)
  /-- ADDI (R167). Adds the sign-extended immediate to sa. -/
  | addi (d a : SReg) (imm : BitVec 12)
  /-- ANDI (R167). ANDs sa with the sign-extended immediate. -/
  | andi (d a : SReg) (imm : BitVec 12)
  /-- ORI (R167). ORs sa with the sign-extended immediate. -/
  | ori (d a : SReg) (imm : BitVec 12)
  /-- XORI (R167). XORs sa with the sign-extended immediate. -/
  | xori (d a : SReg) (imm : BitVec 12)
  /-- SHLI (R167). Shifts sa left by the immediate amount. -/
  | shli (d a : SReg) (amt : BitVec 6)
  /-- SHRI (R167). Shifts sa right logically by the immediate amount. -/
  | shri (d a : SReg) (amt : BitVec 6)
  /-- SRAI (R167). Shifts sa right arithmetically by the immediate amount. -/
  | srai (d a : SReg) (amt : BitVec 6)
  /-- SLTI (R167). Writes 1 if sa is below the signed immediate, else 0. -/
  | slti (d a : SReg) (imm : BitVec 12)
  /-- LIMM (R168). Sets sd to the sign-extended 19-bit immediate. -/
  | limm (d : SReg) (imm : BitVec 19)
  /-- LSH (R168). Shifts sd left by 19 and ORs in the immediate. -/
  | lsh (d : SReg) (imm : BitVec 19)
  /-- LPC (R168). Sets sd to the word's VA plus the sign-extended offset. -/
  | lpc (d : SReg) (imm : BitVec 19)
  /-- LD (R169). Loads a scalar of the typed width from memory into sd, waiting for the reply. -/
  | ld (ty : BitVec 3) (d a : SReg) (off : BitVec 9)
  /-- ST (R169). Retires a scalar store into the late-fault store buffer, or starts a copy through the aperture. -/
  | st (ty : BitVec 2) (d a : SReg) (off : BitVec 9)
  /-- AMO_S32 (R170). Performs an indivisible 32-bit signed atomic at sa. -/
  | amoS32 (aop : BitVec 3) (ord : BitVec 2) (d a b : SReg)
  /-- AMO_Z32 (R170). Performs an indivisible 32-bit unsigned atomic at sa. -/
  | amoZ32 (aop : BitVec 3) (ord : BitVec 2) (d a b : SReg)
  /-- AMO_64 (R170). Performs an indivisible 64-bit atomic at sa. -/
  | amo64 (aop : BitVec 3) (ord : BitVec 2) (d a b : SReg)
  /-- AMO_F32 (R171). Performs an indivisible f32 atomic add, min, max, swap or cas at sa. -/
  | amoF32 (aop : BitVec 3) (ord : BitVec 2) (d a b : SReg)
  /-- B (R173). Branches unconditionally by a word offset. -/
  | b (off : BitVec 26)
  /-- CALL (R173). Writes the return VA to s95 and branches. -/
  | call (off : BitVec 26)
  /-- BC (R173). Branches when the condition holds for sa as .s64. -/
  | bc (cond : BitVec 3) (a : SReg) (off : BitVec 16)
  /-- JR (R173). Jumps to the VA in sa. -/
  | jr (a : SReg)
  /-- CALLR (R173). Writes the return VA to s95 and jumps to sa. -/
  | callr (a : SReg)
  /-- LRUN (R175). Appends a run of L-words to the lane queue, capturing scalar operands. -/
  | lrun (a : SReg) (n : BitVec 12)
  /-- LLOOP (R176). Appends a captured body count times, applying the step record. -/
  | lloop (d a b : SReg) (len : BitVec 5)
  /-- FENCE (R112). Orders the team's accesses by kind and scope. -/
  | fence (kind scope : BitVec 3)
  /-- CWAIT (R180). Waits until the 8 B counter at sa is at least sb. -/
  | cwait (a b : SReg)
  /-- CPCLOSE (R181). Closes the open copy batch and opens the next. -/
  | cpclose (d : SReg)
  /-- CPWAIT (R182). Waits until every copy of the named batch is complete. -/
  | cpwait (a : SReg)
  /-- MXPOST (R274). Checks a tile task record and accepts the task into the core's tile scheduler. -/
  | mxpost (a : SReg)
  /-- OWN (R264). Returns the tile's owner word and requests a new owner under the transitions. -/
  | own (new : BitVec 2) (d a : SReg)
  /-- OWN_QUERY (R264). Returns the tile's owner word without requesting a change. -/
  | ownQuery (d a : SReg)
  /-- COLL (R297). Checks a collective descriptor and issues the collective on the group. -/
  | coll (d a : SReg)
  /-- QPUSH (R187). Pushes a value onto a local queue, waiting for room. -/
  | qpush (a b : SReg)
  /-- QPOP (R187). Pops a value from a local queue, waiting for an entry. -/
  | qpop (d a : SReg)
  /-- POST (R188). Appends a 128 B job card to a queue's ring. -/
  | post (d a b : SReg)
  /-- GSEQ (R185). Writes the last stamp applied to the local replica of the group. -/
  | gseq (d a : SReg)
  /-- CRVLD (R194). Replaces the team's curve table with 1,280 B from memory. -/
  | crvld (a : SReg)
  /-- CSRR (R195). Reads a CSR into sd. -/
  | csrr (d : SReg) (csr : BitVec 12)
  /-- CSRW (R195). Writes sa to a CSR. -/
  | csrw (a : SReg) (csr : BitVec 12)
  /-- TRAP (R196). Stops the team with the software-trap cause. -/
  | trap (code : BitVec 16)
  /-- BRK (R196). Stops the team with the breakpoint cause. -/
  | brk (code : BitVec 16)
  /-- CACHE_WB (R191). Writes modified sectors of the range back to home DRAM. -/
  | cacheWb (a b : SReg)
  /-- CACHE_INV (R191). Drops clean copies of the range. -/
  | cacheInv (a b : SReg)
  /-- CACHE_WBINV (R191). Writes back and then invalidates the range. -/
  | cacheWbinv (a b : SReg)
  /-- CACHE_DISCARD (R192). Gives up every copy and the home contents of the range. -/
  | cacheDiscard (a b : SReg)
  /-- CACHE_BIND (R193). Creates a stash binding of a VA range to local addresses. -/
  | cacheBind (d a b : SReg)
  /-- CACHE_UNBIND (R193). Writes back and removes a stash binding. -/
  | cacheUnbind (a : SReg)
  /-- CANCEL (R38). Moves the named level to cancelling. -/
  | cancel (level : BitVec 2) (a : SReg)
  /-- CTR (R189). Reads the completion counter word of a level. -/
  | ctr (level : BitVec 2) (d a : SReg)
  /-- RPTINV (R347). Drops matching region entries from every core of the domain and waits for accesses checked against them. -/
  | rptinv (a b : SReg)
  /-- TSTOP (R342). Requests that the named team and its crew enter HALTED. -/
  | tstop (a : SReg)
  /- L-words (R142, R148). -/
  /-- VADD (R204). Lane integer add, wrapping or saturating. -/
  | vadd (f : LaneFields)
  /-- VSUB (R204). Lane integer subtract. -/
  | vsub (f : LaneFields)
  /-- VMUL (R204). Lane integer multiply. -/
  | vmul (f : LaneFields)
  /-- VMULH (R204). Lane upper half of the integer product. -/
  | vmulh (f : LaneFields)
  /-- VMAD (R204). Lane integer multiply-add with no intermediate wrap. -/
  | vmad (f : LaneFields)
  /-- VDIV (R205). Lane integer division; zero divisor sets dz. -/
  | vdiv (f : LaneFields)
  /-- VREM (R205). Lane integer remainder. -/
  | vrem (f : LaneFields)
  /-- VABS (R204). Lane integer absolute value. -/
  | vabs (f : LaneFields)
  /-- VNEG (R204). Lane integer negation. -/
  | vneg (f : LaneFields)
  /-- VMIN (R204). Lane integer minimum. -/
  | vmin (f : LaneFields)
  /-- VMAX (R204). Lane integer maximum. -/
  | vmax (f : LaneFields)
  /-- VAND (R206). Lane bitwise AND. -/
  | vand (f : LaneFields)
  /-- VOR (R206). Lane bitwise OR. -/
  | vor (f : LaneFields)
  /-- VXOR (R206). Lane bitwise XOR. -/
  | vxor (f : LaneFields)
  /-- VNOT (R206). Lane bitwise NOT. -/
  | vnot (f : LaneFields)
  /-- VSHL (R206). Lane shift left. -/
  | vshl (f : LaneFields)
  /-- VSHR (R206). Lane logical shift right. -/
  | vshr (f : LaneFields)
  /-- VSRA (R206). Lane arithmetic shift right. -/
  | vsra (f : LaneFields)
  /-- VROT (R206). Lane rotate left. -/
  | vrot (f : LaneFields)
  /-- VCLZ (R206). Lane count of leading zeros. -/
  | vclz (f : LaneFields)
  /-- VPOPC (R206). Lane count of one bits. -/
  | vpopc (f : LaneFields)
  /-- VBREV (R206). Lane bit reversal. -/
  | vbrev (f : LaneFields)
  /-- VBEXT (R207). Lane bit-field extract. -/
  | vbext (f : LaneFields)
  /-- VBINS (R207). Lane bit-field insert. -/
  | vbins (f : LaneFields)
  /-- VSEL (R208). Lane select of A or B by C, as raw bits. -/
  | vsel (f : LaneFields)
  /-- VCMP (R209). Lane integer compare into a predicate. -/
  | vcmp (f : LaneFields)
  /-- VMOV (R210). Lane copy of an operand value. -/
  | vmov (f : LaneFields)
  /-- VLI (R210). Lane load of a 32-bit immediate. -/
  | vli (f : LaneFields)
  /-- VLANE (R211). Lane writes A + B × lane index. -/
  | vlane (f : LaneFields)
  /-- VBCAST (R211). Broadcasts a source lane's value within each band. -/
  | vbcast (f : LaneFields)
  /-- VFADD (R213). Lane float add with one rounding. -/
  | vfadd (f : LaneFields)
  /-- VFSUB (R213). Lane float subtract. -/
  | vfsub (f : LaneFields)
  /-- VFMUL (R213). Lane float multiply. -/
  | vfmul (f : LaneFields)
  /-- VFMA (R213). Lane fused multiply-add. -/
  | vfma (f : LaneFields)
  /-- VFMS (R213). Lane fused multiply-subtract. -/
  | vfms (f : LaneFields)
  /-- VFNMA (R213). Lane fused negated multiply-add. -/
  | vfnma (f : LaneFields)
  /-- VFMIN (R214). Lane float minimum. -/
  | vfmin (f : LaneFields)
  /-- VFMAX (R214). Lane float maximum. -/
  | vfmax (f : LaneFields)
  /-- VFABS (R214). Lane float absolute value. -/
  | vfabs (f : LaneFields)
  /-- VFNEG (R214). Lane float negation. -/
  | vfneg (f : LaneFields)
  /-- VFCMP (R215). Lane float compare into a predicate. -/
  | vfcmp (f : LaneFields)
  /-- VFCLASS (R215). Lane float classification. -/
  | vfclass (f : LaneFields)
  /-- VFDIV (R213). Lane float divide. -/
  | vfdiv (f : LaneFields)
  /-- VFSQRT (R213). Lane float square root. -/
  | vfsqrt (f : LaneFields)
  /-- VDOT2 (R216). Lane two-element dot product into f32. -/
  | vdot2 (f : LaneFields)
  /-- VDOT4 (R216). Lane four-element dot product into f32. -/
  | vdot4 (f : LaneFields)
  /-- VDOT8 (R216). Lane eight-element f4 dot product into f32. -/
  | vdot8 (f : LaneFields)
  /-- VCVT (R218). Lane conversion between types. -/
  | vcvt (f : LaneFields)
  /-- VCVTS (R221). Lane block-scaled encode that folds magnitudes into an amax accumulator. -/
  | vcvts (f : LaneFields)
  /-- VSCL (R220). Lane computation of a block scale delta. -/
  | vscl (f : LaneFields)
  /-- VPACK (R223). Lane packing of narrow elements. -/
  | vpack (f : LaneFields)
  /-- VUNPK (R224). Lane decode of a packed element under its block scale. -/
  | vunpk (f : LaneFields)
  /-- VROUND (R219). Lane rounding of f32 onto a format's grid. -/
  | vround (f : LaneFields)
  /-- VCRV (R225). Lane evaluation of the curve table. -/
  | vcrv (f : LaneFields)
  /-- VAMAX (R222). Folds lane magnitudes into an amax accumulator. -/
  | vamax (f : LaneFields)
  /-- VBAND (R244). Sets the band register. -/
  | vband (f : LaneFields)
  /-- VSHF (R239). Shuffle from a band position. -/
  | vshf (f : LaneFields)
  /-- VSHFX (R239). Shuffle from an XORed band position. -/
  | vshfx (f : LaneFields)
  /-- VSHFU (R239). Shuffle from lower band positions. -/
  | vshfu (f : LaneFields)
  /-- VSHFD (R239). Shuffle from higher band positions. -/
  | vshfd (f : LaneFields)
  /-- VVOTE (R240). Band vote: any, all, ballot or count. -/
  | vvote (f : LaneFields)
  /-- VSCAN (R241). Band inclusive or exclusive scan. -/
  | vscan (f : LaneFields)
  /-- VRED (R241). Band reduction by the fixed tree, to lanes or a scalar. -/
  | vred (f : LaneFields)
  /-- VEXT (R243). Compacts participating lanes of each band. -/
  | vext (f : LaneFields)
  /-- MIF (R246). Pushes the mask and restricts it to the condition. -/
  | mif (f : LaneFields)
  /-- MELSE (R246). Sets the mask to the top entry's lanes not taken. -/
  | melse (f : LaneFields)
  /-- MEND (R246). Pops the mask stack into the mask. -/
  | mend (f : LaneFields)
  /-- MBRK (R246). Removes breaking lanes from the mask and entries above the innermost loop. -/
  | mbrk (f : LaneFields)
  /-- MLOOP (R246). Pushes the mask as a loop entry. -/
  | mloop (f : LaneFields)
  /-- MSET_PRED (R247). Sets the mask from a predicate. -/
  | msetPred (f : LaneFields)
  /-- MSET_WORD (R247). Sets one mask word. -/
  | msetWord (f : LaneFields)
  /-- MSET_ALL (R247). Makes every lane active. -/
  | msetAll (f : LaneFields)
  /-- MGET_PRED (R248). Copies the mask into a predicate. -/
  | mgetPred (f : LaneFields)
  /-- MGET_SUM (R248). Writes the mask summary to a scalar register. -/
  | mgetSum (f : LaneFields)
  /-- MGET_WORD (R248). Writes one mask word to a scalar register. -/
  | mgetWord (f : LaneFields)
  /-- PAND (R250). Predicate AND. -/
  | pand (f : LaneFields)
  /-- POR (R250). Predicate OR. -/
  | por (f : LaneFields)
  /-- PXOR (R250). Predicate XOR. -/
  | pxor (f : LaneFields)
  /-- PNOT (R250). Predicate NOT. -/
  | pnot (f : LaneFields)
  /-- PMOV (R250). Sets a predicate from a non-zero test. -/
  | pmov (f : LaneFields)
  /-- VLD (R230). Lane load from per-lane virtual addresses. -/
  | vld (f : LaneFields)
  /-- VST (R232). Lane store into the late-fault store buffer. -/
  | vst (f : LaneFields)
  /-- VLDS (R230). Strided lane load. -/
  | vlds (f : LaneFields)
  /-- VSTS (R232). Strided lane store. -/
  | vsts (f : LaneFields)
  /-- VLDX (R230). Indexed lane load. -/
  | vldx (f : LaneFields)
  /-- VSTX (R232). Indexed lane store. -/
  | vstx (f : LaneFields)
  /-- VLDM (R230). Lane load from local memory. -/
  | vldm (f : LaneFields)
  /-- VSTM (R232). Lane store to local memory. -/
  | vstm (f : LaneFields)
  /-- VAMO (R235). Per-lane indivisible atomic. -/
  | vamo (f : LaneFields)
  /-- VPREF (R237). Per-lane prefetch that never traps. -/
  | vpref (f : LaneFields)
  /-- XISS (R257). Captures lane-supplied L-words, checks them and runs each distinct word once under its suppliers. -/
  | xiss (f : LaneFields)
  /- Steps of the hardware and its firmware, which have no encoding. -/
  /-- LOAD_REPLY (R231). A load's replies arrive; a translation fault stops the team at the word. -/
  | loadReply (team : Nat)
  /-- STORE_BUFFER_DRAIN (R352). A store buffer entry takes its sector in M and is performed, or is held on a translation fault. -/
  | storeBufferDrain (i : Nat)
  /-- REGISTER_MISS_MICRO_TRAP (R338). Fetches a missing register line from the context image and inserts it. -/
  | registerMissMicroTrap (line : RegLine) (victim : Option RegLine)
  /-- HANDLER_ENTRY (R332). Delivers a stop to the team's handler at level 1. -/
  | handlerEntry (team : Nat)
  /-- HALTED_ENTRY (R343). The team and its crew enter HALTED at a stopping point and save their state. -/
  | haltedEntry (team : Nat)
  /-- TIME_SLICE_EXPIRY (R42). The team's slice expires; it is pre-empted or given a fresh slice. -/
  | timeSliceExpiry (team : Nat)
  /-- TEAM_PLACEMENT (R385). Places a ready team or crew on a core and starts it. -/
  | teamPlacement (launch crew cluster : Nat) (cores : List Nat)
  /-- TEAM_RESUMPTION (R386). Resumes a saved team on its own core. -/
  | teamResumption (team partition : Nat)
  /-- TEAM_RETIREMENT (R28). After its queue, engines and stores complete, the team retires as a module-scope release. -/
  | teamRetirement (team : Nat)
  /-- CARD_FETCH (R375). The scheduler fetches a card from a queue ring once its lap is written. -/
  | cardFetch (q : QueueId)
  /-- GRAPH_OPEN (R382). A graph opens when its header is fetched, its predecessor completes and its phase is current. -/
  | graphOpen (job graph : Nat)
  /-- NODE_START (R384). A ready node starts after its handoff buffers are flushed. -/
  | nodeStart (n : NodeId)
  /-- TILE_TASK_NODE_POSTING (R378). Posts a tile-task node's record as the named team once it is placed or resumed. -/
  | tileTaskNodePosting (n : NodeId)
  /-- QUEUE_DESTROY_COMPLETE (R390). A destroyed queue reaches status 3 once no card remains placed, waiting or running. -/
  | queueDestroyComplete (q : QueueId)
  /-- TILE_TASK_START (R276). An accepted task starts on a free engine once no earlier conflicting task is unended. -/
  | tileTaskStart (task : Nat)
  /-- ENGINE_STEP (R278). The macro sequencer completes one step of a task and writes C. -/
  | engineStep (task : Nat) (agree : Bool)
  /-- COPY_ROW (R288). The copy engine moves one row or index chunk of an accepted copy. -/
  | copyRow (copy : Nat)
  /-- COPY_COMPLETION (R291). Checks the digest, adds to the counter and marks the copy complete in its batch. -/
  | copyCompletion (copy : Nat)
  /-- COLLECTIVE_TILE_RECEIVE (R301). A contribution tile arrives, is buffered or folded in slot order, and output is written. -/
  | collectiveTileReceive (t : CollTile)
  /-- ARRIVAL_APPEND (R302). Appends an arrival queue entry once a tile is written and the queue is valid and not full. -/
  | arrivalAppend (coll slot : Nat)
  /-- STAMP (R409). The root stamps a group request, holds it, or answers a duplicate from its window. -/
  | stamp (r : GroupReq)
  /-- STAMP_REPLY (R410). The originator receives a stamp reply and stops its timer. -/
  | stampReply (group number stamp : Nat)
  /-- STAMPED_REQUEST_APPLY (R411). A member applies the next stamp, holds early ones, and forwards to its children. -/
  | stampedRequestApply (stamp : Nat) (r : GroupReq)
  /-- END_TO_END_RESEND (R408). No stamp reply within Te; the source resends the request with the same number. -/
  | endToEndResend (group number : Nat)
  /-- APPLIED_REPORT (R411). A member reports its last applied stamp to the root. -/
  | appliedReport (group member applied : Nat)
  /-- ROOT_RESEND (R411). After Te without a report, the root resends held stamps to the member. -/
  | rootResend (group member : Nat)
  /-- RD (R394). Read message acted on by every receiver at slot k + D. -/
  | rd (m : BusMsg)
  /-- RO (R394). Ownership read acted on by every receiver. -/
  | ro (m : BusMsg)
  /-- UP (R396). Upgrade acted on, or treated as an ownership read if the copy did not survive. -/
  | up (m : BusMsg)
  /-- EV (R394). Eviction message clearing the home's owner bit. -/
  | ev (m : BusMsg)
  /-- RC (R351). Recall that invalidates every copy of the line. -/
  | rc (m : BusMsg)
  /-- DC (R358). Discard that drops every copy of the sector. -/
  | dc (m : BusMsg)
  /-- UH (R398). Broadcast-window update header with its mask and data slots, applied at every replica. -/
  | uh (m : BusMsg) (upd : List (Nat × Byte))
  /-- UA (R398). Broadcast-window atomic applied at every replica. -/
  | ua (m : BusMsg) (a : UpdAtomic)
  /-- HR (R421). Host read message demoting device copies to S. -/
  | hr (m : BusMsg)
  /-- HW (R421). Host ownership message invalidating device copies. -/
  | hw (m : BusMsg)
  /-- DATA_SUPPLY (R395). The supplier's data arrives over the mesh and the requester's access completes. -/
  | dataSupply (m : BusMsg)
  /-- EVICTION_WRITE_BACK (R395). Eviction data arrives at the home and is written, releasing held requests. -/
  | evictionWriteBack (m : BusMsg)
  /-- WALK_REQUEST (R345). The table controller answers a region walk request. -/
  | walkRequest (core asid rn : Nat)
  /-- FLIT_RECEIVE (R407). A port accepts an in-order flit with a correct CRC, or drops it and asks for replay. -/
  | flitReceive (port : Nat) (f : Flit)
  /-- REPLAY (R407). The sender replays flits in order from the requested sequence. -/
  | replay (port seq : Nat)
  /-- MEMRD (R420). A host CXL.mem read is served under the granule's bias. -/
  | memrd (r : HostReq)
  /-- MEMRDDATA (R417). A host CXL.mem read for data is served. -/
  | memrddata (r : HostReq)
  /-- MEMWR (R420). A host CXL.mem write is applied under the granule's bias. -/
  | memwr (r : HostReq) (data : List Byte)
  /-- MEMINV (R417). A host CXL.mem invalidation is served. -/
  | meminv (r : HostReq)
  /-- SNPDATA (R419). A host snoop for data is answered through the reverse map. -/
  | snpdata (r : HostReq)
  /-- SNPINV (R419). A host invalidating snoop is answered. -/
  | snpinv (r : HostReq)
  /-- SNPCUR (R419). A host snoop for the current value is answered. -/
  | snpcur (r : HostReq)
  /-- BIRSP (R423). A back-invalidate response arrives; a pending flip to device bias takes effect. -/
  | birsp (adapter : Nat) (at_ : SnoopPlace)
  /-- QUEUE_CREATE (R371). Creates a queue and its job. -/
  | queueCreate (c : CardId)
  /-- QUEUE_SEAL (R390). Seals a queue at the current reserve. -/
  | queueSeal (c : CardId)
  /-- QUEUE_DESTROY (R390). Seals a queue and drains or cancels it. -/
  | queueDestroy (c : CardId)
  /-- QUEUE_RESTART (R375). Retries the fetch of a queue stopped by a fault. -/
  | queueRestart (c : CardId)
  /-- ASID_CREATE (R345). Creates an ASID in a domain and names its table controller. -/
  | asidCreate (c : CardId)
  /-- REGION_SET (R346). Writes a region entry, invalidating where rights shrink. -/
  | regionSet (c : CardId)
  /-- PAGE_MAP (R349). Maps a 64 KiB page to a frame at its home controllers. -/
  | pageMap (c : CardId)
  /-- PAGE_UNMAP (R351). Recalls a page and clears present. -/
  | pageUnmap (c : CardId)
  /-- PAGE_QUERY (R349). Returns a page table entry, optionally clearing dirty. -/
  | pageQuery (c : CardId)
  /-- TEAM_RESUME (R343). Resumes a halted team and its crew. -/
  | teamResume (c : CardId)
  /-- DOMAIN_ASSIGN (R334). Reassigns drained clusters to a domain. -/
  | domainAssign (c : CardId)
  /-- LINK_CONFIGURE (R412). Sets the module id, port roles and routing table. -/
  | linkConfigure (c : CardId)
  /-- TOPOLOGY_CHANGE (R414). Seals remote issue and begins a topology change. -/
  | topologyChange (c : CardId)
  /-- GROUP_BIND (R413). Binds a group after comparing members' descriptors. -/
  | groupBind (c : CardId)
  /-- GROUP_DISSOLVE (R413). Unbinds a group once every reachable member has caught up. -/
  | groupDissolve (c : CardId)
  /-- BIAS_SET (R422). Starts a flip of a granule's bias. -/
  | biasSet (c : CardId)
  /-- FAR_MAP (R419). Places a page in host or pool memory through an adapter. -/
  | farMap (c : CardId)
  /-- ADAPTER_ATTACH (R416). Binds a host port to an adapter number. -/
  | adapterAttach (c : CardId)
  /-- CLOCK_CHANGE (R438). Lowers a cluster's clock one step on temperature, power or SRAM margin. -/
  | clockChange (cluster : Nat)
  /-- CLOCK_RAISE (R438). Raises a cluster's clock one step after its cause has cleared for 1 s. -/
  | clockRaise (cluster : Nat)
  /-- THERMAL_STOP (R438). Stops a cluster's clocks above 105 °C until it cools to 95 °C. -/
  | thermalStop (cluster : Nat)
  /-- UNCORRECTABLE_ERROR (R368). An uncorrectable error is reported, the accessor faulted and the page retired. -/
  | uncorrectableError (e : ErrorSite)
  /-- CLUSTER_LOSS (R370). Tramontane declares a cluster lost, fences it and fails its launches. -/
  | clusterLoss (cluster : Nat)
  /-- PORT_TRAINED (R406). A port's training or retraining ends, its up bit becomes final, and a topology change waiting on every up bit raises LINK.gen and releases held traffic. -/
  | portTrained (port : Nat) (ok : Bool)
  /-- CONTRIBUTION_READ (R299). After acceptance, the collective engine reads a tile of the rank's contribution and sends it to the peers, waiting when a receiver's buffering is full. -/
  | contributionRead (coll : Nat)
  /-- BINDING_ANNOUNCEMENT (R413). A root's announcement of a binding or unbinding arrives down the tree, and the member binds or unbinds the group and writes its result word. -/
  | bindingAnnouncement (group : Nat) (bind : Bool)
  /-- FAR_FILL_REPLY (R419). Data for a fill of a far-mapped page returns from host or pool memory through the adapter, and the access completes. -/
  | farFillReply (asid va : Nat) (data : List Byte)
  /- S-words and steps without fields. -/
  /-- RET (R173). Ends the team when s95 is zero, else jumps to s95. -/
  | ret
  /-- LSYNC (R178). Waits until every earlier L-word has completed its passes. -/
  | lsync
  /-- CBAR (R179). Waits at the crew barrier; an acquire-release fence at crew scope. -/
  | cbar
  /-- RFENCE (R183). Waits for earlier stores to be performed, then drops the team's records from the record cache. -/
  | rfence
  /-- GFENCE (R184). Waits until the team's earlier group writes are applied locally. -/
  | gfence
  /-- SRET_RESUME (R364). Returns from the handler to EPC, leaving held stores held. -/
  | sretResume
  /-- SRET_REPLAY (R356). Re-issues held store entries in sequence, then returns from the handler. -/
  | sretReplay
  /-- SRET_ABANDON (R365). Drops held and later stores and removes the team. -/
  | sretAbandon
  /-- YIELD (R190). Ends the current time slice as expiry does. -/
  | yield
  /-- WALK_REPLY (R345). The core receives a region entry and caches it if valid. -/
  | walkReply
  /-- DRAIN_COMPLETE (R414). Every module port's outstanding counter reaches zero and the switch message is sent. -/
  | drainComplete
  /-- DRAIN_LIMIT_EXPIRY (R415). The drain limit passes; the change is abandoned or completed with a refusal. -/
  | drainLimitExpiry
  /-- SWITCH_STATUS (R402). The switches' status byte arrives on the control fibre pair. -/
  | switchStatus
  /-- HOST_BIAS_FLIP (R422). The granule becomes host bias once every recalled write-back is written. -/
  | hostBiasFlip
  /-- ATTEST (R440). Returns a signed attestation report for a nonce. -/
  | attest
  /-- CERTIFICATE (R437). Returns the device certificate. -/
  | certificate
  /-- ENROL_KEY (R441). Enrols a P-256 public key once in the module's life. -/
  | enrolKey
  /-- CONFIGURE (R441). Accepts a signed configuration record. -/
  | configure
  /-- SCRUB_ADD (R442). Registers a tensor for the scrubber. -/
  | scrubAdd
  /-- SCRUB_REMOVE (R442). Removes a scrubber entry. -/
  | scrubRemove
  /-- RECORD_START (R444). Starts Levanter recording of a job's nondeterministic inputs. -/
  | recordStart
  /-- RECORD_STOP (R444). Stops recording and returns the entry count and overflow bit. -/
  | recordStop
  /-- REPLAY_START (R445). Drives a job from a Levanter log. -/
  | replayStart
  /-- WEAR_READ (R446). Returns the wear indicators. -/
  | wearRead
  /-- ERROR_LOG_READ (R447). Returns up to 64 error log entries. -/
  | errorLogRead
  /-- BRING_UP (R436). Tramontane brings the module from power-on to ready. -/
  | bringUp
  /-- WEAR_MEASUREMENT (R446). Measures the wear indicators every 60 s and takes threshold actions. -/
  | wearMeasurement
  /-- SCRUB (R442). The scrubber reads and hashes a registered tensor and logs a mismatch. -/
  | scrub
  /-- CLUSTER_COOLED (R438). A cluster stopped for temperature cools to 95 °C and its clocks start again. -/
  | clusterCooled
deriving DecidableEq, Repr

end Sys2Proof
end

