-- ==== Sys2Proof/Machine/LaneTable.lean ====
section
/-! DEFINITION. The encoding tables of the L-words: for each opcode the legal types, modifiers and operand namespaces
(R142 to R149, R201, R203, R212, R217, R226, R238, R245, R250, R251). -/

namespace Sys2Proof.Machine

/-- How an operand field of an L-word is used, which fixes the codes that are legal in it (R48 to R50, R147, R227). -/
inductive FieldUse where
  | unused
  | raw (limit : Nat)
  | dv
  | dv32
  | dp
  | ds
  | dvs
  | dvp
  | src
  | src32
  | srcAs (ty : Nat)
  | uni
  | pred
  | addr
  | base
  | localBase
  | offset
  | stride
  | words
deriving DecidableEq, Repr

/-- The uses of the five operand fields. -/
structure Uses where
  d : FieldUse := .unused
  a : FieldUse := .unused
  b : FieldUse := .unused
  c : FieldUse := .unused
  e : FieldUse := .unused
deriving DecidableEq, Repr

/-- A type code of the set I of R203. -/
def tyI (t : Nat) : Bool := t ≤ 3 || (11 ≤ t && t ≤ 14)
/-- A signed type code (the set S of R203). -/
def tyS (t : Nat) : Bool := t = 0 || t = 2 || t = 11 || t = 13
/-- A type code of 64-bit pairs (R47). -/
def ty64 (t : Nat) : Bool := t = 2 || t = 3
/-- A type code of the set F of R212. -/
def tyF (t : Nat) : Bool := t = 4 || t = 5 || t = 6
/-- A type code of the set X of R238. -/
def tyX (t : Nat) : Bool := t ≤ 4 || t = 15
/-- A 32- or 64-bit integer type or b32 (R203, bit fields). -/
def tyB (t : Nat) : Bool := t ≤ 3 || t = 15

/-- The uses of an L-word's fields when its opcode is assigned and its type, modifier and (for `vcvt`) source type are
legal; none otherwise. -/
def laneUses (op ty md st : Nat) : Option Uses :=
  let when (c : Bool) (u : Uses) : Option Uses := if c then some u else none
  match op with
  | 0x001 | 0x002 | 0x003 => when (tyI ty && md ≤ 1) { d := .dv, a := .src, b := .src }
  | 0x004 | 0x006 | 0x007 | 0x00A | 0x00B => when (tyI ty && md = 0) { d := .dv, a := .src, b := .src }
  | 0x005 => when (tyI ty && md ≤ 1) { d := .dv, a := .src, b := .src, c := .src }
  | 0x008 => when (tyS ty && md ≤ 1) { d := .dv, a := .src }
  | 0x009 => when (tyI ty && (md = 0 || (md = 1 && tyS ty))) { d := .dv, a := .src }
  | 0x00C | 0x00D | 0x00E | 0x010 | 0x011 | 0x012 | 0x013 =>
    when ((tyI ty || ty = 15) && md = 0) { d := .dv, a := .src, b := .src }
  | 0x00F | 0x014 | 0x015 | 0x016 => when ((tyI ty || ty = 15) && md = 0) { d := .dv, a := .src }
  | 0x017 | 0x018 => when (tyB ty && md = 0) { d := .dv, a := .src, b := .src, c := .src }
  | 0x019 => when (tyX ty && md = 0) { d := .dv, a := .src, b := .src, c := .src }
  | 0x01A => when (tyI ty && md ≤ 5) { d := .dp, a := .src, b := .src }
  | 0x01B => when (md = 0) { d := .dv, a := .src }
  | 0x01C => when (tyX ty && md = 0) { d := .dv, a := .raw 2048, b := .raw 2048, c := .raw 1024 }
  | 0x01D => when (ty ≤ 3 && md ≤ 3) { d := .dv, a := .src, b := .src }
  | 0x01E => when (tyX ty && md ≤ 1) { d := .dv, a := .src, b := if md = 1 then .uni else .unused }
  | 0x081 | 0x082 | 0x083 | 0x08D => when (tyF ty && md ≤ 3) { d := .dv, a := .src, b := .src }
  | 0x084 | 0x085 | 0x086 => when (tyF ty && md ≤ 3) { d := .dv, a := .src, b := .src, c := .src }
  | 0x087 | 0x088 => when (tyF ty && md = 0) { d := .dv, a := .src, b := .src }
  | 0x089 | 0x08A => when (tyF ty && md = 0) { d := .dv, a := .src }
  | 0x08B => when ((tyF ty || ty = 7 || ty = 8) && md ≤ 7) { d := .dp, a := .src, b := .src }
  | 0x08C => when ((tyF ty || ty = 7 || ty = 8) && md = 0) { d := .dv32, a := .src }
  | 0x08E => when (tyF ty && md ≤ 3) { d := .dv, a := .src }
  | 0x08F => when ((ty = 5 || ty = 6) && md ≤ 3) { d := .dv32, a := .src32, b := .src32, c := .src32 }
  | 0x090 => when (ty = 7 || ty = 8 || ty = 10) { d := .dv32, a := .src32, b := .src32, c := .src32 }
  | 0x091 => when (ty = 9 && md ≤ 3) { d := .dv32, a := .src32, b := .src32, c := .src32 }
  | 0x101 => when (ty ≠ 15 && md ≤ 3) { d := .dv, a := .srcAs st, b := .raw 15 }
  | 0x102 => when (5 ≤ ty && ty ≤ 10 && md ≤ 7) { d := .dv32, a := .src32, b := .uni, c := .src32, e := .raw 4 }
  | 0x103 => when (7 ≤ ty && ty ≤ 10 && md = 0) { d := .dv32, a := .src32, b := .uni }
  | 0x104 =>
    if ty = 9 then when (md ≤ 1) { d := .dv32, a := .src32, b := .src32, c := .src32, e := .src32 }
    else if ty = 7 || ty = 8 || ty = 10 || ty = 13 || ty = 14 then
      when (md = 0) { d := .dv32, a := .src32, b := .src32, c := .src32, e := .src32 }
    else when ((ty = 5 || ty = 6 || ty = 11 || ty = 12) && md = 0) { d := .dv32, a := .src32, b := .src32 }
  | 0x105 =>
    let n := if ty = 9 then 8 else if ty = 5 || ty = 6 then 2 else 4
    when (5 ≤ ty && ty ≤ 10 && md % 8 < n) { d := .dv32, a := .src32, b := .src32, c := .uni }
  | 0x106 => when (4 ≤ ty && ty ≤ 10 && md ≤ 3) { d := .dv32, a := .src32 }
  | 0x107 => when (ty = 4 && md = 0) { d := .dv32, a := .src32 }
  | 0x108 => when (ty ≠ 2 && ty ≠ 3 && ty ≠ 15 && (md = 0 || md = 4)) { a := .src, e := .raw 4 }
  | 0x181 => when (ty = 0 && md = 0) { a := .uni }
  | 0x182 | 0x183 | 0x184 | 0x185 => when (tyX ty && md = 0) { d := .dv, a := .src, b := .src32 }
  | 0x186 => when (ty = 0 && md ≤ 3) { d := if md ≤ 1 then .dvp else .dv32, a := .src32 }
  | 0x187 => when (ty ≤ 4 && md % 8 ≤ (if ty = 4 then 2 else 5)) { d := .dv, a := .src }
  | 0x188 => when (ty ≤ 4 && md ≤ (if ty = 4 then 2 else 5)) { d := .dvs, a := .src }
  | 0x189 => when (tyX ty && md = 0) { d := .dv, a := .src }
  | 0x18A | 0x18D => when (ty = 0 && md ≤ 1) { a := .pred }
  | 0x18B | 0x18C | 0x18E => when (ty = 0 && md = 0) {}
  | 0x18F =>
    if md = 0 || md = 4 then when (ty = 0) { a := .pred }
    else if md = 1 then when (ty = 0) { a := .uni, b := .uni }
    else when (ty = 0 && md = 2) {}
  | 0x190 =>
    if md = 0 then when (ty = 0) { d := .dp }
    else if md = 1 then when (ty = 0) { d := .ds }
    else when (ty = 0 && md = 2) { d := .ds, b := .uni }
  | 0x191 | 0x192 | 0x193 => when (ty = 0 && md ≤ 3) { d := .dp, a := .pred, b := .pred }
  | 0x194 => when (ty = 0 && md = 0) { d := .dp, a := .pred }
  | 0x195 => when ((tyI ty || ty = 15) && md = 0) { d := .dp, a := .src }
  | 0x201 => when (ty ≠ 9 && md ≤ 1) { d := .dv, a := .addr, b := .offset }
  | 0x202 => when (ty ≠ 9 && (md = 0 || md = 2)) { a := .addr, b := .offset, c := .src }
  | 0x203 => when (ty ≠ 9 && md ≤ 3) { d := .dv, a := .base, b := .offset, c := .stride }
  | 0x204 => when (ty ≠ 9 && md ≤ 3) { a := .base, b := .offset, c := .stride, e := .src }
  | 0x205 => when (ty ≠ 9 && md ≤ 7) { d := .dv, a := .base, b := .offset, c := .offset }
  | 0x206 => when (ty ≠ 9 && md ≤ 7) { a := .base, b := .offset, c := .offset, e := .src }
  | 0x207 => when (ty ≠ 9 && (md = 0 || (4 ≤ md && md ≤ 7))) { d := .dv, a := .localBase, b := .offset }
  | 0x208 => when (ty ≠ 9 && (md = 0 || (4 ≤ md && md ≤ 7))) { a := .localBase, b := .offset, c := .src }
  | 0x209 => when (ty ≤ 4 && md ≤ 3) { d := .dv, a := .addr, b := .offset, c := .src, e := .raw 8 }
  | 0x20A => when (ty = 0 && md ≤ 1) { a := .addr, b := .offset }
  | 0x280 => when (ty = 0 && md = 0) { a := .words }
  | _ => none

/-- A vector register code that a team with `V` registers may name, as a pair under a 64-bit type (R46, R47). -/
def vecOk (V : Nat) (wide : Bool) (c : Nat) : Bool :=
  if wide then c < 1536 && c % 2 = 0 && c + 1 < V else c < 1536 && c < V
/-- A scalar register code of an L-word (R45). -/
def scaCode (c : Nat) : Bool := 1536 ≤ c && c ≤ 1631
/-- A predicate code (R45). -/
def preCode (c : Nat) : Bool := 1632 ≤ c && c ≤ 1647
/-- A special lane value that is not reserved (R50). -/
def speCode (c : Nat) : Bool := 1648 ≤ c && c ≤ 1659
/-- A constant code (R48). -/
def conCode (c : Nat) : Bool := 1664 ≤ c && c ≤ 2047

/-- Whether an operand code is legal in a field of this use (R46 to R50, R147, R201, R227). -/
def codeOk (V ty : Nat) (u : FieldUse) (c : Nat) : Bool :=
  match u with
  | .unused => c = 0
  | .raw n => c < n
  | .dv => vecOk V (ty64 ty) c
  | .dv32 => vecOk V false c
  | .dp => preCode c
  | .ds => scaCode c
  | .dvs => vecOk V (ty64 ty) c || scaCode c
  | .dvp => vecOk V false c || preCode c
  | .src => vecOk V (ty64 ty) c || scaCode c || preCode c || speCode c || conCode c
  | .src32 => vecOk V false c || scaCode c || preCode c || speCode c || conCode c
  | .srcAs t => vecOk V (ty64 t) c || scaCode c || preCode c || speCode c || conCode c
  | .uni => scaCode c || conCode c
  | .pred => preCode c
  | .addr => vecOk V true c || scaCode c
  | .base => scaCode c
  | .localBase => vecOk V false c || scaCode c || speCode c || conCode c
  | .offset => vecOk V false c || scaCode c || speCode c || conCode c
  | .stride => scaCode c || conCode c
  | .words => c ≤ 1533 && c + 2 < V

/-- Whether the opcode is of the memory class (R148). -/
def isMemOp (op : Nat) : Bool := 0x200 ≤ op && op ≤ 0x27F

/-- Whether the word must be unguarded (R244, R245). -/
def mustUnguarded (op : Nat) : Bool :=
  op = 0x181 || op = 0x18B || op = 0x18C || op = 0x18E || op = 0x18F || op = 0x190

/-- The checks of R149 on an L-word's opcode and fields, for a team with `V` vector registers. -/
def laneLegal (V op : Nat) (f : LaneFields) : Bool :=
  match laneUses op f.ty.toNat f.md.toNat f.b.toNat with
  | none => false
  | some u =>
    codeOk V f.ty.toNat u.d f.d.toNat && codeOk V f.ty.toNat u.a f.a.toNat && codeOk V f.ty.toNat u.b f.b.toNat
      && codeOk V f.ty.toNat u.c f.c.toNat && codeOk V f.ty.toNat u.e f.e.toNat
      && (if isMemOp op then f.hint.toNat ≤ 3 else f.hint = 0)
      && decide (f.sched.toNat / 16 ≠ 3)
      && (!mustUnguarded op || (f.g1 = 15 && f.g2 = 15))
      && !(op = 0x209 && f.ty = 4 && 3 ≤ f.e.toNat && f.e.toNat ≤ 5)

/-- The opcode (R148) and fields of an L-word; none for an S-word and for a step of the hardware. -/
def laneOf : Instr → Option (Nat × LaneFields)
  | .vadd f => some (0x001, f)
  | .vsub f => some (0x002, f)
  | .vmul f => some (0x003, f)
  | .vmulh f => some (0x004, f)
  | .vmad f => some (0x005, f)
  | .vdiv f => some (0x006, f)
  | .vrem f => some (0x007, f)
  | .vabs f => some (0x008, f)
  | .vneg f => some (0x009, f)
  | .vmin f => some (0x00A, f)
  | .vmax f => some (0x00B, f)
  | .vand f => some (0x00C, f)
  | .vor f => some (0x00D, f)
  | .vxor f => some (0x00E, f)
  | .vnot f => some (0x00F, f)
  | .vshl f => some (0x010, f)
  | .vshr f => some (0x011, f)
  | .vsra f => some (0x012, f)
  | .vrot f => some (0x013, f)
  | .vclz f => some (0x014, f)
  | .vpopc f => some (0x015, f)
  | .vbrev f => some (0x016, f)
  | .vbext f => some (0x017, f)
  | .vbins f => some (0x018, f)
  | .vsel f => some (0x019, f)
  | .vcmp f => some (0x01A, f)
  | .vmov f => some (0x01B, f)
  | .vli f => some (0x01C, f)
  | .vlane f => some (0x01D, f)
  | .vbcast f => some (0x01E, f)
  | .vfadd f => some (0x081, f)
  | .vfsub f => some (0x082, f)
  | .vfmul f => some (0x083, f)
  | .vfma f => some (0x084, f)
  | .vfms f => some (0x085, f)
  | .vfnma f => some (0x086, f)
  | .vfmin f => some (0x087, f)
  | .vfmax f => some (0x088, f)
  | .vfabs f => some (0x089, f)
  | .vfneg f => some (0x08A, f)
  | .vfcmp f => some (0x08B, f)
  | .vfclass f => some (0x08C, f)
  | .vfdiv f => some (0x08D, f)
  | .vfsqrt f => some (0x08E, f)
  | .vdot2 f => some (0x08F, f)
  | .vdot4 f => some (0x090, f)
  | .vdot8 f => some (0x091, f)
  | .vcvt f => some (0x101, f)
  | .vcvts f => some (0x102, f)
  | .vscl f => some (0x103, f)
  | .vpack f => some (0x104, f)
  | .vunpk f => some (0x105, f)
  | .vround f => some (0x106, f)
  | .vcrv f => some (0x107, f)
  | .vamax f => some (0x108, f)
  | .vband f => some (0x181, f)
  | .vshf f => some (0x182, f)
  | .vshfx f => some (0x183, f)
  | .vshfu f => some (0x184, f)
  | .vshfd f => some (0x185, f)
  | .vvote f => some (0x186, f)
  | .vscan f => some (0x187, f)
  | .vred f => some (0x188, f)
  | .vext f => some (0x189, f)
  | .mif f => some (0x18A, f)
  | .melse f => some (0x18B, f)
  | .mend f => some (0x18C, f)
  | .mbrk f => some (0x18D, f)
  | .mloop f => some (0x18E, f)
  | .msetPred f => some (0x18F, f)
  | .msetWord f => some (0x18F, f)
  | .msetAll f => some (0x18F, f)
  | .mgetPred f => some (0x190, f)
  | .mgetSum f => some (0x190, f)
  | .mgetWord f => some (0x190, f)
  | .pand f => some (0x191, f)
  | .por f => some (0x192, f)
  | .pxor f => some (0x193, f)
  | .pnot f => some (0x194, f)
  | .pmov f => some (0x195, f)
  | .vld f => some (0x201, f)
  | .vst f => some (0x202, f)
  | .vlds f => some (0x203, f)
  | .vsts f => some (0x204, f)
  | .vldx f => some (0x205, f)
  | .vstx f => some (0x206, f)
  | .vldm f => some (0x207, f)
  | .vstm f => some (0x208, f)
  | .vamo f => some (0x209, f)
  | .vpref f => some (0x20A, f)
  | .xiss f => some (0x280, f)
  | _ => none

/-- The constructor of an opcode of R148, with the forms of `mset` and `mget` that modifier[1:0] selects (R245). -/
def mkLane (op : Nat) (f : LaneFields) : Option Instr :=
  match op with
  | 0x001 => some (.vadd f)
  | 0x002 => some (.vsub f)
  | 0x003 => some (.vmul f)
  | 0x004 => some (.vmulh f)
  | 0x005 => some (.vmad f)
  | 0x006 => some (.vdiv f)
  | 0x007 => some (.vrem f)
  | 0x008 => some (.vabs f)
  | 0x009 => some (.vneg f)
  | 0x00A => some (.vmin f)
  | 0x00B => some (.vmax f)
  | 0x00C => some (.vand f)
  | 0x00D => some (.vor f)
  | 0x00E => some (.vxor f)
  | 0x00F => some (.vnot f)
  | 0x010 => some (.vshl f)
  | 0x011 => some (.vshr f)
  | 0x012 => some (.vsra f)
  | 0x013 => some (.vrot f)
  | 0x014 => some (.vclz f)
  | 0x015 => some (.vpopc f)
  | 0x016 => some (.vbrev f)
  | 0x017 => some (.vbext f)
  | 0x018 => some (.vbins f)
  | 0x019 => some (.vsel f)
  | 0x01A => some (.vcmp f)
  | 0x01B => some (.vmov f)
  | 0x01C => some (.vli f)
  | 0x01D => some (.vlane f)
  | 0x01E => some (.vbcast f)
  | 0x081 => some (.vfadd f)
  | 0x082 => some (.vfsub f)
  | 0x083 => some (.vfmul f)
  | 0x084 => some (.vfma f)
  | 0x085 => some (.vfms f)
  | 0x086 => some (.vfnma f)
  | 0x087 => some (.vfmin f)
  | 0x088 => some (.vfmax f)
  | 0x089 => some (.vfabs f)
  | 0x08A => some (.vfneg f)
  | 0x08B => some (.vfcmp f)
  | 0x08C => some (.vfclass f)
  | 0x08D => some (.vfdiv f)
  | 0x08E => some (.vfsqrt f)
  | 0x08F => some (.vdot2 f)
  | 0x090 => some (.vdot4 f)
  | 0x091 => some (.vdot8 f)
  | 0x101 => some (.vcvt f)
  | 0x102 => some (.vcvts f)
  | 0x103 => some (.vscl f)
  | 0x104 => some (.vpack f)
  | 0x105 => some (.vunpk f)
  | 0x106 => some (.vround f)
  | 0x107 => some (.vcrv f)
  | 0x108 => some (.vamax f)
  | 0x181 => some (.vband f)
  | 0x182 => some (.vshf f)
  | 0x183 => some (.vshfx f)
  | 0x184 => some (.vshfu f)
  | 0x185 => some (.vshfd f)
  | 0x186 => some (.vvote f)
  | 0x187 => some (.vscan f)
  | 0x188 => some (.vred f)
  | 0x189 => some (.vext f)
  | 0x18A => some (.mif f)
  | 0x18B => some (.melse f)
  | 0x18C => some (.mend f)
  | 0x18D => some (.mbrk f)
  | 0x18E => some (.mloop f)
  | 0x18F => match f.md.toNat % 4 with
    | 0 => some (.msetPred f)
    | 1 => some (.msetWord f)
    | 2 => some (.msetAll f)
    | _ => none
  | 0x190 => match f.md.toNat % 4 with
    | 0 => some (.mgetPred f)
    | 1 => some (.mgetSum f)
    | 2 => some (.mgetWord f)
    | _ => none
  | 0x191 => some (.pand f)
  | 0x192 => some (.por f)
  | 0x193 => some (.pxor f)
  | 0x194 => some (.pnot f)
  | 0x195 => some (.pmov f)
  | 0x201 => some (.vld f)
  | 0x202 => some (.vst f)
  | 0x203 => some (.vlds f)
  | 0x204 => some (.vsts f)
  | 0x205 => some (.vldx f)
  | 0x206 => some (.vstx f)
  | 0x207 => some (.vldm f)
  | 0x208 => some (.vstm f)
  | 0x209 => some (.vamo f)
  | 0x20A => some (.vpref f)
  | 0x280 => some (.xiss f)
  | _ => none

end Sys2Proof.Machine
end

