-- ==== Sys2Proof/WellFormed.lean ====
section
/-! DEFINITION. Well-formed instructions: every field holds a value that the encoding rules allow (R134, R135, R137,
R138, R113, R149 with 1,536 registers). -/

namespace Sys2Proof

/-- A register field names s0 to s95 or sz (R134). -/
def regOk (r : SReg) : Bool := r.toNat < 96 || r = 127

/-- A legal kind and scope of `fence` (R112, R113). -/
def fenceOk (kind scope : BitVec 3) : Bool :=
  kind.toNat ≤ 4 && scope.toNat ≤ 5 && !(kind = 4 && (scope = 1 || scope = 5))

/-- Every field of an instruction is legal. A step of the hardware has no encoding and is well-formed. -/
def wellFormed (i : Instr) : Bool :=
  match i with
  | .add d a b | .sub d a b | .mul d a b | .mulhS d a b | .mulhZ d a b | .divS d a b | .divZ d a b | .remS d a b
  | .remZ d a b | .and d a b | .or d a b | .xor d a b | .shl d a b | .shr d a b | .sra d a b | .minS d a b
  | .minZ d a b | .maxS d a b | .maxZ d a b | .sltS d a b | .sltZ d a b | .seq d a b | .sel d a b
  | .lloop d a b _ | .post d a b | .cacheBind d a b => regOk d && regOk a && regOk b
  | .clz d a | .ctz d a | .popc d a | .ownQuery d a | .coll d a | .qpop d a | .gseq d a | .own _ d a | .ctr _ d a
  | .ld _ d a _ | .st _ d a _ | .addi d a _ | .andi d a _ | .ori d a _ | .xori d a _ | .slti d a _ | .shli d a _
  | .shri d a _ | .srai d a _ => regOk d && regOk a
  | .limm d _ | .lsh d _ | .lpc d _ | .cpclose d | .csrr d _ => regOk d
  | .amoS32 _ _ d a b | .amoZ32 _ _ d a b | .amo64 _ _ d a b => regOk d && regOk a && regOk b
  | .amoF32 aop _ d a b => regOk d && regOk a && regOk b && (aop.toNat ≤ 2 || 6 ≤ aop.toNat)
  | .bc cond a _ => regOk a && cond.toNat ≤ 5
  | .jr a | .callr a | .lrun a _ | .cpwait a | .mxpost a | .crvld a | .tstop a | .cacheUnbind a | .csrw a _
  | .cancel _ a => regOk a
  | .cwait a b | .qpush a b | .rptinv a b | .cacheWb a b | .cacheInv a b | .cacheWbinv a b | .cacheDiscard a b =>
    regOk a && regOk b
  | .fence kind scope => fenceOk kind scope
  | i => match Machine.laneOf i with
    | some (op, f) => Machine.laneLegal Config.vregs op f && Machine.mkLane op f == some i
    | none => true

end Sys2Proof
end

