-- ==== Sys2Proof/Decode.lean ====
section
/-! DEFINITION. Decoding S-words (R133 to R141, R112) and L-words (R142 to R149), total on any word and rejecting by
name; the encoder; and the decoder over bytes in memory order. -/

namespace Sys2Proof

/-- Why a word is no instruction: each is the illegal-instruction trap (R134, R135, R149). -/
inductive Reject where
  | reservedOpcode
  | reservedRegister
  | reservedField
  | illegalFunction
  | illegalLaneWord
  | shortWord
deriving DecidableEq, Repr

/-- A field of an S-word: `n` bits from bit `lo`. -/
def sfield (w : Half) (lo n : Nat) : BitVec n := w.extractLsb' lo n

/-- The register-register functions of opcode 0x01, in the order of R136. -/
def decodeAlu (fn : Nat) (d a b : SReg) : Except Reject Instr :=
  match fn with
  | 0 => .ok (.add d a b) | 1 => .ok (.sub d a b) | 2 => .ok (.mul d a b) | 3 => .ok (.mulhS d a b)
  | 4 => .ok (.mulhZ d a b) | 5 => .ok (.divS d a b) | 6 => .ok (.divZ d a b) | 7 => .ok (.remS d a b)
  | 8 => .ok (.remZ d a b) | 9 => .ok (.and d a b) | 10 => .ok (.or d a b) | 11 => .ok (.xor d a b)
  | 12 => .ok (.shl d a b) | 13 => .ok (.shr d a b) | 14 => .ok (.sra d a b) | 15 => .ok (.minS d a b)
  | 16 => .ok (.minZ d a b) | 17 => .ok (.maxS d a b) | 18 => .ok (.maxZ d a b) | 19 => .ok (.sltS d a b)
  | 20 => .ok (.sltZ d a b) | 21 => .ok (.seq d a b)
  | 22 => if b = 0 then .ok (.clz d a) else .error .reservedField
  | 23 => if b = 0 then .ok (.ctz d a) else .error .reservedField
  | 24 => if b = 0 then .ok (.popc d a) else .error .reservedField
  | 25 => .ok (.sel d a b)
  | _ => .error .illegalFunction

/-- An instruction when every condition on fields that must be zero holds, else the reserved-field rejection (R135). -/
def needZero (c : Bool) (i : Instr) : Except Reject Instr := if c then .ok i else .error .reservedField

/-- The S-word of an opcode and its fields (R136), before the register fields are judged. -/
def decodeFields (w : Half) : Except Reject Instr :=
  let d : SReg := sfield w 19 7
  let a : SReg := sfield w 12 7
  let b : SReg := sfield w 5 7
  let fn : BitVec 5 := sfield w 0 5
  let imm12 : BitVec 12 := sfield w 0 12
  let low16 : BitVec 16 := sfield w 0 16
  let bfn0 : Bool := sfield w 0 12 = 0
  match (sfield w 26 6).toNat with
  | 0x01 => decodeAlu fn.toNat d a b
  | 0x02 => .ok (.addi d a imm12)
  | 0x03 => .ok (.andi d a imm12)
  | 0x04 => .ok (.ori d a imm12)
  | 0x05 => .ok (.xori d a imm12)
  | 0x06 =>
    if sfield w 8 4 ≠ 0 then .error .reservedField
    else match (sfield w 6 2).toNat with
      | 0 => .ok (.shli d a (sfield w 0 6))
      | 1 => .ok (.shri d a (sfield w 0 6))
      | 2 => .ok (.srai d a (sfield w 0 6))
      | _ => .error .illegalFunction
  | 0x07 => .ok (.slti d a imm12)
  | 0x08 => .ok (.limm d (sfield w 0 19))
  | 0x09 => .ok (.lsh d (sfield w 0 19))
  | 0x0A => .ok (.lpc d (sfield w 0 19))
  | 0x0B => .ok (.ld (sfield w 9 3) d a (sfield w 0 9))
  | 0x0C => needZero (sfield w 9 1 = 0) (.st (sfield w 10 2) d a (sfield w 0 9))
  | 0x0D => .ok (.amoS32 (sfield w 2 3) (sfield w 0 2) d a b)
  | 0x0E => .ok (.amoZ32 (sfield w 2 3) (sfield w 0 2) d a b)
  | 0x0F => .ok (.amo64 (sfield w 2 3) (sfield w 0 2) d a b)
  | 0x10 =>
    if 3 ≤ (sfield w 2 3).toNat && (sfield w 2 3).toNat ≤ 5 then .error .illegalFunction
    else .ok (.amoF32 (sfield w 2 3) (sfield w 0 2) d a b)
  | 0x11 => .ok (.b (sfield w 0 26))
  | 0x12 => .ok (.call (sfield w 0 26))
  | 0x13 => if (sfield w 16 3).toNat ≤ 5 then .ok (.bc (sfield w 16 3) d low16) else .error .illegalFunction
  | 0x14 =>
    match fn.toNat with
    | 0 => needZero (d = 0 && b = 0) (.jr a)
    | 1 => needZero (d = 0 && a = 0 && b = 0) .ret
    | 2 => needZero (d = 0 && b = 0) (.callr a)
    | _ => .error .illegalFunction
  | 0x15 => needZero (d = 0) (.lrun a imm12)
  | 0x16 => .ok (.lloop d a b fn)
  | 0x17 => needZero (d = 0 && a = 0 && bfn0) .lsync
  | 0x18 =>
    if fenceOk (sfield w 3 3) (sfield w 0 3) then
      needZero (d = 0 && a = 0 && sfield w 6 6 = 0) (.fence (sfield w 3 3) (sfield w 0 3))
    else .error .illegalFunction
  | 0x19 => needZero (d = 0 && a = 0 && bfn0) .cbar
  | 0x1A => needZero (d = 0 && fn = 0) (.cwait a b)
  | 0x1B => needZero (a = 0 && bfn0) (.cpclose d)
  | 0x1C => needZero (d = 0 && bfn0) (.cpwait a)
  | 0x1D => needZero (d = 0 && a = 0 && bfn0) .rfence
  | 0x1E => needZero (d = 0 && bfn0) (.mxpost a)
  | 0x1F =>
    if sfield w 2 10 = 0 then .ok (.own (sfield w 0 2) d a)
    else needZero (sfield w 0 12 = 4) (.ownQuery d a)
  | 0x20 => needZero bfn0 (.coll d a)
  | 0x21 => needZero (d = 0 && fn = 0) (.qpush a b)
  | 0x22 => needZero bfn0 (.qpop d a)
  | 0x23 => needZero (fn = 0) (.post d a b)
  | 0x24 => needZero (d = 0 && a = 0 && bfn0) .gfence
  | 0x25 => needZero bfn0 (.gseq d a)
  | 0x26 => needZero (d = 0 && bfn0) (.crvld a)
  | 0x27 => needZero (a = 0) (.csrr d imm12)
  | 0x28 => needZero (d = 0) (.csrw a imm12)
  | 0x29 => needZero (sfield w 16 10 = 0) (.trap low16)
  | 0x2A =>
    if d = 0 && a = 0 && b = 0 then
      match fn.toNat with
      | 0 => .ok .sretResume
      | 1 => .ok .sretReplay
      | 2 => .ok .sretAbandon
      | _ => .error .illegalFunction
    else .error .reservedField
  | 0x2B => needZero (d = 0 && a = 0 && bfn0) .yield
  | 0x2C => needZero (sfield w 16 10 = 0) (.brk low16)
  | 0x2D =>
    match fn.toNat with
    | 0 => needZero (d = 0) (.cacheWb a b)
    | 1 => needZero (d = 0) (.cacheInv a b)
    | 2 => needZero (d = 0) (.cacheWbinv a b)
    | 3 => needZero (d = 0) (.cacheDiscard a b)
    | 4 => .ok (.cacheBind d a b)
    | 5 => needZero (d = 0 && b = 0) (.cacheUnbind a)
    | _ => .error .illegalFunction
  | 0x2E => needZero (d = 0 && sfield w 2 10 = 0) (.cancel (sfield w 0 2) a)
  | 0x2F => needZero (sfield w 2 10 = 0) (.ctr (sfield w 0 2) d a)
  | 0x30 => needZero (d = 0 && fn = 0) (.rptinv a b)
  | 0x31 => needZero (d = 0 && bfn0) (.tstop a)
  | _ => .error .reservedOpcode

/-- Decode an S-word (R133 to R141): the fields, then the register fields (R134). -/
def decodeS (w : Half) : Except Reject Instr :=
  match decodeFields w with
  | .ok i => if wellFormed i then .ok i else .error .reservedRegister
  | .error e => .error e

/-- The opcode of an L-word (R142). -/
def laneOpcode (w : LWord) : Nat := (w.extractLsb' 86 10).toNat

/-- The fields of an L-word (R142). -/
def laneFields (w : LWord) : LaneFields where
  ty := w.extractLsb' 82 4
  md := w.extractLsb' 78 4
  d := w.extractLsb' 67 11
  a := w.extractLsb' 56 11
  b := w.extractLsb' 45 11
  c := w.extractLsb' 34 11
  e := w.extractLsb' 23 11
  g1 := w.extractLsb' 18 5
  g2 := w.extractLsb' 13 5
  hint := w.extractLsb' 10 3
  sched := w.extractLsb' 4 6

/-- Decode an L-word for a team with `V` vector registers (R149, R46). -/
def decodeLFor (V : Nat) (w : LWord) : Except Reject Instr :=
  if w.extractLsb' 0 4 = (0 : BitVec 4) && Machine.laneLegal V (laneOpcode w) (laneFields w) then
    match Machine.mkLane (laneOpcode w) (laneFields w) with
    | some i => .ok i
    | none => .error .illegalLaneWord
  else .error .illegalLaneWord

/-- Decode an L-word with every check of R149 but the team's own register count. -/
def decodeL (w : LWord) : Except Reject Instr := decodeLFor Config.vregs w

/-- An A-format word (R133). -/
def encA (op : BitVec 6) (d a b : SReg) (fn : BitVec 5) : Half := op ++ d ++ a ++ b ++ fn
/-- An I-format word (R133). -/
def encI (op : BitVec 6) (d a : SReg) (imm : BitVec 12) : Half := op ++ d ++ a ++ imm
/-- A U-format word (R133). -/
def encU (op : BitVec 6) (d : SReg) (imm : BitVec 19) : Half := op ++ d ++ imm

/-- The L-word of an opcode and fields (R142, R202). -/
def encL (op : BitVec 10) (f : LaneFields) : LWord :=
  op ++ f.ty ++ f.md ++ f.d ++ f.a ++ f.b ++ f.c ++ f.e ++ f.g1 ++ f.g2 ++ f.hint ++ f.sched ++ (0 : BitVec 4)

/-- The S-word of an instruction (R136, R165 to R197), none for L-words and steps of the hardware. -/
def encodeS (i : Instr) : Option Half :=
  match i with
  | .add d a b => some (encA 0x01 d a b 0) | .sub d a b => some (encA 0x01 d a b 1)
  | .mul d a b => some (encA 0x01 d a b 2) | .mulhS d a b => some (encA 0x01 d a b 3)
  | .mulhZ d a b => some (encA 0x01 d a b 4) | .divS d a b => some (encA 0x01 d a b 5)
  | .divZ d a b => some (encA 0x01 d a b 6) | .remS d a b => some (encA 0x01 d a b 7)
  | .remZ d a b => some (encA 0x01 d a b 8) | .and d a b => some (encA 0x01 d a b 9)
  | .or d a b => some (encA 0x01 d a b 10) | .xor d a b => some (encA 0x01 d a b 11)
  | .shl d a b => some (encA 0x01 d a b 12) | .shr d a b => some (encA 0x01 d a b 13)
  | .sra d a b => some (encA 0x01 d a b 14) | .minS d a b => some (encA 0x01 d a b 15)
  | .minZ d a b => some (encA 0x01 d a b 16) | .maxS d a b => some (encA 0x01 d a b 17)
  | .maxZ d a b => some (encA 0x01 d a b 18) | .sltS d a b => some (encA 0x01 d a b 19)
  | .sltZ d a b => some (encA 0x01 d a b 20) | .seq d a b => some (encA 0x01 d a b 21)
  | .clz d a => some (encA 0x01 d a 0 22) | .ctz d a => some (encA 0x01 d a 0 23)
  | .popc d a => some (encA 0x01 d a 0 24) | .sel d a b => some (encA 0x01 d a b 25)
  | .addi d a n => some (encI 0x02 d a n) | .andi d a n => some (encI 0x03 d a n)
  | .ori d a n => some (encI 0x04 d a n) | .xori d a n => some (encI 0x05 d a n)
  | .shli d a n => some (encI 0x06 d a ((0 : BitVec 6) ++ n)) | .shri d a n => some (encI 0x06 d a ((1 : BitVec 6) ++ n))
  | .srai d a n => some (encI 0x06 d a ((2 : BitVec 6) ++ n)) | .slti d a n => some (encI 0x07 d a n)
  | .limm d n => some (encU 0x08 d n) | .lsh d n => some (encU 0x09 d n) | .lpc d n => some (encU 0x0A d n)
  | .ld ty d a off => some (encI 0x0B d a (ty ++ off))
  | .st ty d a off => some (encI 0x0C d a (ty ++ (0 : BitVec 1) ++ off))
  | .amoS32 aop ord d a b => some (encA 0x0D d a b (aop ++ ord))
  | .amoZ32 aop ord d a b => some (encA 0x0E d a b (aop ++ ord))
  | .amo64 aop ord d a b => some (encA 0x0F d a b (aop ++ ord))
  | .amoF32 aop ord d a b => some (encA 0x10 d a b (aop ++ ord))
  | .b off => some ((0x11 : BitVec 6) ++ off) | .call off => some ((0x12 : BitVec 6) ++ off)
  | .bc cond a off => some ((0x13 : BitVec 6) ++ a ++ cond ++ off)
  | .jr a => some (encA 0x14 0 a 0 0) | .ret => some (encA 0x14 0 0 0 1) | .callr a => some (encA 0x14 0 a 0 2)
  | .lrun a n => some (encI 0x15 0 a n) | .lloop d a b len => some (encA 0x16 d a b len)
  | .lsync => some (encA 0x17 0 0 0 0) | .fence kind scope => some (encI 0x18 0 0 ((0 : BitVec 6) ++ kind ++ scope))
  | .cbar => some (encA 0x19 0 0 0 0) | .cwait a b => some (encA 0x1A 0 a b 0)
  | .cpclose d => some (encA 0x1B d 0 0 0) | .cpwait a => some (encA 0x1C 0 a 0 0)
  | .rfence => some (encA 0x1D 0 0 0 0) | .mxpost a => some (encA 0x1E 0 a 0 0)
  | .own n d a => some (encA 0x1F d a 0 ((0 : BitVec 3) ++ n)) | .ownQuery d a => some (encA 0x1F d a 0 4)
  | .coll d a => some (encA 0x20 d a 0 0) | .qpush a b => some (encA 0x21 0 a b 0)
  | .qpop d a => some (encA 0x22 d a 0 0) | .post d a b => some (encA 0x23 d a b 0)
  | .gfence => some (encA 0x24 0 0 0 0) | .gseq d a => some (encA 0x25 d a 0 0)
  | .crvld a => some (encA 0x26 0 a 0 0) | .csrr d n => some (encI 0x27 d 0 n) | .csrw a n => some (encI 0x28 0 a n)
  | .trap c => some ((0x29 : BitVec 6) ++ (0 : BitVec 10) ++ c)
  | .sretResume => some (encA 0x2A 0 0 0 0) | .sretReplay => some (encA 0x2A 0 0 0 1)
  | .sretAbandon => some (encA 0x2A 0 0 0 2) | .yield => some (encA 0x2B 0 0 0 0)
  | .brk c => some ((0x2C : BitVec 6) ++ (0 : BitVec 10) ++ c)
  | .cacheWb a b => some (encA 0x2D 0 a b 0) | .cacheInv a b => some (encA 0x2D 0 a b 1)
  | .cacheWbinv a b => some (encA 0x2D 0 a b 2) | .cacheDiscard a b => some (encA 0x2D 0 a b 3)
  | .cacheBind d a b => some (encA 0x2D d a b 4) | .cacheUnbind a => some (encA 0x2D 0 a 0 5)
  | .cancel l a => some (encA 0x2E 0 a 0 ((0 : BitVec 3) ++ l)) | .ctr l d a => some (encA 0x2F d a 0 ((0 : BitVec 3) ++ l))
  | .rptinv a b => some (encA 0x30 0 a b 0) | .tstop a => some (encA 0x31 0 a 0 0)
  | _ => none

/-- The L-word of an instruction (R142, R148), none for S-words and steps of the hardware. -/
def encodeL (i : Instr) : Option LWord :=
  match Machine.laneOf i with
  | some (op, f) => some (encL (BitVec.ofNat 10 op) f)
  | none => none

/-- The number that little-endian bytes hold (R3). -/
def leNat : List Byte → Nat
  | [] => 0
  | b :: bs => b.toNat + 256 * leNat bs

/-- `n` bytes of a number, least significant first (R3). -/
def leBytes : Nat → Nat → List Byte
  | 0, _ => []
  | n + 1, x => BitVec.ofNat 8 x :: leBytes n (x / 256)

/-- Decode an S-word from the bytes at its address, and give the bytes after it (R133). -/
def decodeBytesS (bs : List Byte) : Except Reject (Instr × List Byte) :=
  if bs.length < 4 then .error .shortWord
  else match decodeS (BitVec.ofNat 32 (leNat (bs.take 4))) with
    | .ok i => .ok (i, bs.drop 4)
    | .error e => .error e

/-- Decode an L-word from the bytes at its address, and give the bytes after it (R142). -/
def decodeBytesL (bs : List Byte) : Except Reject (Instr × List Byte) :=
  if bs.length < 12 then .error .shortWord
  else match decodeL (BitVec.ofNat 96 (leNat (bs.take 12))) with
    | .ok i => .ok (i, bs.drop 12)
    | .error e => .error e

/-- The instruction that the decoder reads from a word of the opcode table: an S-word when the table gives it at most 32
bits, and an L-word otherwise. -/
def decodeTableWord (nbits w : Nat) : Option Instr :=
  if nbits = 0 then none
  else if nbits ≤ 32 then
    match decodeBytesS (leBytes 4 w) with
    | .ok r => some r.1
    | .error _ => none
  else
    match decodeBytesL (leBytes 12 w) with
    | .ok r => some r.1
    | .error _ => none

end Sys2Proof
end

