-- ==== Sys2Proof/Machine/Bits.lean ====
section
/-! DEFINITION. Bit fields, byte order, sign extension and bounded searches (R3, R7). -/

namespace Sys2Proof.Machine

/-- Bits [lo + n - 1 : lo] of a number. -/
def bits (x lo n : Nat) : Nat := (x / 2 ^ lo) % 2 ^ n

/-- Bit `i` of a number. -/
def bit (x i : Nat) : Bool := (x / 2 ^ i) % 2 = 1

/-- 1 for true, 0 for false. -/
def b2n (b : Bool) : Nat := if b then 1 else 0

/-- A number as an `n`-byte little-endian list (R3). -/
def toBytes : Nat → Nat → List Byte
  | 0, _ => []
  | n + 1, x => BitVec.ofNat 8 x :: toBytes n (x / 256)

/-- The number that a little-endian list of bytes holds (R3). -/
def ofBytes : List Byte → Nat
  | [] => 0
  | b :: bs => b.toNat + 256 * ofBytes bs

/-- The `n`-bit pattern `x` read as two's complement. -/
def sInt (n x : Nat) : Int := if x % 2 ^ n < 2 ^ (n - 1) then (x % 2 ^ n : Nat) else (x % 2 ^ n : Nat) - (2 ^ n : Nat)

/-- An integer narrowed to `n` bits. -/
def toBits (n : Nat) (x : Int) : Nat := (x % (2 ^ n : Nat)).toNat

/-- The field of `n` bytes at an offset of a record, little-endian. -/
def field (bs : List Byte) (off n : Nat) : Nat := ofBytes ((bs.drop off).take n)

/-- The list padded with zero bytes to `n`, or cut to it. -/
def fit (n : Nat) (bs : List Byte) : List Byte := (bs ++ List.replicate (n - bs.length) 0).take n

/-- Bit reversal of the low `n` bits. -/
def revBits : Nat → Nat → Nat
  | 0, _ => 0
  | n + 1, x => (x % 2) * 2 ^ n + revBits n (x / 2)

/-- The number of one bits among the low `n`. -/
def popBits : Nat → Nat → Nat
  | 0, _ => 0
  | n + 1, x => x % 2 + popBits n (x / 2)

/-- The number of trailing zero bits among the low `n`. -/
def ctzBits : Nat → Nat → Nat
  | 0, _ => 0
  | n + 1, x => if x % 2 = 1 then 0 else 1 + ctzBits n (x / 2)

/-- The number of leading zero bits among the low `n`. -/
def clzBits : Nat → Nat → Nat
  | 0, _ => 0
  | n + 1, x => if (x / 2 ^ n) % 2 = 1 then 0 else 1 + clzBits n x

/-- floor(log2 x) for x > 0, and 0 for 0. -/
def ilog2 (x : Nat) : Nat := Nat.log2 x

/-- floor(x / 2^n) for an integer, toward zero in magnitude for a natural. -/
def shrNat (x n : Nat) : Nat := x / 2 ^ n

/-- The integer square root, bit by bit: `n` result bits of `x`. -/
def isqrtBits : Nat → Nat → Nat → Nat
  | 0, _, r => r
  | n + 1, x, r => if (r + 2 ^ n) * (r + 2 ^ n) ≤ x then isqrtBits n x (r + 2 ^ n) else isqrtBits n x r

/-- floor(√x). -/
def isqrt (x : Nat) : Nat := isqrtBits (ilog2 x / 2 + 1) x 0

/-- The first element of a list that a test accepts, with its index. -/
def findIdx1 {α : Type} (p : α → Bool) : List α → Nat → Option (Nat × α)
  | [], _ => none
  | a :: as, i => if p a then some (i, a) else findIdx1 p as (i + 1)

/-- The list with the element at an index replaced. -/
def setAt {α : Type} (l : List α) (i : Nat) (a : α) : List α := l.set i a

/-- The numbers below `n`. -/
def upto (n : Nat) : List Nat := List.range n

/-- Whether two ranges of bytes meet. -/
def overlap (a n b m : Nat) : Bool := decide (a < b + m) && decide (b < a + n) && decide (0 < n) && decide (0 < m)

/-- Every element is true under the test, until none is left. -/
def allB {α : Type} (l : List α) (p : α → Bool) : Bool := l.all p

end Sys2Proof.Machine
end

