-- ==== Sys2Proof/Machine/Float.lean ====
section
/-! DEFINITION. Number formats: values, decoding, rounding, conversion, exact arithmetic, the ts8 format, block scales,
amax and the chunk sum (R60 to R74, R76, R212 to R216). -/

namespace Sys2Proof.Machine

/-- The exact value of a number: NaN, an infinity, or (−1)^neg × m × 2^e, where zero keeps its sign (R61, R62). -/
inductive Val where
  | nan
  | inf (neg : Bool)
  | num (neg : Bool) (m : Nat) (e : Int)
deriving DecidableEq, Repr

/-- Sticky flags as bits of FLAGS (R55). -/
abbrev Flags := BitVec 7

/-- inexact. -/
def fInx : Flags := 0x01
/-- underflow. -/
def fUnf : Flags := 0x02
/-- overflow. -/
def fOvf : Flags := 0x04
/-- division by zero. -/
def fDz : Flags := 0x08
/-- invalid operation. -/
def fInv : Flags := 0x10
/-- a reserved ts8 code was read. -/
def fFmtx : Flags := 0x20
/-- a conversion saturated. -/
def fSat : Flags := 0x40

/-- Fraction width of a float type code (R61). -/
def fracBits (ty : Nat) : Nat :=
  match ty with
  | 4 => 23 | 5 => 7 | 6 => 10 | 7 => 3 | 8 => 2 | _ => 1
/-- Exponent width of a float type code (R61). -/
def expBits (ty : Nat) : Nat :=
  match ty with
  | 4 => 8 | 5 => 8 | 6 => 5 | 7 => 4 | 8 => 5 | _ => 2
/-- Bias of a float type code (R61). -/
def biasOf (ty : Nat) : Nat :=
  match ty with
  | 4 => 127 | 5 => 127 | 6 => 15 | 7 => 7 | 8 => 15 | _ => 1
/-- Code of the largest finite value (R61). -/
def maxCode (ty : Nat) : Nat :=
  match ty with
  | 4 => 0x7F7FFFFF | 5 => 0x7F7F | 6 => 0x7BFF | 7 => 0x7E | 8 => 0x7B | _ => 0x7
/-- Canonical NaN; f4 has none, and a NaN becomes +0 there (R61, R67). -/
def nanCode (ty : Nat) : Nat :=
  match ty with
  | 4 => 0x7FC00000 | 5 => 0x7FC0 | 6 => 0x7E00 | 7 => 0x7F | 8 => 0x7E | _ => 0
/-- Whether a float type has infinities (R61). -/
def hasInf (ty : Nat) : Bool := ty = 4 || ty = 5 || ty = 6 || ty = 8
/-- Width in bits of a type code (R143). -/
def widthOf (ty : Nat) : Nat :=
  match ty with
  | 2 | 3 => 64
  | 5 | 6 | 11 | 12 => 16
  | 7 | 8 | 10 | 13 | 14 => 8
  | 9 => 4
  | _ => 32
/-- Whether a type code is a float format (R61). -/
def isFloat (ty : Nat) : Bool := 4 ≤ ty && ty ≤ 9
/-- Whether a type code is an integer type (R60). -/
def isInt (ty : Nat) : Bool := ty ≤ 3 || (11 ≤ ty && ty ≤ 14)
/-- Whether an integer type code is signed (R60). -/
def isSigned (ty : Nat) : Bool := ty = 0 || ty = 2 || ty = 11 || ty = 13

/-- The exponent of the smallest normal value, 1 − bias. -/
def eMin (ty : Nat) : Int := 1 - (biasOf ty : Int)

/-- The code of an infinity. -/
def infCode (ty : Nat) : Nat := (2 ^ expBits ty - 1) * 2 ^ fracBits ty

/-- The sign bit of a float type, set or clear. -/
def signBit (ty : Nat) (neg : Bool) : Nat := if neg then 2 ^ (widthOf ty - 1) else 0

/-- The value of a float code (R61, R62). -/
def decodeFloat (ty c : Nat) : Val :=
  let neg := bit c (widthOf ty - 1)
  let x := bits c (fracBits ty) (expBits ty)
  let f := c % 2 ^ fracBits ty
  if (hasInf ty && x = 2 ^ expBits ty - 1) then (if f = 0 then .inf neg else .nan)
  else if ty = 7 && c % 128 = 127 then .nan
  else if x = 0 then .num neg f (eMin ty - fracBits ty)
  else .num neg (2 ^ fracBits ty + f) (x - biasOf ty - fracBits ty)

/-- One ts8 term in units of 2^−6, 0 for a reserved term (R64). -/
def tsTerm (t : Nat) : Int :=
  if t % 8 = 0 then 0 else (if bit t 3 then -(2 ^ (7 - t % 8) : Nat) else (2 ^ (7 - t % 8) : Nat))

/-- Whether a ts8 byte holds a reserved term (R64). -/
def tsReserved (c : Nat) : Bool := c % 16 = 8 || c / 16 % 16 = 8

/-- The value of an integer times a power of two; zero is +0. -/
def ofIntExp (x : Int) (e : Int) : Val := .num (decide (x < 0)) x.natAbs e

/-- The value of a ts8 byte (R64). -/
def decodeTs (c : Nat) : Val := ofIntExp (tsTerm (c / 16 % 16) + tsTerm (c % 16)) (-6)

/-- The value of an element of any type but b32 from its low bits (R200), with fmtx for a reserved ts8 term. -/
def decodeVal (ty c : Nat) : Val × Flags :=
  if isFloat ty then (decodeFloat ty (c % 2 ^ widthOf ty), 0)
  else if ty = 10 then (decodeTs (c % 256), if tsReserved (c % 256) then fFmtx else 0)
  else (ofIntExp (if isSigned ty then sInt (widthOf ty) c else (c % 2 ^ widthOf ty : Nat)) 0, 0)

/-- m × 2^e, with more below when `sticky`, cut to a multiple of 2^q: the quotient, whether anything was cut, and whether
rounding to nearest with ties to even goes up (R66). -/
def cutAt (m : Nat) (e : Int) (sticky : Bool) (q : Int) : Nat × Bool × Bool :=
  if q ≤ e then (m * 2 ^ (e - q).toNat, sticky, false)
  else
    let sh := (q - e).toNat
    let k := m / 2 ^ sh
    let r := m % 2 ^ sh
    let half := 2 ^ (sh - 1)
    (k, r ≠ 0 || sticky, decide (half < r) || (r = half && (sticky || k % 2 = 1)))

/-- Whether a rounding control rounds toward zero (R65). -/
def towardZero (rc : Nat) : Bool := rc % 2 = 1
/-- Whether a rounding control saturates for a format (R65). -/
def saturates (ty rc : Nat) : Bool := 2 ≤ rc % 4 || ty = 7 || ty = 9 || ty = 10

/-- A non-zero magnitude rounded into a float format: its code without sign, and flags (R66, R67). -/
def roundMag (ty rc : Nat) (m : Nat) (e : Int) (sticky : Bool) : Nat × Flags :=
  let top : Int := ilog2 m + e
  let qu := top - fracBits ty
  let qm := eMin ty - fracBits ty
  let q := if qu < qm then qm else qu
  let (k, inexact, up) := cutAt m e sticky q
  let low := (q - qm).toNat * 2 ^ fracBits ty + k
  let code := if !towardZero rc && up then low + 1 else low
  let (ku, _, upu) := cutAt m e sticky qu
  let tiny := top < eMin ty
    && !(top = eMin ty - 1 && !towardZero rc && upu && ku + 1 = 2 ^ (fracBits ty + 1))
  let inx := if inexact then fInx ||| (if tiny then fUnf else 0) else 0
  if saturates ty rc then
    if maxCode ty < low || (low = maxCode ty && inexact) then (maxCode ty, fSat ||| fInx) else (code, inx)
  else if maxCode ty < code then (if towardZero rc then maxCode ty else infCode ty, fOvf ||| fInx)
  else (code, inx)

/-- Whether a magnitude in units of 2^−6 is a ts8 value (R64). -/
def tsHas (n : Nat) : Bool :=
  (List.range 16).any fun a => (List.range 16).any fun b => decide (tsTerm a + tsTerm b = (n : Int))

/-- The canonical ts8 byte of a value in units of 2^−6 (R69). -/
def tsCanon (v : Int) : Nat :=
  if v = 0 then 0
  else
    let s : Int := if v < 0 then -1 else 1
    let c := (List.range 7).find? fun i =>
      let r := v - s * ((2 ^ (6 - i) : Nat) : Int)
      r = 0 || (List.range 7).any fun j => decide (r.natAbs = 2 ^ j) && decide (j ≤ 6 - i)
    match c with
    | none => 0
    | some i =>
      let r := v - s * ((2 ^ (6 - i) : Nat) : Int)
      let t1 := (if v < 0 then 8 else 0) + (i + 1)
      let t2 := if r = 0 then 0 else (if r < 0 then 8 else 0) + (7 - ilog2 r.natAbs)
      t1 * 16 + t2

/-- A non-zero magnitude rounded to ts8: its magnitude in units of 2^−6, and flags (R67, R69). -/
def tsMag (rc : Nat) (m : Nat) (e : Int) : Nat × Flags :=
  let up := if 0 ≤ e + 6 then 2 ^ (e + 6).toNat else 1
  let dn := if 0 ≤ e + 6 then 1 else 2 ^ (-(e + 6)).toNat
  let x := m * up
  let better (best n : Nat) : Nat :=
    if !tsHas n then best
    else if towardZero rc then (if n * dn ≤ x then n else best)
    else if ((n * dn : Int) - x).natAbs < ((best * dn : Int) - x).natAbs then n else best
  if 128 * dn < x then (128, fSat ||| fInx)
  else
    let n := (List.range 129).foldl better 0
    (n, if n * dn = x then 0 else fInx)

/-- `round(x, fmt, control)` into a float format or ts8, with its flags (R65 to R69). -/
def roundTo (ty rc : Nat) (v : Val) (sticky : Bool := false) : Nat × Flags :=
  if ty = 10 then
    match v with
    | .nan => (0, fInv)
    | .inf neg => (tsCanon (if neg then -128 else 128), fSat)
    | .num neg m e =>
      if m = 0 then (0, 0)
      else
        let (n, f) := tsMag rc m e
        (tsCanon (if neg then -(n : Int) else n), f)
  else
    match v with
    | .nan => (nanCode ty, if ty = 9 then fInv else 0)
    | .inf neg => if saturates ty rc then (signBit ty neg + maxCode ty, fSat) else (signBit ty neg + infCode ty, 0)
    | .num neg m e =>
      if m = 0 then (signBit ty neg, 0)
      else
        let (c, f) := roundMag ty rc m e sticky
        (signBit ty neg + c, f)

/-- The sign of a value changed. -/
def Val.flip : Val → Val
  | .nan => .nan
  | .inf n => .inf (!n)
  | .num n m e => .num (!n) m e

/-- Whether a value is NaN. -/
def Val.isNan : Val → Bool
  | .nan => true
  | _ => false

/-- Whether a value is zero. -/
def Val.isZero : Val → Bool
  | .num _ m _ => m = 0
  | _ => false

/-- The signed integer of a finite value in units of 2^q, for q at or below its exponent. -/
def scaledAt (v : Val) (q : Int) : Int :=
  match v with
  | .num neg m e => if neg then -((m * 2 ^ (e - q).toNat : Nat) : Int) else ((m * 2 ^ (e - q).toNat : Nat) : Int)
  | _ => 0

/-- The least exponent among finite values. -/
def leastExp (vs : List Val) : Int :=
  vs.foldl (fun q v => match v with
    | .num _ m e => if m = 0 then q else min q e
    | _ => q) 0

/-- The exact sum of values, with inv for ∞ − ∞ (R66, R67, R216): an exact zero is −0 only when every term is −0. -/
def sumVals (vs : List Val) : Val × Flags :=
  let pos := vs.any fun v => v = .inf false
  let neg := vs.any fun v => v = .inf true
  if vs.any Val.isNan then (.nan, 0)
  else if pos && neg then (.nan, fInv)
  else if pos then (.inf false, 0)
  else if neg then (.inf true, 0)
  else
    let q := leastExp vs
    let t := vs.foldl (fun a v => a + scaledAt v q) 0
    if t = 0 then
      (.num (vs.all fun v => match v with
        | .num n m _ => n && m = 0
        | _ => false) 0 0, 0)
    else (ofIntExp t q, 0)

/-- The exact product, with inv for 0 × ∞ (R67). -/
def mulVals (a b : Val) : Val × Flags :=
  match a, b with
  | .nan, _ | _, .nan => (.nan, 0)
  | .inf s, .inf t => (.inf (s != t), 0)
  | .inf s, .num t m _ => if m = 0 then (.nan, fInv) else (.inf (s != t), 0)
  | .num s m _, .inf t => if m = 0 then (.nan, fInv) else (.inf (s != t), 0)
  | .num s m e, .num t n f => (.num (s != t) (m * n) (e + f), 0)

/-- A quotient with bits enough to round it once, whether more lies below, and its flags (R67). -/
def divVals (a b : Val) : Val × Bool × Flags :=
  match a, b with
  | .nan, _ | _, .nan => (.nan, false, 0)
  | .inf _, .inf _ => (.nan, false, fInv)
  | .inf s, .num t _ _ => (.inf (s != t), false, 0)
  | .num s _ _, .inf t => (.num (s != t) 0 0, false, 0)
  | .num s m e, .num t n f =>
    if n = 0 then (if m = 0 then (.nan, false, fInv) else (.inf (s != t), false, fDz))
    else
      let k := 64 + ilog2 n
      (.num (s != t) (m * 2 ^ k / n) (e - f - k), m * 2 ^ k % n ≠ 0, 0)

/-- A square root with bits enough to round it once, whether more lies below, and its flags (R213). -/
def sqrtVal (a : Val) : Val × Bool × Flags :=
  match a with
  | .nan => (.nan, false, 0)
  | .inf s => if s then (.nan, false, fInv) else (.inf false, false, 0)
  | .num s m e =>
    if m = 0 then (.num s 0 0, false, 0)
    else if s then (.nan, false, fInv)
    else
      let m1 := if e % 2 = 0 then m else 2 * m
      let e1 := if e % 2 = 0 then e else e - 1
      let x := m1 * 2 ^ 96
      let r := isqrt x
      (.num false r (e1 / 2 - 48), r * r ≠ x, 0)

/-- A value times 2^k. -/
def scaleVal (v : Val) (k : Int) : Val :=
  match v with
  | .num n m e => .num n m (e + k)
  | v => v

/-- `x < y` of two numbers; −0 equals +0. -/
def ltVal (a b : Val) : Bool :=
  match a, b with
  | .nan, _ | _, .nan => false
  | .inf true, .inf true => false
  | .inf true, _ => true
  | _, .inf true => false
  | .inf false, _ => false
  | _, .inf false => true
  | .num s m e, .num t n f =>
    let q := min e f
    decide (scaledAt (.num s m e) q < scaledAt (.num t n f) q)

/-- `x = y` of two numbers; −0 equals +0, and a NaN equals nothing. -/
def eqVal (a b : Val) : Bool := !a.isNan && !b.isNan && !ltVal a b && !ltVal b a

/-- Whether a value's sign is negative. -/
def Val.sign : Val → Bool
  | .nan => false
  | .inf n => n
  | .num n _ _ => n

/-- `x` is less than `y` with −0 below +0 (R171, R214). -/
def below (a b : Val) : Bool := ltVal a b || (a.isZero && b.isZero && a.sign && !b.sign)

/-- The lesser (or the greater) of two values: one NaN gives the other operand, two give NaN (R171, R214). -/
def minMaxVal (wantMin : Bool) (a b : Val) : Val :=
  if a.isNan then b
  else if b.isNan then a
  else if wantMin then (if below b a then b else a) else (if below a b then b else a)

/-- A rounded sum in a float type: code and flags (R213). -/
def addCodes (ty rc : Nat) (a b : Val) : Nat × Flags :=
  let (v, f) := sumVals [a, b]
  let (c, g) := roundTo ty rc v
  (c, f ||| g)

/-- A value with a zero made +0: the exact zero result of a difference (R66). -/
def Val.plusZero : Val → Val
  | .num neg m e => if m = 0 then .num false 0 0 else .num neg m e
  | v => v

/-- A rounded difference in a float type, a − b: code and flags (R66, R213). -/
def subCodes (ty rc : Nat) (a b : Val) : Nat × Flags :=
  let (v, f) := sumVals [a, b.flip]
  let (c, g) := roundTo ty rc v.plusZero
  (c, f ||| g)

/-- A fused multiply and add, a × b + c, rounded once (R213). A product 0 × ∞ with a NaN addend is an invalid operation (assumption log 82). -/
def fmaCodes (ty rc : Nat) (a b c : Val) : Nat × Flags :=
  let (p, f) := mulVals a b
  if c.isNan && f = fInv then (nanCode ty, f)
  else
    let (v, g) := sumVals [p, c]
    let (k, h) := roundTo ty rc v
    (k, f ||| g ||| h)

/-- A fused multiply and subtract, a × b − c, rounded once (R66, R213), its invalid operations as those of the sum. -/
def fmsCodes (ty rc : Nat) (a b c : Val) : Nat × Flags :=
  let (p, f) := mulVals a b
  if c.isNan && f = fInv then (nanCode ty, f)
  else
    let (v, g) := sumVals [p, c.flip]
    let (k, h) := roundTo ty rc v.plusZero
    (k, f ||| g ||| h)

/-- A rounded product (R213). -/
def mulCodes (ty rc : Nat) (a b : Val) : Nat × Flags :=
  let (v, f) := mulVals a b
  let (c, g) := roundTo ty rc v
  (c, f ||| g)

/-- A rounded quotient (R213): a finite value divided by zero is an infinity of the type under every control (R67). -/
def divCodes (ty rc : Nat) (a b : Val) : Nat × Flags :=
  let (v, st, f) := divVals a b
  let (c, g) := roundTo ty (if f = fDz then 0 else rc) v st
  (c, f ||| g)

/-- A rounded square root (R213). That of +∞ under control 2 or 3 is the largest finite value with sat, as R67 has it for every infinity
(assumption log 83). -/
def sqrtCodes (ty rc : Nat) (a : Val) : Nat × Flags :=
  let (v, st, f) := sqrtVal a
  let (c, g) := roundTo ty rc v st
  (c, f ||| g)

/-- The limits of an integer type (R60). -/
def intMin (ty : Nat) : Int := if isSigned ty then -((2 ^ (widthOf ty - 1) : Nat) : Int) else 0
/-- The greatest value of an integer type (R60). -/
def intMax (ty : Nat) : Int := if isSigned ty then ((2 ^ (widthOf ty - 1) : Nat) : Int) - 1 else ((2 ^ widthOf ty : Nat) : Int) - 1

/-- An integer clamped to a type's range. -/
def clampInt (ty : Nat) (x : Int) : Int := if x < intMin ty then intMin ty else if intMax ty < x then intMax ty else x

/-- A value rounded to an integer in the control's direction, with inx (R70). -/
def toInteger (rc : Nat) (neg : Bool) (m : Nat) (e : Int) : Int × Flags :=
  let (k, inexact, up) := cutAt m e false 0
  let n := if !towardZero rc && up then k + 1 else k
  (if neg then -(n : Int) else n, if inexact then fInx else 0)

/-- A float value converted to an integer type (R70): its pattern and flags. -/
def valToInt (ty rc : Nat) (v : Val) : Nat × Flags :=
  match v with
  | .nan => (0, fInv)
  | .inf neg => (toBits (widthOf ty) (if neg then intMin ty else intMax ty), fInv ||| fSat)
  | .num neg m e =>
    let (x, f) := toInteger rc neg m e
    if x = clampInt ty x then (toBits (widthOf ty) x, f) else (toBits (widthOf ty) (clampInt ty x), fInv ||| fSat)

/-- Whether every value of a float type is one of another: a conversion that widens, or changes nothing (R70, R218). -/
def widens (st dt : Nat) : Bool := fracBits st ≤ fracBits dt && expBits st ≤ expBits dt

/-- A conversion between any two types but b32 (R218): pattern and flags. An infinity that widens stays one, with no flag, under every control
(R70, R218; assumption log 84). -/
def convert (dt st rc c : Nat) : Nat × Flags :=
  let (v, f) := decodeVal st c
  if isInt st && isInt dt then
    let x := if isSigned st then sInt (widthOf st) c else ((c % 2 ^ widthOf st : Nat) : Int)
    if 2 ≤ rc % 4 then (toBits (widthOf dt) (clampInt dt x), if x = clampInt dt x then 0 else fSat)
    else (toBits (widthOf dt) x, 0)
  else if isInt dt then
    let (n, g) := valToInt dt rc v
    (n, f ||| g)
  else
    match v with
    | .inf neg => if hasInf dt && widens st dt then (signBit dt neg + infCode dt, f) else let (n, g) := roundTo dt rc v; (n, f ||| g)
    | _ => let (n, g) := roundTo dt rc v; (n, f ||| g)

/-- An f32 rounded to an integral f32 value (R219). -/
def roundIntegral (rc : Nat) (v : Val) : Nat × Flags :=
  match v with
  | .nan => (nanCode 4, 0)
  | .inf neg => (signBit 4 neg + infCode 4, 0)
  | .num neg m e =>
    let (x, f) := toInteger rc neg m e
    ((roundTo 4 0 (.num neg x.natAbs 0)).1, f)

/-- A result narrowed and extended as R47 writes it into a 32-bit register: sign extension for .s8 and .s16, else zeros. -/
def extendR47 (ty c : Nat) : Nat :=
  if ty = 11 || ty = 13 then toBits 32 (sInt (widthOf ty) c) else c % 2 ^ widthOf ty

/-- The class word of a float code (R215). -/
def classWord (ty c : Nat) : Nat :=
  match decodeFloat ty (c % 2 ^ widthOf ty) with
  | .nan => 256
  | .inf neg => if neg then 1 else 128
  | .num neg m _ =>
    if m = 0 then (if neg then 8 else 16)
    else if m < 2 ^ fracBits ty then (if neg then 4 else 32)
    else (if neg then 2 else 64)

/-- floor(log2 |v|) of a non-zero finite value. -/
def topExp (m : Nat) (e : Int) : Int := ilog2 m + e

/-- The largest exponent of a scaled element format (R73). -/
def emaxOf (ty : Nat) : Int :=
  match ty with
  | 7 => 8
  | 8 => 15
  | 9 => 2
  | _ => 1

/-- scale_delta of R73: the 4-bit code as an integer, and inv for a NaN. -/
def scaleDelta (v : Val) (base : Int) (ty : Nat) : Int × Flags :=
  match v with
  | .nan => (7, fInv)
  | .inf _ => (7, 0)
  | .num _ m e =>
    if m = 0 then (-8, 0)
    else
      let d := topExp m e - emaxOf ty - base
      (if d < -7 then -7 else if 7 < d then 7 else d, 0)

/-- Whether every term product is not NaN, for the invalid flag of a dot product (R216). -/
def anyNan (vs : List Val) : Bool := vs.any Val.isNan

/-- A dot product with its addend, rounded once into f32 (R216): inv unless the only cause of a NaN is a NaN input. -/
def dotCodes (rc : Nat) (ps : List (Val × Val)) (c : Val) : Nat × Flags :=
  let prods := ps.map fun p => mulVals p.1 p.2
  let inv := prods.any fun p => p.2 = fInv
  let terms := prods.map (·.1) ++ [c]
  let (v, f) := sumVals (terms.filter fun t => !t.isNan)
  if anyNan terms || v.isNan then (nanCode 4, if inv || f = fInv then fInv else 0) else roundTo 4 rc v

/-- The chunk sum of the matrix engine (R76): each product cut toward zero relative to the largest, one rounding. -/
def chunkSum (ps : List (Val × Val)) : Val :=
  let prods := ps.map fun p => (mulVals p.1 p.2).1
  let pos := prods.any fun v => v = .inf false
  let neg := prods.any fun v => v = .inf true
  if anyNan prods || (pos && neg) then .nan
  else if pos then .inf false
  else if neg then .inf true
  else
    let live := prods.filter fun v => !v.isZero
    match live with
    | [] => .num false 0 0
    | v0 :: _ =>
      let topOf (v : Val) : Int := match v with
        | .num _ m e => topExp m e
        | _ => 0
      let big := live.foldl (fun a v => max a (topOf v)) (topOf v0)
      let q := big - 50
      let cut (v : Val) : Int := match v with
        | .num n m e =>
          let k := (cutAt m e false q).1
          if n then -(k : Int) else k
        | _ => 0
      let t := live.foldl (fun a v => a + cut v) 0
      decodeFloat 4 (roundTo 4 0 (ofIntExp t q)).1

/-- One step of the accumulator (R76): the chunk sum added to c in f32. -/
def accumulate (c : Nat) (ps : List (Val × Val)) : Nat := (addCodes 4 0 (decodeFloat 4 c) (chunkSum ps)).1

/-- |x| of an f32 value as amax folds it: an f32 code without sign (R74). -/
def absCode (c : Nat) : Nat := c % 2 ^ 31

/-- Whether an f32 code is NaN. -/
def isNanCode (c : Nat) : Bool := decide (0x7F800000 < c % 2 ^ 31)

/-- The update of an amax accumulator by the f32 codes of the participating lanes (R74): bit 32 is NaN-seen. -/
def amaxUpdate (a : BitVec 33) (codes : List Nat) (nanprop : Bool) : BitVec 33 :=
  let seen := codes.any isNanCode
  let m := codes.foldl (fun m c => if isNanCode c then m else max m (absCode c)) 0
  let v := if seen && nanprop then 0x7FC00000 else a.toNat % 2 ^ 32
  let v1 := if isNanCode v then v else max v m
  BitVec.ofNat 33 ((if seen || bit a.toNat 32 then 2 ^ 32 else 0) + v1)

end Sys2Proof.Machine
end

