-- ==== Sys2Proof/Machine/Sparse.lean ====
section
/-! DEFINITION. Sparse tables in one canonical form: keys rise strictly and no entry holds the default. Memories,
register files and routing tables are such tables. -/

namespace Sys2Proof.Machine

variable {α : Type}

/-- The value at a key; an unlisted key reads as the default. -/
def sget (dflt : α) : SMap α → Nat → α
  | [], _ => dflt
  | (k, v) :: m, i => if i = k then v else sget dflt m i

/-- The table without a key. -/
def serase : SMap α → Nat → SMap α
  | [], _ => []
  | (k, v) :: m, i => if i = k then serase m i else (k, v) :: serase m i

/-- An entry put where its key belongs. -/
def sinsert : SMap α → Nat → α → SMap α
  | [], i, x => [(i, x)]
  | (k, v) :: m, i, x => if k < i then (k, v) :: sinsert m i x else (i, x) :: (k, v) :: m

/-- The table with a key set; setting the default removes the entry. -/
def sset [DecidableEq α] (dflt : α) (m : SMap α) (i : Nat) (x : α) : SMap α :=
  if x = dflt then serase m i else sinsert (serase m i) i x

/-- Every key of a table is above a bound, the keys rise strictly, and no entry holds the default. -/
def swfFrom [DecidableEq α] (dflt : α) : Nat → SMap α → Bool
  | _, [] => true
  | lo, (k, v) :: m => decide (lo ≤ k) && decide (v ≠ dflt) && swfFrom dflt (k + 1) m

/-- A table is in canonical form. -/
def swf [DecidableEq α] (dflt : α) (m : SMap α) : Bool := swfFrom dflt 0 m

/-- A memory in canonical form: rising addresses and no zero byte listed (an unlisted byte reads zero). -/
def Memory.wf (m : SMap Byte) : Bool := swf 0 m

/-- One byte of a memory. -/
def byteAt (m : SMap Byte) (a : Nat) : Byte := sget 0 m a

/-- A memory with one byte written. -/
def setByte (m : SMap Byte) (a : Nat) (b : Byte) : SMap Byte := sset 0 m a b

/-- `n` bytes at an address, first the byte at the address. -/
def bytesAt (m : SMap Byte) (a : Nat) : Nat → List Byte
  | 0 => []
  | n + 1 => byteAt m a :: bytesAt m (a + 1) n

/-- A memory with bytes written from an address up. -/
def setBytes (m : SMap Byte) (a : Nat) : List Byte → SMap Byte
  | [] => m
  | b :: bs => setBytes (setByte m a b) (a + 1) bs

/-- A memory with `n` bytes from an address up made zero. -/
def clearBytes (m : SMap Byte) (a n : Nat) : SMap Byte := m.filter fun c => decide (c.1 < a) || decide (a + n ≤ c.1)

end Sys2Proof.Machine
end

