-- ==== Sys2Proof/Machine/State.lean ====
section
/-! DEFINITION. The state of one module as plain data: teams, memory, translation, fabric, engines, scheduler, links,
host ports and firmware; the outcomes' reason types; and the state right after reset. -/

namespace Sys2Proof.Machine

/-- Reasons for which the machine stops. -/
inductive Fault where
  /-- Raised by `step` alone: the agenda is empty and the focus team has no stream that can issue. Safe: the hardware
  waits for an event from outside. -/
  | quiescent
deriving DecidableEq, Repr

/-- Reasons for which an instruction has no meaning here. -/
inductive Refusal where
  /-- An arm of `exec` that has not been modelled. Safe. -/
  | notModelled (mnemonic : String)
deriving DecidableEq, Repr

/-- Which agent moves next: a team's scalar stream, its lane stream, or a step of the hardware (assumption log 2). -/
inductive Turn where
  | scalar (team : Nat)
  | lane (team : Nat)
  | event (i : Instr)
  | mail (off : Nat) (bytes : List Byte)
deriving DecidableEq, Repr

/-- A stop to be taken (R360 to R362): the fields of the stop-cause word and of the stop record. -/
structure Stop where
  cause : Nat
  reason : Nat := 0
  code : Nat := 0
  va : Nat := 0
  iva : Nat := 0
  detail : Nat := 0
  aux : Nat := 0
  word : Nat := 0
  lanes : Lanes := 0
  four : Bool := false
deriving DecidableEq, Repr

/-- A lane queue entry (R336); `bad` says that `lloop` computed for it a code that is no vector register (R141). -/
structure LaneEntry where
  word : LWord
  iter : Nat := 0
  va : Nat := 0
  capD : Word := 0
  capA : Word := 0
  capB : Word := 0
  capC : Word := 0
  capE : Word := 0
  bad : Bool := false
deriving DecidableEq, Repr

/-- The append state of an `lrun` or `lloop` that waits for queue entries (R177). -/
structure Append where
  isLoop : Bool
  done : Nat
  count : Nat
  base : Nat
  body : List LWord
  steps : List Half
deriving DecidableEq, Repr

/-- The state of a running `xiss` at one depth (R261, R336): distinct words with their suppliers, and the next index. -/
structure XissBlock where
  words : List (LWord × Lanes)
  next : Nat
deriving DecidableEq, Repr

/-- A stash binding (R96). -/
structure Binding where
  va : Nat
  len : Nat
  la : Nat
deriving DecidableEq, Repr

/-- What the job card fixes for a team's whole life (R377, R330, R335). -/
structure TeamCard where
  handle : Nat := 0
  fault : Nat := 0
  asid : Nat := 0
  prio : Nat := 0
  level : Nat := 0
  launch : Nat := 0
  queue : QueueId := { cluster := 0, index := 0 }
  tix : Nat := 0
  tcount : Nat := 0
  crew : Nat := 1
  crk : Nat := 0
  comm : Nat := 0
  v : Nat := 1
  w : Nat := 1
  ttable : Nat := 0
  tmpls : Nat := 0
  stash : Nat := 0
  lbase : Nat := 0
  lcount : Nat := 0
  sbase : Nat := 0
  scount : Nat := 0
  slot : Nat := 0
  job : Nat := 0
deriving DecidableEq, Repr

/-- Where and how a team stands (R335 header state, R10, R361): run 0 unplaced, 1 resident, 2 saved, 3 halted,
4 retired, 5 removed; the halt cause with the record of a trap that it holds undelivered; the order of saving (R386); and whether it has left
HALTED under a level that was cancelled before, so that it waits for its next cancellation point (R38). -/
structure Place where
  run : Nat := 0
  cluster : Nat := 0
  core : Nat := 0
  part : Nat := 0
  halt : Word := 0
  srec : Word := 0
  savedAt : Nat := 0
  spared : Bool := false
deriving DecidableEq, Repr

/-- The register files, the mask and its stack, BAND, FLAGS, amax and the curve table (R45, R21, R51 to R55); which register lines a
register cache holds is in `Cores.lines`. -/
structure Regs where
  s : SMap Word := []
  v : SMap Half := []
  p : SMap Lanes := []
  mask : Lanes := 0
  stack : List (Bool × Lanes) := []
  band : BitVec 3 := 5
  flags : BitVec 7 := 0
  amax : SMap (BitVec 33) := []
  curve : SMap Half := []
deriving DecidableEq, Repr

/-- The supervisor registers (R331) and RESUMES (R55). -/
structure Sys where
  epc : Word := 0
  tvec : Word := 0
  scause : Word := 0
  srec : Word := 0
  sscr : SMap Word := []
  slice : BitVec 32 := 0
  dbg : BitVec 3 := 0
  handler : Bool := false
  resumes : Word := 0
deriving DecidableEq, Repr

/-- The lane stream's position (R26, R336): queue, completed passes and faulted lanes of the head word, append state,
the `xiss` blocks, and whether the head word's accesses are under way, so that no stop comes between them (R75); the mask words that the
issue in progress leaves out, their passes done or their register lines not held yet (R338); the free choice fixed for the head
word when it began (R105); and the flags and the amax magnitudes of its completed passes, which reach the team once it has completed
(R74, R202). -/
structure LaneState where
  queue : List LaneEntry := []
  passes : BitVec 32 := 0
  again : Option Lanes := none
  append : Option Append := none
  xiss1 : Option XissBlock := none
  xiss2 : Option XissBlock := none
  busy : Bool := false
  skip : BitVec 32 := 0
  drawn : Option Nat := none
  flags : BitVec 7 := 0
  amax : SMap (BitVec 33) := []
deriving DecidableEq, Repr

/-- How a team that has reached its stopping point leaves its partition once its whole crew has (R30, R367): into HALTED with a halt
cause, or pre-empted. -/
inductive Leave where
  | halt (cause : Word)
  | preempt
deriving DecidableEq, Repr

/-- An atomic of a team in a group window that is on its way (R172): whose it is, a lane's or the scalar stream's (1024), its group,
and the value that it read once it has been applied. -/
structure GroupAtom where
  key : Nat
  group : Nat
  value : Option Word := none
deriving DecidableEq, Repr

/-- A team's standing with memory, engines and the scheduler: store sequence (R116), batches (R181), boundary stops
(R360), ending (R28), its own cancel (R39), a halt request (R342), records kept (R354), bindings (R96), a load that
waits for its reply (R164), its group atomics under way (R172), the crew barrier (R31), and a slice expiry that met
a stop and was voided (R366); stops that met the one being handled (R366); how it leaves its partition (R30), and that it has run
its word under DBGCTL.step (R343); the batch that a `cpclose` waits for (R181); the stores by sequence that an
`sret` replay waits for, and the sequence and VA of the first that it has dropped (R364); the slots of its fault area that are the inner part of a four-slot record, each with the
record's first slot (R362); and for each page with held entries, by tag and page, the sequence number in the record of its first (R354). -/
structure Ord where
  seq : Nat := 0
  cover : Nat := 0
  batch : Nat := 1
  stops : List Stop := []
  ending : Bool := false
  ownCancel : Bool := false
  haltReq : Bool := false
  kept : List (List Byte) := []
  bindings : List Binding := []
  load : Option Nat := none
  atoms : List GroupAtom := []
  atBarrier : Bool := false
  passed : Bool := false
  expired : Bool := false
  later : List Stop := []
  leave : Option Leave := none
  stepped : Bool := false
  closing : Option Nat := none
  replay : Option (List Nat × Option (Nat × Nat)) := none
  inner : List (Nat × Nat) := []
  recs : List (Nat × Nat × Nat) := []
deriving DecidableEq, Repr

/-- A team (R27). -/
structure Team where
  pc : Word := 0
  card : TeamCard := {}
  place : Place := {}
  regs : Regs := {}
  sys : Sys := {}
  lane : LaneState := {}
  ord : Ord := {}
deriving DecidableEq, Repr

/-- The owner word of a tile (R94) and its pending flip (R265). -/
structure TileOwner where
  owner : BitVec 2 := 0
  readers : BitVec 8 := 0
  flip : Option (BitVec 2) := none
deriving DecidableEq, Repr

/-- An entry of a late-fault store buffer (R352); `covers` is the covered number of a release (R116), 0 for none, and
`marked` says that its sector is release-pending; `sent` that it has left for its group's root and is performed once it has been applied
here (R87); `access` is the access code of its record (R355); `word` is the first store sequence number of the lane instruction that it is
of, whose lanes are unordered among themselves (R105), 0 for any other store; `code` is the instruction word, for a stop record (R362); and `strm` is the cache hint of that name (R145). -/
structure SbEntry where
  core : Nat
  team : Nat
  asid : Nat
  sector : Nat
  bytes : List (Nat × Byte)
  seq : Nat
  iva : Nat
  source : Nat := 0
  lane : Bool := false
  pass : Nat := 0
  lanes : BitVec 32 := 0
  covers : Nat := 0
  marked : Bool := false
  held : Bool := false
  detail : Nat := 0
  access : Nat := 1
  sent : Bool := false
  word : Nat := 0
  code : Nat := 0
  strm : Bool := false
deriving DecidableEq, Repr

/-- Bytes that the hardware itself writes at a VA, for a team or for none (0), while their home lets no other agent's access through: they wait
there (R116, R420, R422, R423). -/
structure Posted where
  team : Nat
  domain : Nat
  asid : Nat
  va : Nat
  bytes : List Byte
deriving DecidableEq, Repr

/-- A handoff sector in a cluster's cache (R91). -/
structure HandCopy where
  cluster : Nat
  dpa : Nat
  bytes : List Byte
  dirty : Bool
deriving DecidableEq, Repr

/-- A page table entry of a controller (R349), or its far entry (R419). `gidx` names the granule of an interleaved page. -/
structure PageEntry where
  ctrl : Nat
  asid : Nat
  vpage : Nat
  gidx : Option Nat := none
  frame : Nat := 0
  dirty : Bool := false
  biased : Bool := false
  gdom : Nat := 0
  far : Option (Nat × Nat × Nat × Nat) := none
deriving DecidableEq, Repr

/-- A region table cache entry of a core (R345), or a walk reply on its way there. -/
structure CachedRegion where
  core : Nat
  asid : Nat
  rn : Nat
  entry : BitVec 64
deriving DecidableEq, Repr

/-- A shape record in a core's record cache (R100). -/
structure CachedRecord where
  core : Nat
  asid : Nat
  va : Nat
  bytes : List Byte
deriving DecidableEq, Repr

/-- Translation (R344 to R351, R420): region tables, their caches and walks, page entries, host-biased granules,
the ASIDs with their domain and table controller; and as (region key, domain) the regions whose changed entry some access checked against
the one before has not left yet, with the domain that it was checked in (R346, R347). -/
structure Xlate where
  regions : SMap (BitVec 64) := []
  rptc : List CachedRegion := []
  walks : List CachedRegion := []
  pages : List PageEntry := []
  hostBias : List Nat := []
  asids : List (Nat × Nat × Nat) := []
  unnamed : List Nat := []
  leaving : SMap Nat := []
deriving DecidableEq, Repr

/-- MOESI states of a sector copy (R394). -/
inductive Moesi where
  | I | S | E | O | M
deriving DecidableEq, Repr

/-- A sector copy: holder (cluster, or 64 + core for a stash), ASID, sector VA, state. -/
structure SectorCopy where
  holder : Nat
  asid : Nat
  sec : Nat
  st : Moesi
deriving DecidableEq, Repr

/-- The home bits of a sector (R394). -/
structure HomeBits where
  asid : Nat
  sec : Nat
  owner : Bool
  shared : Bool
deriving DecidableEq, Repr

/-- A 64 B sector in a core's L1 (R12, R88): its tag alone, since it never differs from the coherent value, and whether it is retained ahead of
default ones (R145). -/
structure L1Line where
  core : Nat
  asid : Nat
  sec : Nat
  keep : Bool := false
deriving DecidableEq, Repr

/-- Data that a request of a sector waits for (R395): the holder that asked and its transaction tag, and the holder that supplies it, none for
the home. -/
structure DataDue where
  holder : Nat
  asid : Nat
  sec : Nat
  tag : BitVec 12
  supplier : Option Nat
deriving DecidableEq, Repr

/-- The bytes that a sector's home holds itself while a cache holds newer ones. -/
structure HomeCopy where
  asid : Nat
  sec : Nat
  bytes : List Byte
deriving DecidableEq, Repr

/-- The coherence fabric: copies, home bits, eviction and recall data in flight and requests whose data is still to come, in the order in which
they acted (R395), measured windows (R392) and spare groups in use (R399); the sectors in the cores' L1s, the oldest first; the cluster caches'
lines that are the first candidates for eviction, by cluster and line (R145); what the homes of modified sectors hold themselves; the lines, by
their DPA, of which no host holds a copy until the next access of the device (R420); and the far sectors whose data has come (R419). -/
structure Fabric where
  copies : List SectorCopy := []
  homes : List HomeBits := []
  evicts : List (Nat × Nat) := []
  window : List Nat := []
  spares : List (Nat × Nat) := []
  l1 : List L1Line := []
  strm : List (Nat × Nat × Nat) := []
  due : List DataDue := []
  behind : List HomeCopy := []
  cleared : List Nat := []
  farKnown : List Nat := []
deriving DecidableEq, Repr

/-- An accepted tile task (R274 to R282), with the local window of the team that posted it: its control words that wait for room in the store
buffer as (progress, status), the store sequence number of the last that has gone there, and the status with which it ends, once its final
control word has been performed (R121, R277). -/
structure Task where
  id : Nat
  core : Nat
  team : Nat
  asid : Nat
  recVa : Nat
  desc : List Byte
  expA : Int
  expB : Int
  reads : List Nat
  writes : List Nat
  progress : Nat := 0
  running : Bool := false
  ts8 : Bool := false
  node : Option NodeId := none
  window : Nat × Nat := (0, 0)
  due : List (Nat × Nat) := []
  last : Nat := 0
  ended : Option Nat := none
deriving DecidableEq, Repr

/-- An accepted copy (R284 to R293): whose access levels it has; `tiles` are the bytes of local memory that it has written with what they
held before, and `closed` the tiles that an early flip took from it (R267); `added` says that its counter's add has left, and `unread` that
an element of a skipped sector could not be read. -/
structure CopyJob where
  id : Nat
  cluster : Nat
  chan : Nat
  core : Nat
  team : Nat
  asid : Nat
  batch : Nat
  tmplVa : Nat
  tmpl : List Byte
  arg : Int
  src : List Byte
  dst : List Byte
  index : List Int := []
  row : Nat := 0
  hashed : List Byte := []
  paused : Bool := false
  stopped : Bool := false
  moved : Bool := false
  started : Bool := false
  tiles : List (Nat × Byte) := []
  sup : Bool := true
  closed : List Nat := []
  added : Bool := false
  unread : Bool := false
deriving DecidableEq, Repr

/-- A collective outstanding at this module's rank (R296 to R303); `tiles` are the bytes of local memory that it has written in sectors which
another output tile of it may share, with what they held before, `closed` are the tiles that an early flip took from it (R267), and `done` says
that its final add has left. -/
structure Coll where
  id : Nat
  cluster : Nat
  core : Nat
  team : Nat
  asid : Nat
  group : Nat
  issue : Nat
  rank : Nat
  ranks : List Nat
  descVa : Nat
  desc : List Byte
  src : List Byte
  dst : List Byte
  hash : CollHash
  sent : Nat := 0
  inbox : List (Nat × Nat × List Byte) := []
  written : List (Nat × Nat) := []
  appended : List (Nat × Nat) := []
  slotDone : List Nat := []
  paused : Bool := false
  done : Bool := false
  sup : Bool := true
  closed : List Nat := []
  tiles : List (Nat × Byte) := []
deriving DecidableEq, Repr

/-- A line of a partition's register cache (R59, R338): the partition, the team and line that it holds, and whether it has been
written since it was read. -/
structure HeldLine where
  core : Nat
  part : Nat
  team : Nat
  v : Nat
  w : Nat
  dirty : Bool := false
deriving DecidableEq, Repr

/-- 64 B of code in a core's scalar or lane instruction cache (R12, R85), with the bytes as they were fetched. -/
structure CodeLine where
  core : Nat
  lane : Bool
  asid : Nat
  sec : Nat
  bytes : List Byte
deriving DecidableEq, Repr

/-- The cores' own caches and counters: the issue cycles counted by each partition, six to a core (R18, R58); the register caches, the
least recently used line first (R338); and the instruction caches, the oldest sector first. -/
structure Cores where
  cyc : SMap Nat := []
  lines : List HeldLine := []
  code : List CodeLine := []
deriving DecidableEq, Repr

/-- The engines' work (R276, R286, R297), the record caches (R100), the tags of the copies and collectives whose group requests went
with their group's record, never performed (R291), and the next identifier. -/
structure Engines where
  tasks : List Task := []
  copies : List CopyJob := []
  colls : List Coll := []
  recs : List CachedRecord := []
  nextId : Nat := 0
  lost : List Nat := []
deriving DecidableEq, Repr

/-- A level of work with its completion counter (R33, R36): kind 0 launch, 1 graph, 2 phase, 3 job; its number within
its parent, total, done count, state, and the ASID and VA of its counter word (VA 0: none). -/
structure Level where
  kind : Nat
  id : Nat
  parent : Nat
  number : Nat
  total : Nat
  done : Nat := 0
  state : Nat := 0
  va : Nat := 0
  asid : Nat := 0
  opened : Bool := false
deriving DecidableEq, Repr

/-- A queue (R371, R372): kind 0 ordinary, 1 supervisor, 2 device; its job's level, ring, log2 of its slots, the
control-block fields that hardware owns, and its owner's ASID. -/
structure Queue where
  id : QueueId
  kind : Nat
  openPost : Bool
  job : Nat
  asid : Nat
  prio : Nat
  ring : Nat
  k : Nat
  head : Nat := 0
  sealat : Option Nat := none
  status : Nat := 0
  code : Nat := 0
  refused : Nat := 0
  faultva : Nat := 0
  lasthalt : Nat := 0
  halts : Nat := 0
  dropping : Bool := false
deriving DecidableEq, Repr

/-- A fetched card (R376): where it came from, its bytes, its job, and its standing: 0 waiting, 1 started, 2 complete,
3 failed. `level` is the launch's level once it has started, `crews` the crews already placed, and `readyAt` when it entered the ready
pool (R382, R385). -/
structure Card where
  id : CardId
  job : Nat
  bytes : List Byte
  standing : Nat := 0
  level : Nat := 0
  crews : List Nat := []
  readyAt : Option Nat := none
deriving DecidableEq, Repr

/-- The schedulers' state (R371 to R390). `failed` holds graph numbers failed before their header came (R379), `ended` the
handles of teams that have retired or been removed. -/
structure Sched where
  queues : List Queue := []
  levels : List Level := []
  cards : List Card := []
  failed : List (Nat × Nat) := []
  ended : List Nat := []
  nextId : Nat := 1
deriving DecidableEq, Repr

/-- What a root knows of one source module of a group (R409): the highest stamped number, the window, held requests. -/
structure DedupSource where
  src : Nat
  high : Nat := 0
  window : List (Nat × Nat) := []
  held : List GroupReq := []
deriving DecidableEq, Repr

/-- What goes up the tree about a binding (R413): the group, the module that it comes from or goes to, and its hash, none where the members
below disagree. -/
structure BindingHash where
  group : Nat
  module : Nat
  hash : Option (List Byte)
deriving DecidableEq, Repr

/-- A group at this module (R294, R410); `hash` is that of its binding (R413): state 0 bound, 1 error, 2 not bound yet and waiting for the binding announcement; in
states 0 and 1 `card` is the group-dissolve command that waits for the unbinding announcement, and `also` are those that wait with it. Requests of this module are `waiting` for a number, `outstanding` without a stamp
reply with their resends, and `unapplied` as (number, team) until the local replica has them. -/
structure Group where
  number : Nat
  state : Nat := 0
  asid : Nat := 0
  window : Nat := 0
  wlen : Nat := 0
  root : Nat := 0
  parent : Nat := 0xFFFF
  children : List Nat := []
  members : Nat := 1
  rankmap : List Nat := []
  locals : List (Nat × Nat × Nat) := []
  issue : List (Nat × Nat) := []
  nextNumber : Nat := 1
  waiting : List GroupReq := []
  outstanding : List (GroupReq × Nat) := []
  unapplied : List (Nat × Nat) := []
  applied : Nat := 0
  early : List (Nat × GroupReq) := []
  nextStamp : Nat := 1
  sources : List DedupSource := []
  kept : List (Nat × GroupReq) := []
  reports : List (Nat × Nat × Nat) := []
  unread : Nat := 0
  card : Option CardId := none
  also : List CardId := []
  hash : List Byte := []
deriving DecidableEq, Repr

/-- A port (R402, R407): role 0 off, 1 module, 2 host; the replays made and asked for in a row without progress, and failed
retrainings; the packets that wait for room in its replay buffer, with their channels; and by channel the payload of a packet of which the last
flit has not come. -/
structure Port where
  role : Nat := 0
  up : Bool := false
  training : Bool := false
  nextSend : Nat := 0
  expect : Nat := 0
  buffer : List Flit := []
  replays : Nat := 0
  asked : Nat := 0
  fails : Nat := 0
  waiting : List (Nat × Packet) := []
  parts : SMap (List Byte) := []
deriving DecidableEq, Repr

/-- A topology change in progress (R414): the step it is at (5 once the generation has risen), the drain limit, the command card, and the new table. -/
structure Topology where
  step : Nat
  limit : Nat
  card : CardId
  msg : List Byte
  table : List Byte
  failed : Bool := false
deriving DecidableEq, Repr

/-- The link block (R402 to R415): LINK's generation and state, module id, ports, routes, a topology change, the collective tiles that a
seal holds; the flits sent and the replays asked for, by port; stamp replies sent as (module, group, number, stamp), stamped requests sent as
(module, stamp, request), group requests on their way up, collective tiles sent; switch messages sent, with the status byte that the switches
will answer (an input); the groups; and the hashes of bindings that have come up from the children (an input) and gone up to the parent
(R413). What is for another module has left, or waits, as packets of the ports too (R405). -/
structure Link where
  gen : BitVec 32 := 0
  state : BitVec 4 := 0
  moduleId : Nat := 0
  ports : SMap Port := []
  routes : SMap Nat := []
  change : Option Topology := none
  heldOut : List CollTile := []
  outbox : List (Nat × Flit) := []
  asks : List (Nat × Nat) := []
  replies : List (Nat × Nat × Nat × Nat) := []
  stamped : List (Nat × Nat × GroupReq) := []
  requests : List GroupReq := []
  sentTiles : List CollTile := []
  switchOut : List Byte := []
  switchIn : Byte := 0
  groups : List Group := []
  hashesIn : List BindingHash := []
  hashesOut : List BindingHash := []
deriving DecidableEq, Repr

/-- A host access waiting for a flip (R422, R423): kind 0 read, 1 ownership, 2 write. -/
structure HeldHost where
  kind : Nat
  req : HostReq
  data : List Byte
deriving DecidableEq, Repr

/-- A bias flip in progress (R422, R423). -/
structure Flip where
  granule : Nat
  toHost : Bool
  card : CardId
  waiting : List Nat
  held : List HeldHost := []
deriving DecidableEq, Repr

/-- An answer sent to a host: adapter, address, kind of answer, data, and the copy that it grants the host (R420): 0 none, 1 shared,
2 exclusive or modified. -/
structure HostReply where
  adapter : Nat
  dpa : Nat
  kind : Nat
  data : List Byte
  grant : Nat := 0
deriving DecidableEq, Repr

/-- A back-invalidation that an adapter has not answered (R420, R423). -/
structure Snoop extends SnoopPlace where
  adapter : Nat
deriving DecidableEq, Repr

/-- What the module asks of a host or of pooled memory (R417, R419). -/
inductive FarOp where
  | rdCurr | rdShared | rdOwn | itoMWr | dirtyEvict | memRd | memWr
deriving DecidableEq, Repr

/-- A request that the module has sent through an adapter (R417): what it asks, its address, and the data of a write-back. -/
structure FarReq where
  adapter : Nat
  op : FarOp
  addr : Nat
  data : List Byte
deriving DecidableEq, Repr

/-- What a packet of this module carries (R403, R410 to R413, R416): the manual names no layout of it. -/
inductive LinkMsg where
  | request (q : GroupReq)
  | reply (group number stamp : Nat)
  | stamped (stamp : Nat) (q : GroupReq)
  | report (group applied : Nat)
  | tile (x : CollTile)
  | hash (h : BindingHash)
  | announce (group : Nat) (bind : Bool)
  | host (a : HostReply)
  | snoop (q : Snoop)
  | far (r : FarReq)
deriving DecidableEq, Repr

/-- FREE VALUE: the packet kind (R403) of a message, and the bytes of its packet's body: the manual names neither. -/
opaque Config.messageKind : LinkMsg → Nat
/-- FREE VALUE: a byte of the body of a message's packet (R403). -/
opaque Config.messageByte : LinkMsg → Nat → Byte

/-- The host ports (R416 to R423): attached adapters as (port, adapter); flips; replies sent; back-invalidations without a response; far fills
as (ASID, sector VA), and the requests that fills and write-backs of far pages have sent; and far memory. -/
structure HostPorts where
  adapters : List (Nat × Nat) := []
  flips : List Flip := []
  replies : List HostReply := []
  snoops : List Snoop := []
  farFills : List (Nat × Nat) := []
  farOut : List FarReq := []
  far : SMap Byte := []
deriving DecidableEq, Repr

/-- A cluster as firmware and the memory system see it (R334, R370, R438): its domain, 8 when bring-up has left it out of every domain
(R436), clock in steps of 0.0625 GHz, and whether no mesh route reaches its memory controller (R370). -/
structure Cluster where
  domain : Nat := 0
  lost : Bool := false
  clock : Nat := 24
  target : Nat := 24
  stopped : Bool := false
  cutOff : Bool := false
deriving DecidableEq, Repr

/-- The configuration record in force (R441). -/
structure FwConfig where
  raw : List Byte := []
  seq : Nat := 0
  cap : Nat := 24000
  scrub : Nat := 4
  ring : Nat := 85
  bond : Nat := 20
  laser : Nat := 15
  sram : Nat := 20
  dram : Nat := 100
deriving DecidableEq, Repr

/-- Levanter (R444, R445): state, job level, VA and bytes of the log, entries written or to replay, entries replayed, the
atomics applied at each (ASID, VA), and the atomics made by each team. -/
structure Levanter where
  state : Nat := 0
  job : Nat := 0
  log : Nat := 0
  bytes : Nat := 0
  count : Nat := 0
  overflow : Bool := false
  used : List Nat := []
  locs : List (Nat × Nat × Nat) := []
  made : List (Nat × Nat) := []
  diverged : Nat := 0
deriving DecidableEq, Repr

/-- An entry of the module error log (R447). -/
structure LogEntry where
  seq : Nat
  kind : Nat
  cluster : Nat
  asid : Nat
  detail : Nat
  addr : Nat
  aux : Nat
deriving DecidableEq, Repr

/-- A registered scrub entry (R442). -/
structure ScrubEntry where
  entry : Nat
  asid : Nat
  recVa : Nat
  failed : Bool := false
deriving DecidableEq, Repr

/-- Tramontane's state (R436 to R447). The mailbox's request area is `request` (256 B, zeros at its end not listed); `report`
and `sensors` are what the sensors will give at bring-up and at the next measurement, and `cooled` the cluster whose temperature they
report at 95 °C, inputs of the module. -/
structure Firmware where
  phase : Nat := 0
  step : Nat := 0
  busy : Bool := false
  result : Nat := 0
  response : List Byte := []
  cfg : FwConfig := {}
  key : Option (List Byte) := none
  boots : Nat := 0
  days : Nat := 0xFFFFFFFF
  scrubs : List ScrubEntry := []
  lev : Levanter := {}
  log : List LogEntry := []
  logSeq : Nat := 1
  wear : List (Nat × Nat × Nat) := []
  history : List (List (Nat × Nat × Nat)) := []
  clusters : SMap Cluster := []
  request : List Byte := []
  report : BringUp := {}
  sensors : Sensors := {}
  scrubNext : Nat := 0
  cooled : Nat := 0
deriving DecidableEq, Repr

/-- The module. `team` is the team whose turn it is, `others` the rest. `agenda` and `fresh` are the model's own
(assumption log 2 and 3). -/
structure State where
  agenda : List Turn
  fresh : Nat
  team : Team
  others : List Team
  mem : List Host.Cell
  lm : List Host.Cell
  tiles : SMap TileOwner
  sb : List SbEntry
  posted : List Posted
  cores : Cores
  hand : List HandCopy
  xl : Xlate
  fab : Fabric
  eng : Engines
  sched : Sched
  link : Link
  hostp : HostPorts
  fw : Firmware
deriving DecidableEq, Repr

/-- The module at power-on (R436, phase 0): no team, no region, no page, no queue; every memory zero (assumption log 1). -/
def State.reset : State where
  agenda := []
  fresh := 0
  team := {}
  others := []
  mem := []
  lm := []
  tiles := []
  sb := []
  posted := []
  cores := {}
  hand := []
  xl := {}
  fab := {}
  eng := {}
  sched := {}
  link := {}
  hostp := {}
  fw := {}

end Sys2Proof.Machine
end

