-- ==== Sys2Proof/Machine/Ports.lean ====
section
/-! DEFINITION. The ports: flits and packets (R403), routing (R404, R405), replay buffers (R407), and the packets in which this module's own
messages leave (R405, R416); and the module error log (R447). -/

namespace Sys2Proof.Machine

/-- An entry written to the module error log (R447); when the ring is full the oldest goes. -/
def logError (s : State) (kind cluster asid detail addr aux : Nat) : State :=
  let e : LogEntry := { seq := s.fw.logSeq, kind := kind, cluster := cluster, asid := asid, detail := detail, addr := addr, aux := aux }
  let l := s.fw.log ++ [e]
  { s with fw := { s.fw with log := l.drop (l.length - Config.errorLog), logSeq := s.fw.logSeq + 1 } }

/-- The port that the routing table names for a module (R405). -/
def routePort (s : State) (dst : Nat) : Option Nat :=
  let e := sget 0 s.link.routes dst
  if bit e 15 then some (e % 16) else none

/-- The record of a port. -/
def portRec (s : State) (n : Nat) : Port := sget {} s.link.ports n

/-- The state with a port's record set. -/
def setPort (s : State) (n : Nat) (p : Port) : State :=
  { s with link := { s.link with ports := sset {} s.link.ports n p } }

/-- The header of a flit (R403). -/
def flitHeader (f : Flit) : Nat :=
  f.hseq % 2 ^ 12 * 2 ^ 52 + f.hack % 2 ^ 12 * 2 ^ 40 + f.chan % 16 * 2 ^ 36 + b2n f.first * 2 ^ 35 + b2n f.last * 2 ^ 34

/-- The CRC-64 over a flit's header and payload (R403). -/
def flitCrc (f : Flit) : Nat := Config.crc64 (toBytes 8 (flitHeader f) ++ fit 64 f.payload) % 2 ^ 64

/-- A flit as its 80 bytes go (R403). -/
def flitBytes (f : Flit) : List Byte := toBytes 8 (flitHeader f) ++ fit 64 f.payload ++ toBytes 8 f.crc

/-- A packet's bytes: the route header of 16 B, and its body (R403). -/
def packetBytes (p : Packet) : List Byte :=
  toBytes 2 (p.dst % 2 ^ 12) ++ toBytes 2 (p.src % 2 ^ 12) ++ toBytes 4 p.gen ++ toBytes 4 p.number ++ toBytes 1 p.kind
    ++ List.replicate 3 0 ++ p.body

/-- The packet whose flits' payloads are some bytes (R403). -/
def packetOf (bs : List Byte) : Packet where
  dst := field bs 0 2 % 2 ^ 12
  src := field bs 2 2 % 2 ^ 12
  gen := field bs 4 4
  number := field bs 8 4
  kind := field bs 12 1
  body := bs.drop 16

/-- The flits of a packet (R403): as many as its bytes need. -/
def flitCount (p : Packet) : Nat := (16 + p.body.length + 63) / 64

/-- A flit of some payload sent on a port, and kept there for replay (R407). -/
def sendFlit (s : State) (port chan : Nat) (first last : Bool) (payload : List Byte) : State :=
  let r := portRec s port
  let f : Flit := {
    hseq := r.nextSend, hack := (r.expect + 4095) % 4096, chan := chan, first := first, last := last, payload := payload, crc := 0 }
  let f1 := { f with crc := flitCrc f }
  let s1 := setPort s port { r with nextSend := (r.nextSend + 1) % 4096, buffer := r.buffer ++ [f1] }
  { s1 with link := { s1.link with outbox := s1.link.outbox ++ [(port, f1)] } }

/-- A packet's flits sent in order. -/
def sendFlits (s : State) (port chan : Nat) (p : Packet) : State :=
  let n := flitCount p
  (List.range n).foldl (fun s i =>
    sendFlit s port chan (i = 0) (i + 1 = n) (fit 64 (((packetBytes p).drop (64 * i)).take 64))) s

/-- Whether a port has room for a packet (R407): it is up, and its replay buffer has as many places free. -/
def portTakes (r : Port) (p : Packet) : Bool := r.up && decide (r.buffer.length + flitCount p ≤ Config.replayFlits)

/-- A packet sent on a port, behind those that wait there for room in the replay buffer (R405, R407). -/
def sendOn (s : State) (port chan : Nat) (p : Packet) : State :=
  let r := portRec s port
  if r.waiting.isEmpty && portTakes r p then sendFlits s port chan p else setPort s port { r with waiting := r.waiting ++ [(chan, p)] }

/-- The packets that wait at a port sent in order as far as there is room. -/
def pumpPort (port : Nat) : Nat → State → State
  | 0, s => s
  | n + 1, s =>
    let r := portRec s port
    match r.waiting with
    | [] => s
    | (chan, p) :: rest =>
      if portTakes r p then pumpPort port n (sendFlits (setPort s port { r with waiting := rest }) port chan p) else s

/-- A dropped packet counted in the module error log (R405, R447). -/
def dropPacket (s : State) (port : Nat) (p : Packet) : State := logError s 2 0xFF 0 port 0 p.dst

/-- A packet routed (R404, R405): it leaves on its port, and is dropped where its entry is invalid or its port down; `here` is the port that the log
names for a packet that has no entry. -/
def routePacket (s : State) (here chan : Nat) (p : Packet) : State :=
  match routePort s p.dst with
  | none => dropPacket s here p
  | some n => if (portRec s n).up then sendOn s n chan p else dropPacket s n p

/-- The channel of a message (R403; assumption log 114). -/
def LinkMsg.chan : LinkMsg → Nat
  | .request _ => 0
  | .reply .. => 1
  | .stamped .. => 2
  | .tile _ => 3
  | .report .. | .hash _ | .announce .. => 4
  | .host a => if a.kind = 3 then 6 else 7
  | .snoop _ => 7
  | .far r => match r.op with | .memRd | .memWr => 7 | _ => 6

/-- The request number in the route header of a message's packet (R403). -/
def LinkMsg.number : LinkMsg → Nat
  | .request q => q.number
  | .reply _ n _ => n
  | .stamped _ q => q.number
  | _ => 0

/-- The bytes of the body of a message's packet: 48 for its fields, which fill the first flit, and those of its data (assumption log 114). -/
def LinkMsg.size : LinkMsg → Nat
  | .request q | .stamped _ q => 48 + (match q.op with | .store bs => bs.length | .atomic .. => 0)
  | .tile x => 48 + x.data.length
  | .host a => 48 + a.data.length
  | .far r => 48 + r.data.length
  | _ => 48

/-- The packet of a message of this module (R403). -/
def messagePacket (s : State) (dst : Nat) (m : LinkMsg) : Packet where
  dst := dst
  src := s.link.moduleId
  gen := s.link.gen.toNat
  number := m.number
  kind := Config.messageKind m % 256
  body := (List.range m.size).map (Config.messageByte m)

/-- A message to another module leaves as a packet (R405, R410); one to this module needs none (R404). -/
def transmit (s : State) (dst : Nat) (m : LinkMsg) : State :=
  if dst = s.link.moduleId then s else routePacket s 0 m.chan (messagePacket s dst m)

/-- A message to an adapter leaves on the host port to which it is bound (R416). -/
def hostSend (s : State) (adapter : Nat) (m : LinkMsg) : State :=
  match s.hostp.adapters.find? (·.2 = adapter) with
  | some (port, _) => sendOn s port m.chan (messagePacket s s.link.moduleId m)
  | none => s

end Sys2Proof.Machine
end

