-- ==== Sys2Proof/Machine/Access.lean ====
section
/-! DEFINITION. One access to virtual memory: its tag, region and rights (R80 to R87, R344), its place in DRAM or in far
memory (R348 to R351, R418, R419), the gates it waits at (R116, R420, R422), and its coherence state changes (R394). -/

namespace Sys2Proof.Machine

/-- What a meaning answers. -/
abbrev Out := Host.Outcome State Fault Refusal

/-- The index of the `k`-th free value or free choice of this step (assumption log 3). -/
def draw (s : State) (k : Nat) : Nat := s.fresh * 2 ^ 32 + k

/-- Who makes an access: core and cluster, isolation domain, ASID, whether with level-1 rights, the team, and whether an engine makes it
for the team. -/
structure Who where
  core : Nat
  domain : Nat
  asid : Nat
  sup : Bool
  team : Nat
  engine : Bool := false
deriving DecidableEq, Repr

/-- The cluster of a requester. -/
def Who.cluster (w : Who) : Nat := w.core / 16

/-- The record of a cluster. -/
def clusterRec (s : State) (c : Nat) : Cluster := sget {} s.fw.clusters c

/-- The global number of a team's core. -/
def coreOf (t : Team) : Nat := t.place.cluster * 16 + t.place.core

/-- The current privilege level of a team (R330, R332). -/
def levelOf (t : Team) : Nat := if t.sys.handler then 1 else t.card.level

/-- A team as a requester. -/
def whoOf (s : State) (t : Team) : Who where
  core := coreOf t
  domain := (clusterRec s t.place.cluster).domain
  asid := t.card.asid
  sup := levelOf t = 1
  team := t.card.handle

/-- The ASID that tags an access (R81): 0 in the global range. -/
def tagOf (asid va : Nat) : Nat := if bits va 52 4 = 15 then 0 else asid

/-- The region number of a VA (R83). -/
def regionNo (va : Nat) : Nat := bits va 21 35

/-- The key of a region in the tables. -/
def regionKey (tag rn : Nat) : Nat := tag * 2 ^ 35 + rn

/-- The entry in the region permission table (R344), 0 when none was written. -/
def tableEntry (s : State) (tag va : Nat) : Nat := (sget 0 s.xl.regions (regionKey tag (regionNo va))).toNat

/-- Fields of a region entry (R344). -/
def eValid (e : Nat) : Bool := bit e 0
/-- The region's kind. -/
def eKind (e : Nat) : Nat := bits e 5 3
/-- Whether the region is interleaved. -/
def eInter (e : Nat) : Bool := bit e 8
/-- The home cluster. -/
def eHome (e : Nat) : Nat := bits e 9 6
/-- The bound group's number. -/
def eGroup (e : Nat) : Nat := bits e 16 16
/-- The domain of a region of ASID 0. -/
def eGdom (e : Nat) : Nat := bits e 32 3
/-- Level-1 accesses only. -/
def eSup (e : Nat) : Bool := bit e 35

/-- The entry against which a core checks an access: the cached entry or the table's, and either of them afresh at every
access while a deferred invalidation leaves them different (R345, R346). -/
def lookEntry (s : State) (core tag va : Nat) : Nat :=
  let now := tableEntry s tag va
  match s.xl.rptc.find? (fun c => c.core = core && c.asid = tag && c.rn = regionNo va) with
  | none => now
  | some c =>
    if c.entry.toNat = now then now
    else if Config.freePick (draw s (va % 2 ^ 32)) % 2 = 0 then c.entry.toNat else now

/-- The record of a group that is bound at this module, in error or not (R295). -/
def groupOf (s : State) (g : Nat) : Option Group := s.link.groups.find? fun r => r.number = g && r.state ≠ 2

/-- A group is bound, in error or not (R295). -/
def groupBound (s : State) (g : Nat) : Bool := (groupOf s g).isSome

/-- Whether a group is bound, in error or not, and a VA lies in the window of its binding (R90, R413). -/
def windowBound (s : State) (g tag va : Nat) : Bool :=
  match groupOf s g with
  | some r => tagOf r.asid r.window = tag && decide (r.window ≤ va) && decide (va < r.window + r.wlen)
  | none => false

/-- The region that a requester finds at a VA: none when it is absent, when it is of another domain (R344), and when it is
a group window that is bound to no group there (R90). -/
def regionAt (s : State) (w : Who) (va : Nat) : Option Nat :=
  let tag := tagOf w.asid va
  let e := lookEntry s w.core tag va
  if eValid e && (tag ≠ 0 || eGdom e = w.domain) && (eKind e ≠ 2 || windowBound s (eGroup e) tag va) then some e else none

/-- A right that an access needs (R84). -/
inductive Right where
  | r | w | rw | sx | lx
deriving DecidableEq, Repr

/-- Whether a region entry holds a right. -/
def hasRight (e : Nat) : Right → Bool
  | .r => bit e 1
  | .w => bit e 2
  | .rw => bit e 1 && bit e 2
  | .sx => bit e 3
  | .lx => bit e 4

/-- The cause of the region check (R84, R344): region fault 0x05, permission 0x06. -/
def rightsTrap (s : State) (w : Who) (va : Nat) (need : Right) : Option Nat :=
  match regionAt s w va with
  | none => some 0x05
  | some e => if (!eSup e || w.sup) && hasRight e need then none else some 0x06

/-- Whether a VA lies in the copy aperture (R284). -/
def inAperture (va : Nat) : Bool := decide (Config.aperture ≤ va) && decide (va < 2 ^ 56)

/-- The checks of one access in order: address form (R80), the aperture (R284), region and rights (R84), alignment (R86). -/
def addrTrap (s : State) (w : Who) (va size : Nat) (need : Right) : Option Nat :=
  if 2 ^ 56 ≤ va then some 0x04
  else if inAperture va then some 0x06
  else match rightsTrap s w va need with
    | some c => some c
    | none => if va % size ≠ 0 then some 0x07 else none

/-- The first cause among the regions that `n` bytes touch, from the region of `va` up (R84). `fuel` bounds the regions. -/
def rangeTrapFrom (s : State) (w : Who) (need : Right) (last : Nat) : Nat → Nat → Option Nat
  | 0, _ => none
  | fuel + 1, va =>
    if last < va then none
    else match rightsTrap s w va need with
      | some c => some c
      | none => rangeTrapFrom s w need last fuel ((va / 2 ^ 21 + 1) * 2 ^ 21)

/-- The region check of a range of bytes (R84): none when the range is empty. A range that touches the copy aperture is decoded as an access to
it before any region is checked (R284; assumption log 79). -/
def rangeTrap (s : State) (w : Who) (va n : Nat) (need : Right) : Option Nat :=
  if n = 0 then none else if overlap va n Config.aperture 131072 then some 0x06 else rangeTrapFrom s w need (va + n - 1) ((va + n - 1) / 2 ^ 21 - va / 2 ^ 21 + 1) va

/-- Where a VA's byte is kept: not present, in DRAM at a DPA (R418), or behind an adapter (R419). -/
inductive Where where
  | absent
  | dram (dpa : Nat)
  | far (adapter addr : Nat)
deriving DecidableEq, Repr

/-- Whether a page table entry covers a VA (R349): its page, and its granule where the page is interleaved. -/
def pageCovers (tag va : Nat) (p : PageEntry) : Bool :=
  decide (p.asid = tag) && decide (p.vpage = va / 65536) && (p.gidx.isNone || decide (p.gidx = some (bits va 12 4)))

/-- The page table entry that covers a VA (R349). -/
def pageOf (s : State) (tag va : Nat) : Option PageEntry := s.xl.pages.find? (pageCovers tag va)

/-- The domain of an ASID; ASID 0 and unknown ASIDs have none. -/
def asidDomain (s : State) (asid : Nat) : Option Nat :=
  match s.xl.asids.find? (·.1 = asid) with
  | some (_, d, _) => some d
  | none => none

/-- A DPA: controller, frame and byte (R418). -/
def dpaOf (p : PageEntry) (va : Nat) : Nat :=
  p.ctrl * 2 ^ 35 + p.frame * 4096 + (if p.gidx.isSome then va % 4096 else va % 65536)

/-- Whether the home controller lets a domain use a page (R334, R370): the page is the domain's, and a mesh route reaches the
controller. -/
def pageServes (s : State) (dom tag : Nat) (p : PageEntry) : Bool :=
  !(clusterRec s p.ctrl).cutOff && (if tag = 0 then decide (p.gdom = dom) else decide (asidDomain s tag = some dom))

/-- Where a page keeps a VA's byte (R418, R419). -/
def pagePlace (p : PageEntry) (va : Nat) : Where :=
  match p.far with
  | some (adapter, addr, _, _) => .far adapter ((addr + va % 65536) % 2 ^ 64)
  | none => .dram (dpaOf p va)

/-- Translation at the home controller (R349, R350, R334): a page of another domain, and a page whose controller no mesh
route reaches (R370), is answered as not present. -/
def whereIs (s : State) (dom tag va : Nat) : Where :=
  match pageOf s tag va with
  | none => .absent
  | some p => if pageServes s dom tag p then pagePlace p va else .absent

/-- The key of a byte of far memory. -/
def farKey (adapter addr : Nat) : Nat := adapter * 2 ^ 64 + addr

/-- The coherent value of a byte. -/
def byteIn (s : State) : Where → Byte
  | .absent => 0
  | .dram p => byteAt s.mem p
  | .far a x => byteAt s.hostp.far (farKey a x)

/-- The state with a coherent byte written. -/
def byteInto (s : State) (x : Where) (b : Byte) : State :=
  match x with
  | .absent => s
  | .dram p => { s with mem := setByte s.mem p b }
  | .far a y => { s with hostp := { s.hostp with far := setByte s.hostp.far (farKey a y) b } }

/-- The page of a VA marked dirty (R349). -/
def markDirty (s : State) (tag va : Nat) : State :=
  match pageOf s tag va with
  | none => s
  | some p =>
    if p.dirty then s
    else { s with xl := { s.xl with pages := s.xl.pages.map fun q => if q = p then { q with dirty := true } else q } }

/-- The kind of the region at a VA, from the table. -/
def kindAt (s : State) (tag va : Nat) : Nat := eKind (tableEntry s tag va)

/-- The first byte of a VA's 64 B sector. -/
def sectorOf (va : Nat) : Nat := va / 64 * 64

/-- The bus on which the coherence traffic of a VA travels (R14, R351). -/
def busOf (va : Nat) : Nat := bits va 8 3

/-- The granule of a location, by its DPA (R420). -/
def granuleOf : Where → Option Nat
  | .dram p => some (p / 4096)
  | _ => none

/-- What keeps an access from its location. -/
inductive Gate where
  | go
  | wait
  | absent
deriving DecidableEq, Repr

/-- Whether a sector is release-pending for every agent but one team's, within its cluster when its kind is handoff (R116). -/
def markedFor (s : State) (team cluster tag sec : Nat) : Bool :=
  s.sb.any fun e => e.marked && e.team ≠ team && e.asid = tag && e.sector = sec && (kindAt s tag sec ≠ 3 || e.core / 16 = cluster)

/-- Whether a sector is release-pending for any team: a recall, a flip or a host's access of it waits (R116). -/
def markedSector (s : State) (tag sec : Nat) : Bool := s.sb.any fun e => e.marked && e.asid = tag && e.sector = sec

/-- The MOESI state of a sector at a holder (R394); an unlisted copy is I. -/
def copyState (s : State) (holder tag sec : Nat) : Moesi :=
  match s.fab.copies.find? (fun c => c.holder = holder && c.asid = tag && c.sec = sec) with
  | some c => c.st
  | none => .I

/-- The home bits of a sector (R394). -/
def homeBits (s : State) (tag sec : Nat) : Bool × Bool :=
  match s.fab.homes.find? (fun h => h.asid = tag && h.sec = sec) with
  | some h => (h.owner, h.shared)
  | none => (false, false)

/-- Whether a kind of region is snooped by MOESI messages (R87, R391): all but broadcast windows and handoff. -/
def snooped (kind : Nat) : Bool := kind ≠ 1 && kind ≠ 3

/-- Whether some copy of a sector holds data that its home lacks. -/
def dirtyCopy (s : State) (tag sec : Nat) : Bool :=
  s.fab.copies.any fun c => c.asid = tag && c.sec = sec && (c.st = .M || c.st = .O)

/-- The cluster of a holder: a stash is holder 64 + core (R394). -/
def holderCluster (h : Nat) : Nat := if 64 ≤ h then (h - 64) / 16 else h

/-- The stash of a cluster that holds a sector: the cluster's slice holds no copy of it while it does (R394). -/
def stashHolder (s : State) (cl tag sec : Nat) : Option Nat :=
  (s.fab.copies.find? fun c => 64 ≤ c.holder && holderCluster c.holder = cl && c.asid = tag && c.sec = sec).map (·.holder)

/-- The holder that serves an access: its core's stash when a binding of the team covers it, which an engine's access never reaches (R97); else the
stash of the cluster that holds the sector in the slice's stead (R394; assumption log 111), and else the cluster's slice. -/
def holderFor (s : State) (w : Who) (va : Nat) : Nat :=
  let own := if w.engine then none else (s.team :: s.others).find? fun t =>
    t.card.handle = w.team && t.ord.bindings.any fun b => decide (b.va ≤ va) && decide (va < b.va + b.len)
  match own with
  | some _ => 64 + w.core
  | none => (stashHolder s w.cluster (tagOf w.asid va) (sectorOf va)).getD w.cluster

/-- Whether a holder still waits for the data of a sector (R395). -/
def dataDue (s : State) (h tag sec : Nat) : Bool := s.fab.due.any fun d => d.holder = h && d.asid = tag && d.sec = sec

/-- Whether a holder has data of a sector still to supply, and so may apply its own writes to it first (R395). -/
def owesData (s : State) (h tag sec : Nat) : Bool := s.fab.due.any fun d => d.supplier = some h && d.asid = tag && d.sec = sec

/-- Whether an access waits for data (R395): its holder's own has not arrived; or it has none, and the data of a request before it is still to come
or a write-back that its home would have to supply from is in flight. -/
def dataWaits (s : State) (w : Who) (va : Nat) : Bool :=
  let tag := tagOf w.asid va
  let sec := sectorOf va
  let h := holderFor s w va
  !(s.fab.due.isEmpty && s.fab.evicts.isEmpty) && snooped (kindAt s tag va)
    && (dataDue s h tag sec
      || (copyState s h tag sec = .I && !owesData s h tag sec
        && (s.fab.due.any (fun d => d.asid = tag && d.sec = sec) || (!(homeBits s tag sec).1 && s.fab.evicts.contains (tag, sec)))))

/-- Whether data that is due may be sent (R116, R395): no other cluster's mark withholds the sector; a home waits for the write-back in flight;
and a holder waits for its own data and applies its own writes. -/
def maySupply (s : State) (d : DataDue) : Bool :=
  !(s.sb.any fun e => e.marked && e.asid = d.asid && e.sector = d.sec && e.core / 16 ≠ holderCluster d.holder)
    && match d.supplier with
      | none => !s.fab.evicts.contains (d.asid, d.sec)
      | some h =>
        !((s.fab.due.takeWhile (· ≠ d)).any fun x => x.holder = h && x.asid = d.asid && x.sec = d.sec)
          && !s.sb.any fun e => e.asid = d.asid && e.sector = d.sec && e.covers = 0 && !e.held && !e.sent
            && (if 64 ≤ h then e.core = h - 64 else e.core / 16 = h)

/-- Where the page of a VA keeps its byte, whether or not its home answers. -/
def homePlace (s : State) (tag va : Nat) : Where :=
  match pageOf s tag va with
  | some p => pagePlace p va
  | none => .absent

/-- Whether an access of the device that reaches a place under host bias needs no back-invalidation any more (R420): no adapter is attached, its
holder's copy is the only one, or every adapter has answered for the line. -/
def lineCleared (s : State) (w : Who) (va p : Nat) : Bool :=
  let st := copyState s (holderFor s w va) (tagOf w.asid va) (sectorOf va)
  s.hostp.adapters.isEmpty || st = .E || st = .M || s.fab.cleared.contains (p / 256)

/-- Whether the module holds the data of a far sector: in a cache, or as its fill has brought it (R419). -/
def farHere (s : State) (tag va a y : Nat) : Bool :=
  s.fab.farKnown.contains (farKey a (sectorOf y)) || s.fab.copies.any fun c => c.asid = tag && c.sec = sectorOf va

/-- The gates of an access at its home: a translation fault (R350); another team's release-pending sector (R116); a flip of
the granule in progress (R422, R423); host bias with a line not yet invalidated at the hosts (R420); a far sector whose fill has not returned
(R419); and data that is still to come (R395). -/
def gateAt (s : State) (w : Who) (va : Nat) : Gate :=
  let tag := tagOf w.asid va
  let x := whereIs s w.domain tag va
  if markedFor s w.team w.cluster tag (sectorOf va) then .wait
  else match x with
    | .absent => .absent
    | .dram p =>
      if s.hostp.flips.any (fun f => f.granule = p / 4096) then .wait
      else if s.xl.hostBias.contains (p / 4096) && !lineCleared s w va p then .wait
      else if dataWaits s w va then .wait else .go
    | .far a y => if farHere s tag va a y && !dataWaits s w va then .go else .wait

/-- A write-back of a far sector sent through its adapter (R417, R419): to host memory or to the pool. -/
def farWrite (s : State) (a y : Nat) : State :=
  let k := farKey a (sectorOf y)
  let r : FarReq := {
    adapter := a % 4, op := if a < 4 then .dirtyEvict else .memWr, addr := sectorOf y
    data := (List.range 64).map fun i => byteAt s.hostp.far (k + i) }
  hostSend { s with hostp := { s.hostp with farOut := s.hostp.farOut ++ [r] } } (a % 4) (.far r)

/-- The data of a sector written at its home, where it lies behind an adapter by a write-back through it (R419). -/
def writeHome (s : State) (tag sec : Nat) : State :=
  match homePlace s tag sec with
  | .far a y => farWrite s a y
  | _ => s

/-- The modified copies that a test picks, written at their homes. -/
def writeCopies (s : State) (pick : SectorCopy → Bool) : State :=
  (s.fab.copies.filter fun c => pick c && (c.st = .M || c.st = .O)).foldl (fun s c => writeHome s c.asid c.sec) s

/-- Eviction data that has arrived at its home is written (R395). -/
def landEvict (s : State) (tag sec : Nat) : State :=
  if s.fab.evicts.contains (tag, sec) then
    writeHome { s with fab := { s.fab with evicts := s.fab.evicts.filter (· ≠ (tag, sec)) } } tag sec
  else s

/-- While an access waits for data of a sector, the first that may be sent comes: to a request before it, or to the home (R395). -/
def landData (s : State) (tag sec : Nat) : State :=
  let mine := s.fab.due.filter fun d => d.asid = tag && d.sec = sec
  match mine.find? (maySupply s) with
  | some d => { s with fab := { s.fab with due := s.fab.due.erase d } }
  | none => landEvict s tag sec

/-- The request of a fill of a far sector (R417, R419): which read of host memory it is is a free choice (assumption log 112). -/
def fillOp (s : State) (a : Nat) : FarOp :=
  if 4 ≤ a then .memRd
  else match Config.freePick (draw s 0) % 3 with
    | 0 => .rdCurr
    | 1 => .rdShared
    | _ => .rdOwn

/-- A back-invalidation sent to some adapters (R420, R423). -/
def askHosts (s : State) (blk : Bool) (place : Nat) (adapters : List Nat) : State :=
  adapters.foldl (fun s a =>
    let q : Snoop := { adapter := a, blk := blk, place := place }
    hostSend { s with hostp := { s.hostp with snoops := s.hostp.snoops ++ [q] } } a (.snoop q)) s

/-- What a waiting access sends or waits for: a far fill through the adapter (R419), BISnpInv of its line to every attached adapter (R420), or
data that is still to come (R395). -/
def askGate (s : State) (w : Who) (va : Nat) : State :=
  let tag := tagOf w.asid va
  let sec := sectorOf va
  match whereIs s w.domain tag va with
  | .absent => s
  | .far a y =>
    if farHere s tag va a y then (if dataWaits s w va then landData s tag sec else s)
    else if s.hostp.farFills.contains (tag, sec) then s
    else
      let r : FarReq := { adapter := a % 4, op := fillOp s a, addr := sectorOf y, data := [] }
      hostSend { s with hostp := { s.hostp with
        farFills := s.hostp.farFills ++ [(tag, sec)], farOut := s.hostp.farOut ++ [r] } } (a % 4) (.far r)
  | .dram p =>
    if s.hostp.flips.any (fun f => f.granule = p / 4096) then s
    else if s.xl.hostBias.contains (p / 4096) && !lineCleared s w va p then
      if s.hostp.snoops.any fun q => !q.blk && q.place = p / 256 then s
      else askHosts s false (p / 256) (s.hostp.adapters.map (·.2))
    else if dataWaits s w va then landData s tag sec
    else s

/-- The state with a sector's copy at a holder in a MOESI state. -/
def setCopy (s : State) (holder tag sec : Nat) (st : Moesi) : State :=
  let rest := s.fab.copies.filter fun c => !(c.holder = holder && c.asid = tag && c.sec = sec)
  let kept := if st = .I then rest else rest ++ [{ holder := holder, asid := tag, sec := sec, st := st }]
  { s with fab := { s.fab with copies := kept } }

/-- Every copy of a sector but the named holder's changed by a function; I drops the copy. -/
def mapCopies (s : State) (tag sec : Nat) (keep : Option Nat) (f : Moesi → Moesi) : State :=
  let one (c : SectorCopy) : Option SectorCopy :=
    if c.asid = tag && c.sec = sec && some c.holder ≠ keep then
      (if f c.st = .I then none else some { c with st := f c.st })
    else some c
  let inL1 (x : L1Line) : Bool := x.asid = tag && x.sec = sec && some (x.core / 16) ≠ keep
  { s with fab := { s.fab with
    copies := s.fab.copies.filterMap one, l1 := if f .S = .I then s.fab.l1.filter fun x => !inL1 x else s.fab.l1 } }

/-- The state with a sector's home bits set; both clear are not listed. -/
def setHome (s : State) (tag sec : Nat) (owner shared : Bool) : State :=
  let rest := s.fab.homes.filter fun h => !(h.asid = tag && h.sec = sec)
  let kept := if owner || shared then rest ++ [{ asid := tag, sec := sec, owner := owner, shared := shared }] else rest
  { s with fab := { s.fab with homes := kept } }

/-- The slice whose copy a stash replaces (R394): a stash is holder 64 + core. -/
def pairedSlice (holder : Nat) : Option Nat := if 64 ≤ holder then some ((holder - 64) / 16) else none

/-- Data on its way to the home of a sector (R395). -/
def sendHome (s : State) (tag sec : Nat) : State :=
  if s.fab.evicts.contains (tag, sec) then s else { s with fab := { s.fab with evicts := s.fab.evicts ++ [(tag, sec)] } }

/-- A sector leaves the L1s of a cluster's cores, as it leaves the cluster's cache. -/
def dropL1Of (s : State) (cl tag sec : Nat) : State :=
  { s with fab := { s.fab with l1 := s.fab.l1.filter fun x => !(x.core / 16 = cl && x.asid = tag && x.sec = sec) } }

/-- A holder gives a sector up (R394): an owner's copy clears the home's owner bit, and O and M data go to the home. -/
def evictCopy (s : State) (holder tag sec : Nat) : State :=
  let s := dropL1Of s holder tag sec
  let gone (s : State) : State :=
    setHome (setCopy s holder tag sec .I) tag sec false (homeBits s tag sec).2
  match copyState s holder tag sec with
  | .I => s
  | .S => setCopy s holder tag sec .I
  | .E => gone s
  | _ => sendHome (gone s) tag sec

/-- A slice gives its copy up to its cluster's stash: it evicts it (R394). -/
def dropPaired (s : State) (holder tag sec : Nat) : State :=
  match pairedSlice holder with
  | some c => evictCopy s c tag sec
  | none => s

/-- A request that reaches the home uses up what lets it through there: the answers of the hosts for its line (R420), and the data that a far fill
has brought (R419). -/
def useHome (s : State) (tag sec : Nat) : State :=
  match homePlace s tag sec with
  | .dram p => { s with fab := { s.fab with cleared := s.fab.cleared.filter (· ≠ p / 256) } }
  | .far a y => { s with fab := { s.fab with farKnown := s.fab.farKnown.filter (· ≠ farKey a (sectorOf y)) } }
  | .absent => s

/-- What the home of a sector holds is noted as a cache takes it to modify it (R394). -/
def noteHome (s : State) (tag sec : Nat) : State :=
  if dirtyCopy s tag sec || s.fab.evicts.contains (tag, sec) then s
  else
    let rest := s.fab.behind.filter fun b => !(b.asid = tag && b.sec = sec)
    let c : HomeCopy := { asid := tag, sec := sec, bytes := (List.range 64).map fun i => byteIn s (homePlace s tag (sec + i)) }
    { s with fab := { s.fab with behind := rest ++ [c] } }

/-- A byte as its home itself holds it: while a cache holds a modified copy, or its write-back is in flight, what it held before (R394, R395). -/
def homeByte (s : State) (tag va : Nat) : Byte :=
  let sec := sectorOf va
  match s.fab.behind.find? fun b => b.asid = tag && b.sec = sec with
  | some b =>
    if dirtyCopy s tag sec || s.fab.evicts.contains (tag, sec) then b.bytes.getD (va % 64) 0 else byteIn s (homePlace s tag va)
  | none => byteIn s (homePlace s tag va)

/-- The lines that a cluster cache holds (R13), the oldest first: by ASID and VA, and a handoff line by its DPA under a number that is no
ASID. -/
def cacheLines (s : State) (cl : Nat) : List (Nat × Nat) :=
  let snooped : List (Nat × Nat) := (s.fab.copies.filter fun c => c.holder = cl).map fun c => (c.asid, c.sec / 256)
  let hand : List (Nat × Nat) := (s.hand.filter fun h => h.cluster = cl).map fun h => (2 ^ 14, h.dpa / 256)
  (snooped ++ hand).eraseDups

/-- The slice that holds a line (R13): one of twelve, by a choice of the implementation. -/
def sliceOf (l : Nat × Nat) : Nat := Config.slicePick (l.1 * 2 ^ 48 + l.2) % Config.slices

/-- The regions of broadcast windows (R89), by their keys. -/
def windowRegions (s : State) : List Nat := (s.xl.regions.filter fun x => eValid x.2.toNat && eKind x.2.toNat = 1).map (·.1)

/-- The lines that the windows' replicas take in the slice of a line, in every cluster alike (R89): 8,192 for each region. -/
def replicaLines (s : State) (l : Nat × Nat) : Nat :=
  (windowRegions s).foldl (fun n k =>
    n + ((List.range 8192).filter fun i => sliceOf (k / 2 ^ 35, k % 2 ^ 35 * 8192 + i) = sliceOf l).length) 0

/-- The line that leaves a full slice for one that comes in (R13): none while the slice has room or holds the line. Lines of the hint .strm
are the first (R145), and then the oldest; a handoff line leaves by its own eviction alone (R91) and a replica never (R89), so that where a slice
holds nothing else the line that has come in leaves at once. -/
def slotVictim (s : State) (cl : Nat) (l : Nat × Nat) : Option (Nat × Nat) :=
  if s.fab.copies.length + s.hand.length + 8192 * (windowRegions s).length < Config.sliceLines then none
  else
    let here := (cacheLines s cl).filter fun x => sliceOf x = sliceOf l
    if here.contains l || here.length + replicaLines s l < Config.sliceLines then none
    else
      let loose := here.filter fun x => x.1 ≠ 2 ^ 14
      some (((loose.find? fun x => s.fab.strm.contains (cl, x)).or loose.head?).getD l)

/-- Whether a line finds no place in a cluster's slice that lasts (R13): a stash is no slice. -/
def passesBy (s : State) (cl : Nat) (l : Nat × Nat) : Bool := decide (cl < 64) && decide (slotVictim s cl l = some l)

/-- The state with room in a cluster's slice for a line (R13): the four sectors of a victim are evicted. A stash is no slice. -/
def makeRoom (s : State) (cl : Nat) (l : Nat × Nat) : State :=
  if 64 ≤ cl then s
  else match slotVictim s cl l with
    | none => s
    | some v => (List.range 4).foldl (fun s i => evictCopy s cl v.1 (v.2 * 256 + 64 * i)) s

/-- A line of a cluster's cache noted as one of the first candidates for eviction, or as no such line any more (R145). -/
def noteStrm (s : State) (cl : Nat) (l : Nat × Nat) (strm : Bool) : State :=
  let rest := s.fab.strm.filter fun x => x ≠ (cl, l)
  { s with fab := { s.fab with strm := if strm then rest ++ [(cl, l)] else rest } }

/-- Whether a core's L1 holds a sector. -/
def inL1 (s : State) (core tag sec : Nat) : Bool := s.fab.l1.any fun x => x.core = core && x.asid = tag && x.sec = sec

/-- A sector in a core's L1, which holds 1,024 (R12, R88); the oldest leaves, a default one before one that is retained (R145). -/
def l1Fill (s : State) (core tag sec : Nat) (keep : Bool := false) : State :=
  let rest := s.fab.l1.filter fun x => !(x.core = core && x.asid = tag && x.sec = sec)
  let mine := rest.filter (·.core = core)
  let kept := if mine.length < Config.l1Sectors then rest
    else match (mine.find? (!·.keep)).or mine.head? with
      | some old => rest.erase old
      | none => rest
  { s with fab := { s.fab with l1 := kept ++ [{ core := core, asid := tag, sec := sec, keep := keep }] } }

/-- A copy whose line finds no place that lasts leaves at once (R13). -/
def settleCopy (s : State) (holder tag sec : Nat) (leaves : Bool) : State := if leaves then evictCopy s holder tag sec else s

/-- RD acted at its instant (R394): E when the home bits were clear, else S; M becomes O and E becomes S elsewhere. -/
def actRd (s : State) (holder tag sec : Nat) : State :=
  let leaves := passesBy s holder (tag, sec / 256)
  let s := useHome (makeRoom s holder (tag, sec / 256)) tag sec
  let hb := homeBits s tag sec
  let eToS := s.fab.copies.any fun c => c.asid = tag && c.sec = sec && c.holder ≠ holder && c.st = .E
  if !hb.1 && !hb.2 then settleCopy (setHome (setCopy s holder tag sec .E) tag sec true false) holder tag sec leaves
  else
    let s1 := mapCopies s tag sec (some holder) fun m => match m with | .M => .O | .E => .S | x => x
    let s2 := dropPaired s1 holder tag sec
    settleCopy (setHome (setCopy s2 holder tag sec .S) tag sec ((homeBits s2 tag sec).1 && !eToS) true) holder tag sec leaves

/-- RO acted at its instant (R394): M at the requester, I everywhere else. -/
def actRo (s : State) (holder tag sec : Nat) : State :=
  let leaves := passesBy s holder (tag, sec / 256)
  let s := noteHome (useHome (makeRoom s holder (tag, sec / 256)) tag sec) tag sec
  settleCopy (setHome (setCopy (mapCopies s tag sec (some holder) fun _ => .I) holder tag sec .M) tag sec true false) holder tag sec leaves

/-- UP acted at its instant; when the requester's copy did not survive it acts as an RO (R394, R396). Both end alike. -/
def actUp (s : State) (holder tag sec : Nat) : State := actRo s holder tag sec

/-- The state changes of a load that misses (R394); a hit changes nothing. -/
def touchRead (s : State) (w : Who) (va : Nat) : State :=
  let tag := tagOf w.asid va
  let h := holderFor s w va
  if !snooped (kindAt s tag va) then s
  else if copyState s h tag (sectorOf va) ≠ .I || owesData s h tag (sectorOf va) then s
  else actRd s h tag (sectorOf va)

/-- The state changes of a store (R394): RO from I, UP from S or O, none from E or M but the state. A holder that has lost the sector to a request
whose data it still owes applies its own writes first, without a message (R395). -/
def touchWrite (s : State) (w : Who) (va : Nat) : State :=
  let tag := tagOf w.asid va
  let h := holderFor s w va
  if !snooped (kindAt s tag va) then s
  else match copyState s h tag (sectorOf va) with
    | .I => if owesData s h tag (sectorOf va) then s else actRo s h tag (sectorOf va)
    | .S | .O => actUp s h tag (sectorOf va)
    | .E => setCopy (noteHome s tag (sectorOf va)) h tag (sectorOf va) .M
    | .M => s

/-- The handoff copy of a sector in a cluster (R91). -/
def handCopy (s : State) (cl sec : Nat) : Option HandCopy := s.hand.find? fun h => h.cluster = cl && h.dpa = sec

/-- The state with a handoff copy put in place of any that the cluster holds of the sector. -/
def setHand (s : State) (c : HandCopy) : State :=
  { s with hand := s.hand.filter (fun h => !(h.cluster = c.cluster && h.dpa = c.dpa)) ++ [c] }

/-- A handoff sector brought into a cluster's cache, clean, when it is not there (R91) and its line finds a place there (R13). -/
def handFill (s : State) (cl sec : Nat) : State :=
  match handCopy s cl sec with
  | some _ => s
  | none => if passesBy s cl (2 ^ 14, sec / 256) then s else setHand (makeRoom s cl (2 ^ 14, sec / 256)) { cluster := cl, dpa := sec, bytes := bytesAt s.mem sec 64, dirty := false }

/-- A handoff sector leaves a cluster's cache, written to DRAM first when it is modified (R91, R384). -/
def handEvict (s : State) (cl sec : Nat) : State :=
  match handCopy s cl sec with
  | none => s
  | some c =>
    let m := if c.dirty then setBytes s.mem sec c.bytes else s.mem
    { s with mem := m, hand := s.hand.filter fun h => !(h.cluster = cl && h.dpa = sec) }

/-- The value of a byte as a requester reads it at its home, its own buffered stores aside (R87). -/
def readByte (s : State) (w : Who) (va : Nat) : Byte :=
  let tag := tagOf w.asid va
  let x := whereIs s w.domain tag va
  match x with
  | .dram p =>
    if kindAt s tag va = 3 then
      match handCopy s w.cluster (sectorOf p) with
      | some c => c.bytes.getD (p % 64) 0
      | none => byteAt s.mem p
    else byteIn s x
  | _ => byteIn s x

/-- The state with a byte performed for a requester (R87): into its cluster's cache for a handoff region, or to DRAM where the sector finds no
place there (R13), and else for every agent; the page becomes dirty. -/
def writeByte (s : State) (w : Who) (va : Nat) (b : Byte) : State :=
  let tag := tagOf w.asid va
  let x := whereIs s w.domain tag va
  match x with
  | .dram p =>
    let s1 := markDirty s tag va
    if kindAt s tag va = 3 then
      let s2 := handFill s1 w.cluster (sectorOf p)
      match handCopy s2 w.cluster (sectorOf p) with
      | some c => setHand s2 { c with bytes := c.bytes.set (p % 64) b, dirty := true }
      | none => byteInto s2 x b
    else byteInto s1 x b
  | _ => byteInto (markDirty s tag va) x b

/-- `n` bytes read one by one. -/
def readBytes (s : State) (w : Who) : Nat → Nat → List Byte
  | _, 0 => []
  | va, n + 1 => readByte s w va :: readBytes s w (va + 1) n

/-- Bytes performed one by one. -/
def writeBytes (s : State) (w : Who) : Nat → List Byte → State
  | _, [] => s
  | va, b :: bs => writeBytes (writeByte s w va b) w (va + 1) bs

/-- Whether every page that `n` bytes touch is present at its home for a requester. -/
def presentFrom (s : State) (w : Who) (last : Nat) : Nat → Nat → Bool
  | 0, _ => true
  | fuel + 1, va =>
    if last < va then true
    else if whereIs s w.domain (tagOf w.asid va) va = .absent then false
    else presentFrom s w last fuel ((va / 4096 + 1) * 4096)

/-- Whether every byte of a range is present. -/
def present (s : State) (w : Who) (va n : Nat) : Bool :=
  if n = 0 then true else presentFrom s w (va + n - 1) ((va + n - 1) / 4096 - va / 4096 + 1) va

/-- The gate of a range: a page that is not present first, then any sector that must wait. -/
def gateRangeFrom (s : State) (w : Who) (last : Nat) : Nat → Nat → Gate
  | 0, _ => .go
  | fuel + 1, va =>
    if last < va then .go
    else match gateAt s w va with
      | .go => gateRangeFrom s w last fuel (sectorOf va + 64)
      | g => g

/-- The gate of a range of bytes. -/
def gateRange (s : State) (w : Who) (va n : Nat) : Gate :=
  if n = 0 then .go else gateRangeFrom s w (va + n - 1) ((va + n - 1) / 64 - va / 64 + 1) va

/-- The hardware acting with supervisor authority for a domain in an ASID (R335, R354, R380), for a team or for none; it reaches a handoff
line through cluster 0's cache (R91; assumption log 105). -/
def hwWho (dom asid : Nat) (team : Nat := 0) : Who := { core := 0, domain := dom, asid := asid, sup := true, team := team }

/-- The first bytes of the 64 B sectors that `n` bytes touch. -/
def sectorsOf (va n : Nat) : List Nat :=
  if n = 0 then [] else (List.range ((va + n - 1) / 64 - va / 64 + 1)).map fun k => sectorOf va + 64 * k

/-- Whether the home of some sector of a range lets an access wait. -/
def gateWaits (s : State) (w : Who) (va n : Nat) : Bool := (sectorsOf va n).any fun x => decide (gateAt s w x = .wait)

/-- The requests that an access of a range sends as it waits. -/
def askGates (s : State) (w : Who) (va n : Nat) : State := (sectorsOf va n).foldl (fun s x => askGate s w x) s

/-- The requester of a posted write. -/
def Posted.who (p : Posted) : Who := hwWho p.domain p.asid p.team

/-- Whether a posted write stands before another: it is the same agent's, whose writes keep their order, or writes one of its sectors. -/
def Posted.before (p q : Posted) : Bool :=
  (p.team = q.team && p.domain = q.domain && p.asid = q.asid)
    || (sectorsOf p.va p.bytes.length).any fun x => tagOf p.asid x = tagOf q.asid x && (sectorsOf q.va q.bytes.length).contains x

/-- The far sectors that the hardware has written, and of which no cache holds a copy, written through their adapters (R419). -/
def settleFar (s : State) (p : Posted) : State :=
  if !s.xl.pages.any (·.far.isSome) then s
  else (sectorsOf p.va p.bytes.length).foldl (fun s x =>
    let tag := tagOf p.asid x
    if s.fab.copies.any fun c => c.asid = tag && c.sec = x then s else useHome (writeHome s tag x) tag x) s

/-- A write of the hardware: made now where its home lets it through, and else it waits there, behind those that wait before it (R116, R420,
R422, R423). A byte on an absent page is not written. -/
def hwPost (s : State) (p : Posted) : State :=
  if s.posted.any (·.before p) || gateWaits s p.who p.va p.bytes.length then
    askGates { s with posted := s.posted ++ [p] } p.who p.va p.bytes.length
  else settleFar (writeBytes s p.who p.va p.bytes) p

/-- The waiting writes of the hardware made as far as their homes let them through, in order. -/
def settlePosted (s : State) : State :=
  if s.posted.isEmpty then s else s.posted.foldl hwPost { s with posted := [] }

/-- Bytes written by the hardware with supervisor authority. -/
def hwWrite (s : State) (dom asid va : Nat) (bs : List Byte) : State :=
  hwPost s { team := 0, domain := dom, asid := asid, va := va, bytes := bs }

/-- The byte that the hardware has written at a VA and that waits at its home. -/
def postedByte (s : State) (tag va : Nat) : Option Byte :=
  s.posted.foldl (fun r p => if tagOf p.asid va = tag && p.va ≤ va && va < p.va + p.bytes.length then p.bytes[va - p.va]? else r) none

/-- Bytes read by the hardware with supervisor authority, with its own writes that wait; a byte on an absent page reads 0. -/
def hwRead (s : State) (dom asid va n : Nat) : List Byte :=
  let bs := readBytes s (hwWho dom asid) va n
  if s.posted.isEmpty then bs
  else (List.range n).map fun i => (postedByte s (tagOf asid (va + i)) (va + i)).getD (bs.getD i 0)

end Sys2Proof.Machine
end

