-- ==== Sys2Proof/Machine/Requests.lean ====
section
/-! DEFINITION. Group requests on their way out of a module (R304, R408, R414), and what a team or a copy waits for (R184, R290). -/

namespace Sys2Proof.Machine

/-- Remote issue is sealed: LINK.state is 1 to 3 (R414). -/
def sealed (s : State) : Bool := 1 ≤ s.link.state.toNat && s.link.state.toNat ≤ 3

/-- The state with a bound group's record replaced. -/
def setGroup (s : State) (r : Group) : State :=
  { s with link := { s.link with groups := s.link.groups.map fun x => if x.number = r.number && x.state ≠ 2 then r else x } }

/-- Whether a group's requests may be numbered now: it is bound and not in error, fewer than 4,096 have no stamp reply (R408), and remote issue is
not sealed unless the root is this module (R414). -/
def mayNumber (s : State) (r : Group) : Bool :=
  r.state = 0 && decide (r.outstanding.length < Config.groupWindow) && (!sealed s || r.root = s.link.moduleId)

/-- A request on its way up the tree (R410): it leaves for the parent, and at the root it is stamped. -/
def climb (s : State) (r : Group) (q : GroupReq) : State :=
  let s1 := { s with link := { s.link with requests := s.link.requests ++ [q] } }
  if r.root = s.link.moduleId then s1 else transmit s1 r.parent (.request q)

/-- The waiting requests of a group numbered in order and sent, as far as R408 lets them (R304). -/
def pumpGroup (g : Nat) : Nat → State → State
  | 0, s => s
  | n + 1, s =>
    match groupOf s g with
    | none => s
    | some r =>
      match r.waiting with
      | [] => s
      | q :: rest =>
        if mayNumber s r then
          let q1 := { q with number := r.nextNumber }
          let r1 := { r with
            waiting := rest, nextNumber := r.nextNumber + 1, outstanding := r.outstanding ++ [(q1, 0)]
            unapplied := r.unapplied ++ [(q1.number, q1.team)] }
          let s1 := setGroup s r1
          pumpGroup g n (climb s1 r q1)
        else s

/-- Every group's waiting requests sent as far as they may go. -/
def pumpAll (s : State) : State := s.link.groups.foldl (fun s r => pumpGroup r.number (r.waiting.length + 1) s) s

/-- A store or an atomic of a group window leaves as a group request (R90, R304); a group that is not bound here takes none. -/
def groupSend (s : State) (g team asid : Nat) (op : GroupOp) : State :=
  match groupOf s g with
  | none => s
  | some r =>
    let q : GroupReq := { group := g, src := s.link.moduleId, number := 0, team := team, asid := asid, op := op }
    pumpGroup g (r.waiting.length + 1) (setGroup s { r with waiting := r.waiting ++ [q] })

/-- Whether a group's requests can leave a core or an engine now: issue stalls behind a request that waits for its number (R408, R414). -/
def groupFree (s : State) (g : Nat) : Bool :=
  match groupOf s g with
  | some r => r.state = 1 || r.waiting.isEmpty
  | none => true

/-- Whether a group holds a request of a team, or of a copy under its tag, that the local replica does not have yet. -/
def groupOwes (r : Group) (team : Nat) : Bool := r.waiting.any (·.team = team) || r.unapplied.any (·.2 = team)

/-- Whether some group in good order owes a team the application of a write. -/
def owedBy (s : State) (team : Nat) : Bool := s.link.groups.any fun r => r.state ≠ 1 && groupOwes r team

/-- A group in error that owes a team the application of a write (R184, R295). -/
def owedInError (s : State) (team : Nat) : Option Nat :=
  (s.link.groups.find? fun r => r.state = 1 && groupOwes r team).map (·.number)

/-- The tag under which a copy's group requests go, apart from every team's handle (R290, R304). -/
def copyTag (id : Nat) : Nat := 2 ^ 64 + id

/-- The group number of the window at a VA. -/
def groupAt (s : State) (tag va : Nat) : Nat := eGroup (tableEntry s tag va)

end Sys2Proof.Machine
end

