-- ==== Sys2Proof/Machine/Buffer.lean ====
section
/-! DEFINITION. The late-fault store buffers (R352): retiring, draining, holding, the release marks (R116), the deferred
fault records (R354, R355), and the loads that read through a team's own stores (R104, R120). -/

namespace Sys2Proof.Machine

/-- The team of a handle. -/
def teamOf (s : State) (h : Nat) : Option Team := (s.team :: s.others).find? (·.card.handle = h)

/-- The state with the team of a handle changed. -/
def updTeam (s : State) (h : Nat) (f : Team → Team) : State :=
  let one (t : Team) : Team := if t.card.handle = h then f t else t
  { s with team := one s.team, others := s.others.map one }

/-- The state with the focus team changed. -/
def setTeam (s : State) (t : Team) : State := { s with team := t }

/-- A stop noted for a team's next boundary (R360). -/
def noteStop (s : State) (h : Nat) (st : Stop) : State :=
  updTeam s h fun t => { t with ord := { t.ord with stops := t.ord.stops ++ [st] } }

/-- The domain in which a team's fault area and image are reached. -/
def teamDomain (s : State) (t : Team) : Nat := (clusterRec s t.place.cluster).domain

/-- Bytes written by the hardware for a team in the global range, as records and context images are (R335, R354); the team's own marks do not
keep them. -/
def teamWrite (s : State) (t : Team) (va : Nat) (bs : List Byte) : State :=
  hwPost s { team := t.card.handle, domain := teamDomain s t, asid := 0, va := va, bytes := bs }

/-- Whether the hardware's access of some bytes of the global range for a team waits at their home. -/
def teamWaits (s : State) (t : Team) (va n : Nat) : Bool := gateWaits s (hwWho (teamDomain s t) 0 t.card.handle) va n

/-- The valid bit of the control word in a slot of a team's fault area (R354, R362). -/
def slotValid (s : State) (t : Team) (k : Nat) : Bool :=
  bit ((hwRead s (teamDomain s t) 0 (t.card.fault + 64 * k + 7) 1).headD 0).toNat 7

/-- Whether a slot of a team's fault area is free: its valid bit is 0, or for an inner slot of a four-slot record that of the record's
first slot, which frees every slot of it (R354, R362); a slot that must wait at its home is none (R116). -/
def slotFree (s : State) (t : Team) (k : Nat) : Bool :=
  !teamWaits s t (t.card.fault + 64 * k) 64
    && match t.ord.inner.find? fun x => x.1 = k with
      | some x => decide (64 ≤ x.2) || !slotValid s t x.2
      | none => !slotValid s t k

/-- Whether a team's fault area lies where R354 lets it and its page is present; a record has no slot in any other (assumption log 74). -/
def areaOk (s : State) (t : Team) : Bool :=
  let va := t.card.fault
  let e := tableEntry s 0 va
  va % 4096 = 0 && bits va 52 4 = 15 && decide (va < 2 ^ 56) && eValid e && eKind e = 0 && eGdom e = teamDomain s t && bit e 1 && bit e 2
    && present s (hwWho (teamDomain s t) 0) va 4096

/-- The lowest slot from which `n` slots in a row are free (R354, R362). -/
def freeSlots (s : State) (t : Team) (n : Nat) : Option Nat :=
  if areaOk s t then (List.range (65 - n)).find? fun k => (List.range n).all fun j => slotFree s t (k + j) else none

/-- The inner slots of the records of a fault area once a record of `n` slots stands from slot `k` up: slots of a record whose first slot
is written over have no first slot any more (64). -/
def innerAfter (old : List (Nat × Nat)) (k n : Nat) : List (Nat × Nat) :=
  let out (x : Nat) : Bool := decide (x < k) || decide (k + n ≤ x)
  ((old.filter fun x => out x.1).map fun x => (x.1, if out x.2 then x.2 else 64)) ++ (List.range (n - 1)).map fun j => (k + 1 + j, k)

/-- A record of 64 B slots written from slot `k` up: the control word comes last (R354, R362). -/
def putSlots (s : State) (t : Team) (k : Nat) (bs : List Byte) : State :=
  let va := t.card.fault + 64 * k
  updTeam (teamWrite (teamWrite s t (va + 8) (bs.drop 8)) t va (bs.take 8)) t.card.handle fun t =>
    { t with ord := { t.ord with inner := innerAfter t.ord.inner k (bs.length / 64) } }

/-- What a deferred fault record tells (R355). -/
structure Defer where
  kind : Nat
  source : Nat
  access : Nat
  lane : Bool := false
  pass : Nat := 0
  lanes : Nat := 0
  va : Nat
  asid : Nat
  count : Nat := 0
  detail : Nat := 0
  iva : Nat := 0
  seq : Nat := 0
deriving DecidableEq, Repr

/-- The 64 bytes of a deferred fault record (R355). -/
def deferBytes (d : Defer) : List Byte :=
  toBytes 8 (2 ^ 63 + d.kind * 2 ^ 48 + d.source * 2 ^ 44 + d.access * 2 ^ 42 + b2n d.lane * 2 ^ 41 + d.pass * 2 ^ 35
    + (if d.lane then d.lanes % 2 ^ 32 else 0))
    ++ toBytes 8 (d.va % 2 ^ 56) ++ toBytes 2 d.asid ++ toBytes 2 d.count ++ toBytes 4 d.detail ++ toBytes 8 d.iva
    ++ toBytes 8 d.seq ++ List.replicate 24 0

/-- The bytes of a context image in which a team's records without a slot are kept (R354): their number, and 256 B for each
(assumption log 6). -/
def keptBytes (ks : List (List Byte)) : List Byte :=
  (toBytes 8 ks.length ++ toBytes 8 0 ++ (ks.take 7).flatMap (fit 256)) ++ List.replicate (256 * (7 - ks.length)) 0

/-- The kept records of a team that is not resident stand in its context image as they are (R354). -/
def putKeptImage (s : State) (h : Nat) : State :=
  match teamOf s h with
  | some t =>
    if t.place.run = 2 || t.place.run = 3 then
      teamWrite s t (t.card.handle + Config.keptOffset) (keptBytes t.ord.kept)
    else s
  | none => s

/-- A team's records without a slot, replaced (R354). -/
def setKept (s : State) (h : Nat) (ks : List (List Byte)) : State :=
  putKeptImage (updTeam s h fun t => { t with ord := { t.ord with kept := ks } }) h

/-- Whether a record is the deferred record of a team for the entries of a page that are held now: that of the first of them (R354). -/
def keptFor (t : Team) (tag page : Nat) (bs : List Byte) : Bool :=
  bit (field bs 0 8) 63 && !bit (field bs 0 8) 61 && t.ord.recs.contains (tag, page, field bs 0x20 8)
    && decide (field bs 8 8 / 65536 = page) && decide (field bs 0x10 2 = tag)

/-- The record of a page's held entries is from now on that of an entry (R354). -/
def noteRecord (s : State) (h tag page seq : Nat) : State :=
  updTeam s h fun t => { t with ord := { t.ord with
    recs := t.ord.recs.filter (fun x => !(x.1 = tag && x.2.1 = page)) ++ [(tag, page, seq)] } }

/-- A deferred fault record written to the lowest free slot of a team's fault area; with no free slot the record is kept
and the team is to halt with the fault-area-full cause (R354). -/
def putDefer (s : State) (h : Nat) (d : Defer) : State :=
  match teamOf s h with
  | none => s
  | some t =>
    match freeSlots s t 1 with
    | some k => putSlots s t k (deferBytes d)
    | none =>
      noteStop (setKept s h (t.ord.kept ++ [deferBytes d])) h { cause := 0x1C }

/-- The slot of a team's fault area that holds the valid deferred record of a page's held entries. -/
def deferSlot (s : State) (t : Team) (tag page : Nat) : Option Nat :=
  if areaOk s t then
    (List.range 64).find? fun k =>
      !(t.ord.inner.any fun x => x.1 = k) && keptFor t tag page (hwRead s (teamDomain s t) 0 (t.card.fault + 64 * k) 64)
  else none

/-- The held entries of a team on a page. -/
def heldOn (s : State) (h tag page : Nat) : List SbEntry :=
  s.sb.filter fun e => e.held && e.team = h && e.asid = tag && e.sector / 65536 = page

/-- A deferred record with its count, and with suppressed set when no held entry is left of a discarded page (R355, R358). -/
def countedRecord (n : Nat) (suppress : Bool) (bs : List Byte) : List Byte :=
  let top := field bs 7 1
  let top1 := if suppress && n = 0 && !bit top 6 then top + 64 else top
  bs.take 7 ++ toBytes 1 top1 ++ (bs.drop 8).take 10 ++ toBytes 2 n ++ bs.drop 20

/-- The record of a page's held entries brought up to date where it waits for a slot (R354, R358). -/
def recountKept (s : State) (t : Team) (tag page n : Nat) (suppress : Bool) : State :=
  if t.ord.kept.any (keptFor t tag page) then
    setKept s t.card.handle (t.ord.kept.map fun b => if keptFor t tag page b then countedRecord n suppress b else b)
  else s

/-- The record of a page's held entries brought up to date: its count (R355), and suppressed when none is left (R358). -/
def recount (s : State) (h tag page : Nat) (suppress : Bool) : State :=
  match teamOf s h with
  | none => s
  | some t =>
    match deferSlot s t tag page with
    | none => recountKept s t tag page (heldOn s h tag page).length suppress
    | some k =>
      let va := t.card.fault + 64 * k
      let n := (heldOn s h tag page).length
      let s1 := teamWrite s t (va + 0x12) (toBytes 2 n)
      if suppress && n = 0 then
        let top := ((hwRead s1 (teamDomain s t) 0 (va + 7) 1).headD 0).toNat
        teamWrite s1 t (va + 7) (toBytes 1 (if bit top 6 then top else top + 64))
      else s1

/-- The first byte that an entry writes. -/
def entryVa (e : SbEntry) : Nat := e.sector + (e.bytes.map (·.1)).foldl min 63

/-- The state with entries of the buffers rewritten. -/
def mapSb (s : State) (f : SbEntry → SbEntry) : State := { s with sb := s.sb.map f }

/-- Whether an entry is of the same team as another and on its 64 KiB page. -/
def samePage (e x : SbEntry) : Bool := x.team = e.team && x.asid = e.asid && x.sector / 65536 = e.sector / 65536

/-- An entry and the later ones of its team on its page held (R119, R352). -/
def holdFrom (e : SbEntry) : List SbEntry → List SbEntry
  | [] => []
  | x :: xs => if x = e then { x with held := true } :: xs.map (fun y => if samePage e y then { y with held := true } else y)
      else x :: holdFrom e xs

/-- Whether a store of a team with some sequence number is covered by a write that it has pending as a release (R116, R117); an atomic
that waits meets the held store itself. -/
def releasePending (s : State) (h seq : Nat) : Bool := s.sb.any fun x => x.team = h && decide (seq < x.covers) && !x.bytes.isEmpty

/-- A pending release that covers a held store stops its team with the deferred-fault cause (R117, R353), once; a store that a replay has
held again stops it as the replay ends (R364). -/
def releaseStop (s : State) (e : SbEntry) (va : Nat) : State :=
  let due (t : Team) : Bool := t.ord.replay.isSome || (t.ord.stops ++ t.ord.later).any fun x => x.cause = 0x14 && x.va = va
  match teamOf s e.team with
  | some t =>
    if releasePending s e.team e.seq && !due t then noteStop s e.team { cause := 0x14, va := va, iva := e.iva, word := e.code } else s
  | none => s

/-- An entry meets a translation fault: it is held with every later entry of its team on its 64 KiB page (R352, R119), the first held
entry of the page writes a record (R354), and a pending release that covers it stops the team (R117). -/
def holdEntry (s : State) (e : SbEntry) : State :=
  let page := e.sector / 65536
  let fresh := (heldOn s e.team e.asid page).isEmpty
  let s1 := releaseStop { s with sb := holdFrom e s.sb } e (entryVa e)
  if fresh then
    putDefer (noteRecord s1 e.team e.asid page e.seq) e.team
      { kind := 1, source := e.source, access := e.access, lane := e.lane, pass := e.pass, lanes := e.lanes.toNat, va := entryVa e
        asid := e.asid, count := (heldOn s1 e.team e.asid page).length, detail := e.detail, iva := e.iva, seq := e.seq }
  else recount s1 e.team e.asid page false

/-- The requester of a buffered store. -/
def entryWho (s : State) (e : SbEntry) : Who where
  core := e.core
  domain := (clusterRec s (e.core / 16)).domain
  asid := e.asid
  sup := true
  team := e.team
  engine := e.source = 4

/-- Whether every store that a release entry covers has been performed (R116), group stores by their local application (R87). -/
def releaseReady (s : State) (e : SbEntry) : Bool :=
  e.covers = 0 || (!(s.sb.any fun x => x.team = e.team && decide (x.seq < e.covers)) && !owedBy s e.team)

/-- The line of a cluster's cache that an access reaches: by ASID and VA, and in a handoff region by its DPA. -/
def lineFor (s : State) (w : Who) (va : Nat) : Nat × Nat :=
  let tag := tagOf w.asid va
  match whereIs s w.domain tag va with
  | .dram p => if kindAt s tag va = 3 then (2 ^ 14, p / 256) else (tag, va / 256)
  | _ => (tag, va / 256)

/-- An access of a cluster's cache, that of a stash aside, notes whether its line is one of the first to leave the slice (R145). -/
def hintLine (s : State) (w : Who) (va : Nat) (strm : Bool) : State :=
  if holderFor s w va = w.cluster then noteStrm s w.cluster (lineFor s w va) strm else s

/-- An entry is performed and leaves the buffer (R352). -/
def perform (s : State) (e : SbEntry) : State :=
  let w := entryWho s e
  let s1 := hintLine (touchWrite { s with sb := s.sb.erase e } w e.sector) w e.sector e.strm
  e.bytes.foldl (fun s b => writeByte s w (e.sector + b.1) b.2) s1

/-- Whether an earlier entry of the same team that has not left holds bytes of the same sector (R104); two entries of one lane instruction
may leave in either order (R105). -/
def blockedBy (e : SbEntry) : List SbEntry → Bool
  | [] => false
  | x :: xs =>
    if x = e then false
    else (x.team = e.team && x.asid = e.asid && x.sector = e.sector && !x.sent && (x.word = 0 || x.word ≠ e.word)) || blockedBy e xs

/-- Whether a held entry of the same team on the same page stands before an entry, which is then held with it (R119). -/
def behindHeld (e : SbEntry) : List SbEntry → Bool
  | [] => false
  | x :: xs => if x = e then false else (x.held && samePage e x) || behindHeld e xs

/-- The marked entries whose covered stores have all been performed, and which nothing keeps from their places, are performed in turn, and
their marks end (R116). -/
def settleMarks : Nat → State → State
  | 0, s => s
  | n + 1, s =>
    match s.sb.find? (fun e => e.marked && !e.held && releaseReady s e && !blockedBy e s.sb
        && (e.bytes.isEmpty || decide (gateAt s (entryWho s e) e.sector = .go))) with
    | none => s
    | some e => settleMarks n (perform s e)

/-- The marked entries that nothing keeps any more are performed, and then the hardware's writes that waited at their marks (R116). -/
def settleBuffer (s : State) : State := settlePosted (settleMarks s.sb.length s)

/-- An entry is performed, then what waited for it. -/
def performAll (s : State) (e : SbEntry) : State := settleBuffer (perform s e)

/-- Whether a group store may leave: the stores that a fence places before it are performed (R116), and no earlier store of its
team to a group window stands before it (R124); after a fence no other group owes the team an application (R114). Group stores of the team that are on their way are stamped before it. -/
def sendReady (s : State) (e : SbEntry) : Bool :=
  !(s.sb.any fun x => x.team = e.team && !x.sent && decide (x.seq < e.seq)
      && (decide (x.seq < e.covers) || kindAt s x.asid x.sector = 2))
    && (e.covers = 0
      || !s.link.groups.any fun r => r.number ≠ groupAt s e.asid e.sector && r.state ≠ 1 && groupOwes r e.team)

/-- A group store leaves as a group request (R90, R304); its entry stays until the store has been applied here, which performs it (R87,
R352); one whose group is in error, or not bound here any more, is never applied and leaves at once (R295). -/
def sendEntry (s : State) (e : SbEntry) : State :=
  let g := groupAt s e.asid e.sector
  let bad : Bool := match groupOf s g with
    | some r => r.state = 1
    | none => true
  let s1 := if bad then { s with sb := s.sb.erase e } else mapSb s fun x => if x = e then { x with sent := true } else x
  groupSend s1 g e.team e.asid (.store (e.bytes.map fun b => (e.sector + b.1, b.2)))

/-- A group store of a team has been applied here: its entry, the oldest of that team that has left for the group with those bytes, leaves
the buffer (R87, R352). -/
def groupPerformed (s : State) (team asid : Nat) (bytes : List (Nat × Byte)) : State :=
  let is (e : SbEntry) : Bool := e.sent && e.team = team && e.asid = asid && (e.bytes.map fun b => (e.sector + b.1, b.2)) = bytes
  match s.sb.find? is with
  | some e => { s with sb := s.sb.erase e }
  | none => s

/-- One entry drains (R352): held on a translation fault, waiting at a gate, marked release-pending while stores that it
covers are not performed (R116), and else performed. -/
def drainEntry (s : State) (e : SbEntry) : State :=
  if e.held || e.sent || blockedBy e s.sb then s
  else if e.bytes.isEmpty then (if releaseReady s e then performAll s e else s)
  else if behindHeld e s.sb then holdEntry s e
  else match gateAt s (entryWho s e) e.sector with
    | .absent => holdEntry s e
    | .wait => askGate s (entryWho s e) e.sector
    | .go =>
      if kindAt s e.asid e.sector = 2 then (if sendReady s e && groupFree s (groupAt s e.asid e.sector) then sendEntry s e else s)
      else if releaseReady s e then performAll s e
      else if e.marked then s
      else touchWrite (mapSb s fun x => if x = e then { x with marked := true } else x) (entryWho s e) e.sector

/-- Every entry that a test picks is drained, oldest first. -/
def drainFrom (pick : SbEntry → Bool) : Nat → Nat → State → State
  | 0, _, s => s
  | n + 1, i, s =>
    match s.sb[i]? with
    | none => s
    | some e =>
      if pick e then
        let s1 := drainEntry s e
        if s1.sb.length < s.sb.length then drainFrom pick n i s1 else drainFrom pick n (i + 1) s1
      else drainFrom pick n (i + 1) s

/-- Every entry of a team is drained as far as it goes. -/
def drainTeam (s : State) (h : Nat) : State := drainFrom (fun e => e.team = h) s.sb.length 0 s

/-- Whether a team has entries in its buffer. -/
def hasStores (s : State) (h : Nat) : Bool := s.sb.any fun e => e.team = h
/-- Whether a team has a held entry. -/
def hasHeld (s : State) (h : Nat) : Bool := s.sb.any fun e => e.team = h && e.held

/-- What waiting for all of a team's stores comes to: performed, still waiting, or stopped by a held store (R118, R353). -/
inductive Flush where
  | done (s : State)
  | wait (s : State)
  | held (s : State)
deriving DecidableEq, Repr

/-- A wait for every store of a team to be performed. -/
def flushTeam (s : State) (h : Nat) : Flush :=
  let s1 := drainTeam s h
  if hasHeld s1 h then .held s1 else if hasStores s1 h || owedBy s1 h then .wait s1 else .done s1

/-- Held entries of a team and every later entry of it are dropped (R357), but for group stores that have left, which are applied in any
case (R367); agents that wait at its marks then go on. -/
def dropFromHeld (h : Nat) : Bool → List SbEntry → List SbEntry
  | _, [] => []
  | seen, e :: es =>
    if e.team = h && !e.sent then
      if seen || e.held then dropFromHeld h true es else e :: dropFromHeld h false es
    else e :: dropFromHeld h seen es

/-- The state with a team's held and later stores dropped (R357). -/
def dropHeld (s : State) (h : Nat) : State := { s with sb := dropFromHeld h false s.sb }

/-- The latest own store to a byte, and whether it is held; a group store is not seen until it is applied (R90, R125). -/
def ownByte (s : State) (w : Who) (va : Nat) : Option (Byte × Bool) :=
  if kindAt s (tagOf w.asid va) va = 2 then none
  else s.sb.foldl (fun r e =>
    if e.team = w.team && e.asid = tagOf w.asid va && e.sector = sectorOf va then
      match e.bytes.find? (fun b => b.1 = va % 64) with
      | some b => some (b.2, e.held)
      | none => r
    else r) none

/-- What a load of some bytes comes to. -/
inductive Got where
  | value (v : Nat)
  | wait
  | absent
  | held
deriving DecidableEq, Repr

/-- A load of `n` bytes within one sector by a team: own stores first (R104, R120), then the location (R350). -/
def loadGot (s : State) (w : Who) (va n : Nat) : Got :=
  let own := (List.range n).map fun i => ownByte s w (va + i)
  if own.any (fun o => match o with | some (_, true) => true | _ => false) then .held
  else if own.all (·.isSome) then .value (ofBytes (own.map fun o => match o with | some (b, _) => b | none => 0))
  else match gateAt s w va with
    | .absent => .absent
    | .wait => .wait
    | .go => .value (ofBytes ((List.range n).map fun i =>
        match ownByte s w (va + i) with
        | some (b, _) => b
        | none => readByte s w (va + i)))

/-- A load of `n` bytes over any number of sectors: the bytes, or the first thing that keeps it from them. -/
def loadBytes (s : State) (w : Who) : Nat → Nat → Except Got (List Byte)
  | _, 0 => .ok []
  | va, n + 1 =>
    match loadGot s w va 1 with
    | .value v =>
      match loadBytes s w (va + 1) n with
      | .ok bs => .ok (BitVec.ofNat 8 v :: bs)
      | .error g => .error g
    | g => .error g

/-- The state changes that a load makes in the caches (R394, R91, R13): one that misses in the core's L1 goes to the cluster's cache. The
cache hint (R145) lets its sector come into the L1 (0, 2), retained there by 2, lets it miss there (3), and notes its line as one of the first to
leave the slice (1); an access that a stash serves reaches neither (R13, R97). -/
def afterLoad (s : State) (w : Who) (va : Nat) (hint : Nat := 0) : State :=
  let tag := tagOf w.asid va
  let sec := sectorOf va
  if holderFor s w va ≠ w.cluster then touchRead s w va
  else
    let hit := hint ≠ 3 && inL1 s w.core tag sec && kindAt s tag va ≠ 3
    let s1 := if hint = 0 || hint = 2 then l1Fill s w.core tag sec (hint = 2) else s
    if hit then s1
    else
      let s2 := noteStrm s1 w.cluster (lineFor s w va) (hint = 1)
      match whereIs s w.domain tag va with
      | .dram p => if kindAt s tag va = 3 then handFill s2 w.cluster (sectorOf p) else touchRead s2 w va
      | _ => touchRead s2 w va

/-- Entries of a team's share of its core's buffer (R352); the mark of an atomic that waits holds no write data and is none. -/
def teamShare (s : State) (h : Nat) : Nat := (s.sb.filter fun e => e.team = h && !e.bytes.isEmpty).length
/-- Entries of a core's buffer (R352). -/
def coreShare (s : State) (c : Nat) : Nat := (s.sb.filter fun e => e.core = c && !e.bytes.isEmpty).length

/-- What a store that needs `k` entries meets (R352, R353): room, a wait, or the stop of a full share with a held entry. -/
inductive Room where
  | ok
  | wait
  | held
deriving DecidableEq, Repr

/-- Whether `k` entries are free for a team of a core. -/
def roomFor (s : State) (w : Who) (k : Nat) : Room :=
  if teamShare s w.team + k ≤ Config.teamEntries && coreShare s w.core + k ≤ Config.bufferEntries then .ok
  else if hasHeld s w.team && Config.teamEntries < teamShare s w.team + k then .held
  else .wait

/-- Entries appended to the buffer; one whose page already holds a held entry of the team is held with it (R119). A relaxed store over a held
store that a fence has covered stops nobody: it stays pending, and R353 has no point there. -/
def pushEntries (s : State) (es : List SbEntry) : State :=
  es.foldl (fun s e =>
    let s1 := { s with sb := s.sb ++ [e] }
    if (heldOn s e.team e.asid (e.sector / 65536)).isEmpty then s1 else holdEntry s1 e) s

/-- What the stores that a release fence of the focus team covers let a local write of its crew do (R95, R108): its crewmates would see it,
and it waits until they are performed, and stops at one that is held (R116, R353). A team alone has nobody to see it. -/
def crewCover (s : State) : Room :=
  let t := s.team
  let covered (e : SbEntry) : Bool := e.team = t.card.handle && decide (e.seq < t.ord.cover)
  if t.card.crew ≤ 1 || t.ord.cover = 0 then .ok
  else if s.sb.any fun e => covered e && e.held then .held
  else if s.sb.any covered || owedBy s t.card.handle then .wait
  else .ok

end Sys2Proof.Machine
end

