-- ==== Sys2Proof/Machine/Levels.lean ====
section
/-! DEFINITION. The levels of work and their completion counters: done counts, failure, cancellation and the counter words
in memory (R33 to R38, R388). -/

namespace Sys2Proof.Machine

/-- The level of a number. -/
def levelRec (s : State) (id : Nat) : Option Level := s.sched.levels.find? (·.id = id)

/-- The completion counter word (R36). -/
def counterWord (l : Level) : Nat := l.state * 2 ^ 60 + l.total % 2 ^ 28 * 2 ^ 28 + l.done % 2 ^ 28

/-- The domain of a cluster's queues; those of a cluster that is in no domain, lost at bring-up (R436), are in domain 0, where bring-up puts
every other (assumption log 104). -/
def zoneOf (s : State) (cl : Nat) : Nat := if (clusterRec s cl).domain < 8 then (clusterRec s cl).domain else 0

/-- The domain in which an ASID's VAs are reached; the global range is reached in the domain of cluster 0's queue job. -/
def asidDom (s : State) (asid : Nat) : Nat :=
  match asidDomain s asid with
  | some d => d
  | none => zoneOf s 0

/-- The job of a level. -/
def jobOf (s : State) (l : Level) : Nat :=
  let up (l : Option Level) : Option Level := l.bind fun x => levelRec s x.parent
  match l.kind with
  | 0 => ((up (up (up (some l)))).map (·.id)).getD 0
  | 1 => ((up (up (some l))).map (·.id)).getD 0
  | 2 => l.parent
  | _ => l.id

/-- Whether the counter VA of a level is one to which its creator may write (R2, R84, R376): 8 B aligned, in a region of its domain that holds
W and is no group window, and is sup only for a job, which a command makes, and for the levels of a supervisor queue. The manual states no
outcome for any other VA, and the model writes no counter word there (assumption log 106). -/
def counterOk (s : State) (l : Level) : Bool :=
  let tag := tagOf l.asid l.va
  let e := tableEntry s tag l.va
  l.va % 8 = 0 && decide (l.va < 2 ^ 56) && !inAperture l.va && eValid e && eKind e ≠ 2 && hasRight e .w
    && (tag ≠ 0 || eGdom e = asidDom s l.asid)
    && (!eSup e || l.kind = 3 || s.sched.queues.any fun q => q.kind = 1 && q.job = jobOf s l)

/-- The counter word written to the VA that the level's creator named (R388). -/
def putCounter (s : State) (l : Level) : State :=
  if l.va ≠ 0 && counterOk s l then hwWrite s (asidDom s l.asid) l.asid l.va (toBytes 8 (counterWord l)) else s

/-- The state with a level replaced and its counter word written. -/
def setLevel (s : State) (l : Level) : State :=
  putCounter { s with sched := { s.sched with levels := s.sched.levels.map fun x => if x.id = l.id then l else x } } l

/-- The levels that lie below some levels, the levels themselves among them; levels stand after their parents. -/
def belowOf (roots : List Nat) (ls : List Level) : List Nat :=
  ls.foldl (fun acc l => if acc.contains l.id then acc else if acc.contains l.parent then acc ++ [l.id] else acc) roots

/-- The kind of a card (R376). -/
def Card.kind (c : Card) : Nat := field c.bytes 0 1
/-- The graph number of a card. -/
def Card.graph (c : Card) : Nat := field c.bytes 4 2
/-- The node number of a card. -/
def Card.node (c : Card) : Nat := field c.bytes 6 2
/-- The node that a card fills. -/
def Card.nodeId (c : Card) : NodeId := { job := c.job, graph := c.graph, node := c.node }
/-- The predecessor nodes that a card names (R376). -/
def Card.preds (c : Card) : List Nat :=
  ((List.range 6).map fun i => field c.bytes (8 + 2 * i) 2).filterMap fun p => if bit p 15 then some (p % 4096) else none

/-- Each level of a list of numbers that is running moves to cancelling (R38). -/
def cancelAll (s : State) (ids : List Nat) : State :=
  ids.foldl (fun s id =>
    match levelRec s id with
    | some l => if l.state = 0 then setLevel s { l with state := 1 } else s
    | none => s) s

/-- The launch's teams that are placed, saved or halted (R37, R38). -/
def launchTeams (s : State) (id : Nat) : List Team :=
  (s.team :: s.others).filter fun t => t.card.launch = id && 1 ≤ t.place.run && t.place.run ≤ 3

/-- The number of the parent's parent of a level: a graph's job. -/
def grandParent (s : State) (l : Level) : Nat :=
  match levelRec s l.parent with
  | some p => p.parent
  | none => 0

/-- The level of a job's graph, from its header's fetch on. -/
def graphLevel (s : State) (job g : Nat) : Option Level :=
  s.sched.levels.find? fun l => l.kind = 1 && l.number = g && grandParent s l = job

/-- The card that fills a node: fetched, and no graph header. -/
def nodeCard (s : State) (n : NodeId) : Option Card := s.sched.cards.find? fun c => c.kind ≠ 3 && decide (c.nodeId = n)

/-- Whether a node of an open graph is ready (R382). -/
def nodeReady (s : State) (g : Level) (c : Card) : Bool :=
  c.standing = 0 && g.state = 0 && g.opened && c.preds.all fun p =>
    match nodeCard s { job := c.job, graph := c.graph, node := p } with
    | some x => x.standing = 2
    | none => false

/-- The cards that have just become ready enter the ready pool now (R382, R385). -/
def markReady (s : State) : State :=
  let entered (c : Card) : Card :=
    if c.readyAt.isNone && (match graphLevel s c.job c.graph with | some g => nodeReady s g c | none => false)
    then { c with readyAt := some s.fresh } else c
  { s with sched := { s.sched with cards := s.sched.cards.map entered } }

/-- Whether a card that has started still runs (R375, R390): a launch while its level has not ended or has teams left, a tile task or a
command until its end. -/
def cardRuns (s : State) (c : Card) : Bool :=
  if c.kind = 0 then
    c.level ≠ 0 && ((levelRec s c.level).any (fun l => decide (l.state ≤ 1)) || !(launchTeams s c.level).isEmpty)
  else c.standing = 1

/-- Whether a fetched card waits to start (R375): neither its graph nor its job has ended. -/
def cardWaits (s : State) (c : Card) : Bool :=
  c.standing = 0 && (levelRec s c.job).all (fun j => decide (j.state ≤ 1))
    && (graphLevel s c.job c.graph).all fun g => decide (g.state ≤ 1)

/-- Whether a fetched card is not yet complete (R375): it waits or runs. -/
def cardOpen (s : State) (c : Card) : Bool := cardWaits s c || cardRuns s c

/-- Whether a part of a level is resident, waiting or unstarted (R37): a cancelling level starts nothing more, but the tile-task and
command nodes of a graph that have started run to their ends (R39). -/
def remains (s : State) (l : Level) : Bool :=
  if l.kind = 0 then !(launchTeams s l.id).isEmpty
  else s.sched.levels.any (fun x => x.parent = l.id && decide (x.state ≤ 1))
    || (l.kind = 1 && (s.sched.cards.any fun c =>
        c.job = grandParent s l && c.graph = l.number && (c.kind = 1 || c.kind = 2) && c.standing = 1))

/-- Cancelling levels of one kind with no part left end as cancelled (R37). -/
def settleKind (k : Nat) (s : State) : State :=
  s.sched.levels.foldl (fun s l =>
    match levelRec s l.id with
    | some l => if l.kind = k && l.state = 1 && decide (l.done < l.total) && !remains s l then setLevel s { l with state := 3 } else s
    | none => s) s

/-- Every cancelling level with no part left ends as cancelled, from launches up (R37). -/
def settleLevels (s : State) : State := settleKind 3 (settleKind 2 (settleKind 1 (settleKind 0 s)))

/-- `cancel` of a level (R38): it and every level below it that is running moves to cancelling. -/
def cancelLevel (s : State) (id : Nat) : State :=
  match levelRec s id with
  | some l => if l.state = 0 then cancelAll s (belowOf [id] s.sched.levels) else s
  | none => s

/-- The fetched card of a launch's level gets a standing, and its successors may become ready (R382). -/
def cardStanding (s : State) (level standing : Nat) : State :=
  markReady { s with sched := { s.sched with cards := s.sched.cards.map fun c =>
      if c.level = level && level ≠ 0 then { c with standing := standing } else c } }

/-- A level that has not ended fails, and then its parents (R35, R37); the remaining parts of each are cancelled. `fuel` bounds the four
levels. -/
def failUp : Nat → Nat → State → State
  | 0, _, s => s
  | n + 1, id, s =>
    match levelRec s id with
    | none => s
    | some l =>
      if 2 ≤ l.state then s
      else
        let s1 := setLevel s { l with state := 4 }
        let s2 := cancelAll s1 (belowOf [id] s1.sched.levels)
        failUp n l.parent (if l.kind = 0 then cardStanding s2 id 3 else s2)

/-- A level fails (R35). -/
def failLevel (s : State) (id : Nat) : State := settleLevels (failUp 4 id s)

/-- One part of a level has completed (R36, R37): the done count rises, and a level whose count reaches its total completes
and counts in its parent. -/
def addDoneUp : Nat → Nat → State → State
  | 0, _, s => s
  | n + 1, id, s =>
    match levelRec s id with
    | none => s
    | some l =>
      let d := l.done + 1
      if d = l.total && l.state ≤ 1 then
        let s1 := setLevel s { l with done := d, state := 2 }
        addDoneUp n l.parent (if l.kind = 0 then cardStanding s1 id 2 else s1)
      else setLevel s { l with done := d }

/-- A part of a level completes (R36). -/
def addDone (s : State) (id : Nat) : State := settleLevels (addDoneUp 4 id s)

/-- Whether a team's launch is cancelling, cancelled or failed (R37). -/
def launchStopped (s : State) (t : Team) : Bool :=
  match levelRec s t.card.launch with
  | some l => l.state = 1 || l.state = 3 || l.state = 4
  | none => false

/-- Whether a team is to be removed at its next cancellation point (R38, R39, R35): its launch is cancelling, cancelled or
failed, and it has not executed its final `ret`, after which it retires. -/
def cancelling (s : State) (t : Team) : Bool := !t.ord.ending && launchStopped s t

/-- The queue record of a queue. -/
def queueOf (s : State) (q : QueueId) : Option Queue := s.sched.queues.find? (·.id = q)

/-- The state with a queue's record replaced. -/
def setQueue (s : State) (q : Queue) : State :=
  { s with sched := { s.sched with queues := s.sched.queues.map fun x => if x.id = q.id then q else x } }

/-- The domain of a queue's cluster. -/
def queueDom (s : State) (q : Queue) : Nat := zoneOf s q.id.cluster

/-- Status word of a queue's control block (R372). -/
def queueStatus (q : Queue) : Nat := q.status * 2 ^ 60 + q.code % 256 * 2 ^ 52 + q.refused % 2 ^ 32

/-- The fields of a queue's control block that hardware owns, written to memory (R372). -/
def putQueue (s : State) (q : Queue) : State :=
  let w (s : State) (off v : Nat) : State := hwWrite s (queueDom s q) q.asid (q.ring + off) (toBytes 8 v)
  let s1 := setQueue s q
  w (w (w (w (w (w s1 0x08 q.head) 0x10 (q.sealat.getD (2 ^ 64 - 1))) 0x18 (queueStatus q)) 0x20 q.lasthalt) 0x28 q.faultva)
    0x30 q.halts

/-- A halt reported to the queue owner: lasthalt, then halts raised by 1 (R373). -/
def reportHalt (s : State) (t : Team) : State :=
  match queueOf s t.card.queue with
  | some q => putQueue s { q with lasthalt := t.card.handle, halts := q.halts + 1 }
  | none => s

end Sys2Proof.Machine
end

