-- ==== Sys2Proof/Machine/Image.lean ====
section
/-! DEFINITION. The context image (R335 to R337): a team's state as bytes, and a team's state read back from them. -/

namespace Sys2Proof.Machine

/-- A 1,024-bit lane set as 128 bytes. -/
def lanesBytes (m : Lanes) : List Byte := toBytes 128 m.toNat

/-- A lane set read from 128 bytes. -/
def lanesOf (bs : List Byte) : Lanes := BitVec.ofNat 1024 (ofBytes bs)

/-- Bytes rounded up to a multiple of 4,096: the F of R335. -/
def padF (v w : Nat) : Nat := (v * w + 4095) / 4096 * 4096

/-- The PRIV register (R331). -/
def privWord (t : Team) : Nat := b2n t.sys.handler * 4 + levelOf t

/-- An AMAX register as its CSR reads it (R55). -/
def amaxWord (t : Team) (n : Nat) : Nat := (sget 0 t.regs.amax n).toNat

/-- The header of a context image (R335). -/
def headerBytes (s : State) (t : Team) (state : Nat) : List Byte :=
  toBytes 4 1 ++ toBytes 1 state ++ toBytes 1 t.card.w ++ toBytes 2 t.card.v ++ toBytes 2 t.card.asid
    ++ toBytes 1 (teamDomain s t) ++ toBytes 1 ((t.card.crew - 1) * 16 + t.card.crk) ++ toBytes 4 0
    ++ toBytes 8 t.card.fault ++ toBytes 8 t.place.halt.toNat ++ List.replicate 32 0

/-- A lane queue entry (R336). -/
def entryBytes (e : LaneEntry) : List Byte :=
  toBytes 12 e.word.toNat ++ toBytes 4 e.iter ++ toBytes 8 e.va ++ toBytes 8 e.capD.toNat ++ toBytes 8 e.capA.toNat
    ++ toBytes 8 e.capB.toNat ++ toBytes 8 e.capC.toNat ++ toBytes 8 e.capE.toNat

/-- A lane queue entry read back. -/
def entryOf (bs : List Byte) : LaneEntry where
  word := BitVec.ofNat 96 (field bs 0 12)
  iter := field bs 12 4
  va := field bs 16 8
  capD := BitVec.ofNat 64 (field bs 24 8)
  capA := BitVec.ofNat 64 (field bs 32 8)
  capB := BitVec.ofNat 64 (field bs 40 8)
  capC := BitVec.ofNat 64 (field bs 48 8)
  capE := BitVec.ofNat 64 (field bs 56 8)

/-- The index of the distinct word that a lane supplied, 0xFFFF for none (R336). -/
def supplied (ws : List (LWord × Lanes)) (l : Nat) : Nat :=
  match ws.findIdx? (fun w => w.2.getLsbD l) with
  | some j => j
  | none => 0xFFFF

/-- An `xiss` state block (R336). -/
def xissBytes : Option XissBlock → List Byte
  | none => List.replicate 2048 0xFF ++ List.replicate 14336 0
  | some b =>
    fit 16384 (((List.range 1024).map fun l => toBytes 2 (supplied b.words l)).flatten
      ++ fit 12288 ((b.words.map fun w => toBytes 12 w.1.toNat).flatten)
      ++ toBytes 2 b.words.length ++ toBytes 2 b.next)

/-- The lanes that supplied a distinct word, from the table of indices. -/
def suppliersOf (idx : List Nat) (j : Nat) : Lanes :=
  BitVec.ofNat 1024 ((List.range 1024).foldl (fun acc l => if idx.getD l 0xFFFF = j then acc + 2 ^ l else acc) 0)

/-- An `xiss` state block read back; a block with no words is none. -/
def xissOf (bs : List Byte) : Option XissBlock :=
  let n := field bs 0x3800 2
  let idx := (List.range 1024).map fun l => field bs (2 * l) 2
  if n = 0 then none
  else some {
    words := (List.range n).map fun j => (BitVec.ofNat 96 (field bs (0x800 + 12 * j) 12), suppliersOf idx j)
    next := field bs 0x3802 2 }

/-- The append state (R177): words appended, count, base, body and step record as read (assumption log 6). -/
def appendBytes : Option Append → List Byte
  | none => List.replicate 512 0
  | some a =>
    fit 512 (toBytes 8 a.done ++ toBytes 8 a.count ++ toBytes 8 a.base ++ toBytes 4 (if a.isLoop then 2 else 1)
      ++ toBytes 4 a.body.length ++ fit 32 ((a.steps.map fun e => toBytes 4 e.toNat).flatten)
      ++ (a.body.map fun w => toBytes 12 w.toNat).flatten)

/-- The append state read back. -/
def appendOf (bs : List Byte) : Option Append :=
  if field bs 24 4 = 0 then none
  else some {
    isLoop := field bs 24 4 = 2
    done := field bs 0 8
    count := field bs 8 8
    base := field bs 16 8
    steps := (List.range 8).map fun k => BitVec.ofNat 32 (field bs (32 + 4 * k) 4)
    body := (List.range (field bs 28 4)).map fun k => BitVec.ofNat 96 (field bs (64 + 12 * k) 12) }

/-- The head-word progress (R335): completed passes, the queue's count, its head index, the lanes of an unfinished word, and the flags and amax
magnitudes of its completed passes (assumption log 6). -/
def progressBytes (l : LaneState) : List Byte :=
  fit 256 (toBytes 4 l.passes.toNat ++ toBytes 4 l.queue.length ++ toBytes 4 0
    ++ toBytes 4 (b2n l.again.isSome) ++ lanesBytes (l.again.getD 0)
    ++ toBytes 8 l.flags.toNat ++ (List.range 4).flatMap fun n => toBytes 8 (sget 0 l.amax n).toNat)

/-- The positions of a team's stopped copies, 32 B for each channel (R293; assumption log 6). -/
def copyPositions (s : State) (h : Nat) : List Byte :=
  ((List.range 32).map fun ch =>
    match s.eng.copies.find? (fun c => c.team = h && c.chan = ch && c.stopped) with
    | some c => toBytes 8 c.id ++ toBytes 8 c.row ++ toBytes 8 c.index.length ++ toBytes 8 1
    | none => List.replicate 32 0).flatten

/-- The eager part of a context image as (offset, bytes) (R335), the header last (R340). -/
def eagerParts (s : State) (t : Team) (state : Nat) : List (Nat × List Byte) :=
  [ (0x40, ((List.range 96).map fun n => toBytes 8 (t.regs.s |> fun m => (sget 0 m n).toNat)).flatten)
  , (0x340, fit 128 (toBytes 8 t.pc.toNat ++ toBytes 8 t.sys.epc.toNat ++ toBytes 8 t.sys.tvec.toNat
      ++ toBytes 8 t.sys.scause.toNat ++ toBytes 8 t.sys.srec.toNat
      ++ ((List.range 4).map fun n => toBytes 8 (sget 0 t.sys.sscr n).toNat).flatten
      ++ toBytes 8 t.sys.slice.toNat ++ toBytes 8 t.sys.dbg.toNat ++ toBytes 8 (privWord t)))
  , (0x3C0, toBytes 8 t.regs.band.toNat ++ toBytes 8 t.regs.flags.toNat
      ++ ((List.range 4).map fun n => toBytes 8 (amaxWord t n)).flatten
      ++ toBytes 8 t.sys.resumes.toNat ++ toBytes 8 t.regs.stack.length)
  , (0x400, fit 2048 (((List.range 15).map fun k => lanesBytes (sget 0 t.regs.p k)).flatten))
  , (0xC00, lanesBytes t.regs.mask)
  , (0xC80, toBytes 32 ((t.regs.stack.reverse.map (·.1)).foldr (fun b n => b2n b + 2 * n) 0))
  , (0x1000, (t.regs.stack.reverse.map fun e => lanesBytes e.2).flatten)
  , (0x9000, ((List.range 320).map fun k => toBytes 4 (sget 0 t.regs.curve k).toNat).flatten)
  , (0x9500, progressBytes t.lane)
  , (0x9600, appendBytes t.lane.append)
  , (0x9800, copyPositions s t.card.handle)
  , (0xA000, (t.lane.queue.map entryBytes).flatten)
  , (0xB000, xissBytes t.lane.xiss1)
  , (0xF000, xissBytes t.lane.xiss2)
  , (Config.keptOffset, keptBytes t.ord.kept)
  , (0, headerBytes s t state) ]

/-- The bytes of one register line in the first format that holds it exactly, with its format byte (R337). -/
def lineBytes (vals : List Nat) : Nat × List Byte :=
  let v0 := vals.headD 0
  let delta (v : Nat) : Int := sInt 32 (v + 2 ^ 32 - v0)
  if vals.all (· = 0) then (0x00, [])
  else if vals.all (· = v0) then (0x10, toBytes 4 v0)
  else if vals.all (fun v => decide (-128 ≤ delta v) && decide (delta v ≤ 127)) then
    (0x11, toBytes 4 v0 ++ (vals.drop 1).flatMap fun v => toBytes 1 (toBits 8 (delta v)))
  else if vals.all (fun v => decide (-32768 ≤ delta v) && decide (delta v ≤ 32767)) then
    (0x12, toBytes 4 v0 ++ (vals.drop 1).flatMap fun v => toBytes 2 (toBits 16 (delta v)))
  else (0x01, vals.flatMap fun v => toBytes 4 v)

/-- A register line's 32 values from its format byte and slot; none for a reserved format byte (R337, R339). -/
def lineOf (fmt : Nat) (bs : List Byte) : Option (List Nat) :=
  let v0 := field bs 0 4
  if fmt = 0x00 then some (List.replicate 32 0)
  else if fmt = 0x10 then some (List.replicate 32 v0)
  else if fmt = 0x11 then
    some ((List.range 32).map fun i => if i = 0 then v0 else toBits 32 ((v0 : Int) + sInt 8 (field bs (3 + i) 1)))
  else if fmt = 0x12 then
    some ((List.range 32).map fun i => if i = 0 then v0 else toBits 32 ((v0 : Int) + sInt 16 (field bs (2 + 2 * i) 2)))
  else if fmt = 0x01 then some ((List.range 32).map fun i => field bs (4 * i) 4)
  else none

/-- A team's register line (v, w): the 32 lanes of a mask word. -/
def lineVals (t : Team) (v w : Nat) : List Nat := (List.range 32).map fun i => (sget 0 t.regs.v (v * 1024 + w * 32 + i)).toNat

/-- A team with a register line's values put in. -/
def putLine (t : Team) (v w : Nat) (vals : List Nat) : Team :=
  let f (m : SMap Half) (i : Nat) : SMap Half := sset 0 m (v * 1024 + w * 32 + i) (BitVec.ofNat 32 (vals.getD i 0))
  { t with regs := { t.regs with v := (List.range 32).foldl f t.regs.v } }

/-- One register line written back to a team's image (R337). -/
def writeLine (s : State) (t : Team) (v w : Nat) : State :=
  let k := v * t.card.w + w
  let f := padF t.card.v t.card.w
  let b := lineBytes (lineVals t v w)
  let s1 := teamWrite s t (t.card.handle + 0x13000 + f + 128 * k) b.2
  teamWrite s1 t (t.card.handle + 0x13000 + k) (toBytes 1 b.1)

/-- The state with the register caches' lines changed. -/
def setLines (s : State) (f : List HeldLine → List HeldLine) : State :=
  { s with cores := { s.cores with lines := f s.cores.lines } }

/-- A team's register lines leave every register cache without a write-back (R340). -/
def dropLines (s : State) (h : Nat) : State := setLines s fun ls => ls.filter fun l => l.team ≠ h

/-- Every dirty register line of a team written back (R338, R340); a line that was never written is not moved (R337). -/
def writeLines (s : State) (t : Team) : State :=
  (s.cores.lines.filter fun l => l.team = t.card.handle && l.dirty).foldl (fun s l => writeLine s t l.v l.w) s

/-- The eager part of a team's state written to its image with a header state (R340). -/
def writeEager (s : State) (t : Team) (state : Nat) : State :=
  (eagerParts s t state).foldl (fun s p => teamWrite s t (t.card.handle + p.1) p.2) s

/-- The header's state field alone written (R335, R340). -/
def writeHeaderState (s : State) (t : Team) (state : Nat) : State :=
  teamWrite s t (t.card.handle + 4) (toBytes 1 state)

/-- A team's register line read from its image; none when its format byte is reserved (R339). -/
def readLine (s : State) (t : Team) (v w : Nat) : Option (List Nat) :=
  let k := v * t.card.w + w
  let f := padF t.card.v t.card.w
  lineOf (field (hwRead s (teamDomain s t) 0 (t.card.handle + 0x13000 + k) 1) 0 1)
    (hwRead s (teamDomain s t) 0 (t.card.handle + 0x13000 + f + 128 * k) 128)

/-- The key of a partition's issue-cycle count: six partitions to a core (R10). -/
def partKey (core part : Nat) : Nat := core * 6 + part

/-- The bytes of its slot that a register line uses in a format (R337). -/
def lineUsed (fmt : Nat) : Nat :=
  if fmt = 0x00 then 0 else if fmt = 0x10 then 4 else if fmt = 0x11 then 35 else if fmt = 0x12 then 66 else 128

/-- Whether the image pages that a fetch of a register line reads are present: that of its format byte, and that of the bytes used (R338,
R339). -/
def linePresent (s : State) (t : Team) (v w : Nat) : Bool :=
  let k := v * t.card.w + w
  let who := hwWho (teamDomain s t) 0
  let at_ := t.card.handle + 0x13000 + k
  present s who at_ 1
    && present s who (t.card.handle + 0x13000 + padF t.card.v t.card.w + 128 * k)
      (lineUsed (field (hwRead s (teamDomain s t) 0 at_ 1) 0 1))

/-- Whether a fetch of a register line waits at the home of what it reads (R116, R338). -/
def lineWaits (s : State) (t : Team) (v w : Nat) : Bool :=
  let k := v * t.card.w + w
  teamWaits s t (t.card.handle + 0x13000 + k) 1 || teamWaits s t (t.card.handle + 0x13000 + padF t.card.v t.card.w + 128 * k) 128

/-- A word read from a team's image. -/
def imageWord (s : State) (t : Team) (off : Nat) : Nat := field (hwRead s (teamDomain s t) 0 (t.card.handle + off) 8) 0 8

/-- The record that some kept bytes hold: one slot, or four (R354, R362). -/
def keptOf (bs : List Byte) : List Byte :=
  if bit (field bs 0 8) 61 && bits (field bs 0 8) 56 2 = 3 then bs.take 256 else bs.take 64

/-- The lanes that a team has, as a lane set (R20). -/
def laneMask (w : Nat) : Lanes := BitVec.ofNat 1024 (2 ^ (32 * w) - 1)

/-- A stop-cause word as software left it, its reserved fields zero (R4, R361). -/
def causeWord (x : Word) : Word := x &&& 0xFFFFFF07FF

/-- SLICE as it is written: at least 1,024 (R331). -/
def clampSlice (x : BitVec 32) : BitVec 32 := if x.toNat < 1024 then 1024 else x

/-- A team's registers from its image, but for its register lines, each of which is fetched when an instruction needs it (R338, R340);
mask words that the team does not have read zero (R20), no more than 256 entries are on the stack (R51), and the sign bit of an AMAX value is
cut as its CSR's write cuts it (R53; assumption log 72). -/
def readRegs (s : State) (t : Team) : Regs :=
  let img (off n : Nat) : List Byte := hwRead s (teamDomain s t) 0 (t.card.handle + off) n
  let depth := min (imageWord s t 0x3F8 % 512) Config.stackDepth
  let mine : Lanes := laneMask t.card.w
  let kinds := field (img 0xC80 32) 0 32
  { t.regs with
    s := (List.range 96).foldl (fun m n => sset 0 m n (BitVec.ofNat 64 (imageWord s t (0x40 + 8 * n)))) t.regs.s
    p := (List.range 15).foldl (fun m k => sset 0 m k (lanesOf (img (0x400 + 128 * k) 128))) t.regs.p
    mask := lanesOf (img 0xC00 128) &&& mine
    stack := (List.range depth).foldl (fun acc e => (bit kinds e, lanesOf (img (0x1000 + 128 * e) 128) &&& mine) :: acc) []
    band := BitVec.ofNat 3 (imageWord s t 0x3C0)
    flags := BitVec.ofNat 7 (imageWord s t 0x3C8)
    amax := (List.range 4).foldl (fun m n =>
      sset 0 m n (BitVec.ofNat 33 (imageWord s t (0x3D0 + 8 * n)) &&& ~~~(0x80000000#33))) t.regs.amax
    curve := (List.range 320).foldl (fun m k => sset 0 m k (BitVec.ofNat 32 (field (img (0x9000 + 4 * k) 4) 0 4))) t.regs.curve }

/-- A queue entry read back; that its code is no vector register is known while software leaves its word (R141, R341). -/
def entryBack (old : Option LaneEntry) (bs : List Byte) : LaneEntry :=
  let e := entryOf bs
  match old with
  | some o => { e with bad := o.bad && o.word = e.word && o.iter = e.iter && o.va = e.va }
  | none => e

/-- A halted team's state read afresh from its image, with software's edits (R340, R341); of the header only the halt cause is read back, and the
fields that the placement wrote there stay the card's (assumption log 119). -/
def readImage (s : State) (t : Team) : Team :=
  let img (off n : Nat) : List Byte := hwRead s (teamDomain s t) 0 (t.card.handle + off) n
  let w (k : Nat) : Word := BitVec.ofNat 64 (imageWord s t (0x340 + 8 * k))
  let prog := img 0x9500 256
  { t with
    pc := w 0
    regs := readRegs s t
    sys := { t.sys with
      epc := w 1, tvec := w 2 &&& ~~~3#64, scause := causeWord (w 3), srec := w 4
      sscr := (List.range 4).foldl (fun m n => sset 0 m n (w (5 + n))) t.sys.sscr
      slice := clampSlice ((w 9).truncate 32), dbg := (w 10).truncate 3, handler := (w 11).getLsbD 2
      resumes := BitVec.ofNat 64 (imageWord s t 0x3F0) }
    place := { t.place with halt := causeWord (BitVec.ofNat 64 (imageWord s t 0x18)) }
    ord := { t.ord with
      kept := ((List.range (min (imageWord s t Config.keptOffset) 7)).map fun k => keptOf (img (Config.keptOffset + 16 + 256 * k) 256))
        ++ t.ord.kept.drop 7 }
    lane := {
      queue := (List.range (min (field prog 4 4) 64)).map fun k =>
        entryBack (t.lane.queue[k]?) (img (0xA000 + 64 * ((field prog 8 4 + k) % 64)) 64)
      passes := BitVec.ofNat 32 (field prog 0 4)
      again := if field prog 12 4 = 0 then none else some (lanesOf ((prog.drop 16).take 128))
      append := appendOf (img 0x9600 512)
      xiss1 := xissOf (img 0xB000 16384)
      xiss2 := xissOf (img 0xF000 16384)
      drawn := t.lane.drawn
      flags := BitVec.ofNat 7 (field prog 144 8)
      amax := (List.range 4).foldl (fun m n => sset 0 m n (BitVec.ofNat 33 (field prog (152 + 8 * n) 8))) t.lane.amax } }

/-- The positions of a halted team's copies read afresh from its image (R293, R341): a copy that an entry names goes on at the row that the
entry holds (assumption log 6). -/
def readPositions (s : State) (t : Team) : State :=
  let one (c : CopyJob) : CopyJob :=
    let bs := hwRead s (teamDomain s t) 0 (t.card.handle + 0x9800 + 32 * c.chan) 32
    if c.team = t.card.handle && c.stopped && field bs 24 8 = 1 && field bs 0 8 = c.id then
      { c with row := field bs 8 8, index := c.index.take (field bs 16 8) }
    else c
  { s with eng := { s.eng with copies := s.eng.copies.map one } }

end Sys2Proof.Machine
end

