-- ==== Sys2Proof/Machine/Ops.lean ====
section
/-! DEFINITION. The shared operations on a team: its registers and program counter, taking a stop and returning from a
handler (R332, R333, R360 to R366), HALTED, pre-emption, resumption, removal and retirement (R28, R38, R39, R340 to R343),
with what these do to engines, groups and levels. -/

namespace Sys2Proof.Machine

/-- A scalar register of the focus team; sz reads 0 (R45). -/
def readReg (s : State) (r : SReg) : Word := if r.toNat < 96 then sget 0 s.team.regs.s r.toNat else 0

/-- The state with a scalar register of the focus team written; a write to sz is discarded (R45). -/
def writeReg (s : State) (r : SReg) (x : Word) : State :=
  if r.toNat < 96 then { s with team := { s.team with regs := { s.team.regs with s := sset 0 s.team.regs.s r.toNat x } } }
  else s

/-- The focus team's registers changed. -/
def setRegs (s : State) (r : Regs) : State := setTeam s { s.team with regs := r }
/-- The focus team's supervisor registers changed. -/
def setSys (s : State) (r : Sys) : State := setTeam s { s.team with sys := r }

/-- Whether the clocks of a core's cluster run (R438). -/
def clocked (s : State) (core : Nat) : Bool := !(clusterRec s (core / 16)).stopped

/-- The state with the focus team's scalar PC set. -/
def setPc (s : State) (x : Word) : State := { s with team := { s.team with pc := x } }

/-- The scalar PC advanced past one S-word (R160). -/
def advance (s : State) : State := setPc s (s.team.pc + 4)

/-- A result written and the scalar PC advanced (R160, R161). -/
def finish (s : State) (d : SReg) (x : Word) : State := advance (writeReg s d x)

/-- The focus team as a requester. -/
def focusWho (s : State) : Who := whoOf s s.team

/-- The team of a handle brought into focus; a focus that is no live team is dropped. -/
def focus (s : State) (h : Nat) : State :=
  if s.team.card.handle = h then s
  else match s.others.find? (fun t => t.card.handle = h) with
    | none => s
    | some t =>
      let rest := s.others.filter fun x => x.card.handle ≠ h
      let back := if 1 ≤ s.team.place.run && s.team.place.run ≤ 3 then s.team :: rest else rest
      { s with team := t, others := back }

/-- The 64 B of code at a VA in a core's scalar or lane instruction cache (R12, R85). -/
def codeLine (s : State) (w : Who) (lane : Bool) (va : Nat) : Option CodeLine :=
  s.cores.code.find? fun c => c.core = w.core && c.lane = lane && c.asid = tagOf w.asid va && c.sec = sectorOf va

/-- Some bytes of code as an instruction cache holds them; none where one of them is not there. -/
def cachedCode (s : State) (w : Who) (lane : Bool) : Nat → Nat → Option (List Byte)
  | _, 0 => some []
  | va, n + 1 =>
    match codeLine s w lane va, cachedCode s w lane (va + 1) n with
    | some c, some bs => some (c.bytes.getD (va % 64) 0 :: bs)
    | _, _ => none

/-- The S-word at the focus team's scalar PC, for the stop record (R362): as it was fetched, from the core's instruction cache, or with no
fetch before as it stands in memory. -/
def codeWord (s : State) : Nat :=
  match cachedCode s (focusWho s) false s.team.pc.toNat 4 with
  | some bs => ofBytes bs
  | none => ofBytes (readBytes s (focusWho s) s.team.pc.toNat 4)

/-- A stop at the S-word at the scalar PC (R360, R362). -/
def scalarStop (s : State) (cause : Nat) (va : Nat := 0) (reason : Nat := 0) : Stop :=
  { cause := cause, reason := reason, va := va, iva := s.team.pc.toNat, word := codeWord s }

/-- The stop-cause word (R361). -/
def stopWord (cause reason code : Nat) (halt trap : Bool) (expiry : Bool := false) : Word :=
  BitVec.ofNat 64
    (cause + b2n trap * 2 ^ 8 + b2n halt * 2 ^ 9 + b2n expiry * 2 ^ 10 + code % 65536 * 2 ^ 16 + reason % 256 * 2 ^ 32)

/-- The bytes of a stop record (R362): 64, or 256 with the fault mask. -/
def stopBytes (st : Stop) (cause reason : Nat) : List Byte :=
  let slots := if st.four then 3 else 0
  toBytes 8 (2 ^ 63 + 2 ^ 61 + slots * 2 ^ 56 + cause * 2 ^ 48 + reason * 2 ^ 40)
    ++ toBytes 8 st.va ++ toBytes 8 st.iva ++ toBytes 4 st.detail ++ toBytes 4 st.aux ++ toBytes 12 st.word
    ++ List.replicate 20 0
    ++ (if st.four then lanesBytes st.lanes ++ List.replicate 64 0 else [])

/-- The task of an identifier. -/
def taskOf (s : State) (id : Nat) : Option Task := s.eng.tasks.find? (·.id = id)

/-- The state with a task changed. -/
def updTask (s : State) (id : Nat) (f : Task → Task) : State :=
  { s with eng := { s.eng with tasks := s.eng.tasks.map fun k => if k.id = id then f k else k } }

/-- The engine of a task as a requester for its team. -/
def taskWho (s : State) (k : Task) : Who where
  core := k.core
  domain := (clusterRec s (k.core / 16)).domain
  asid := k.asid
  sup := true
  team := k.team
  engine := true

/-- The 8 bytes of a task's control word (R271). -/
def controlBytes (k : Task) (progress status : Nat) : List Byte :=
  toBytes 8 (field k.desc 0x38 8 % 2 ^ 44 + progress % 65536 * 2 ^ 44 + status * 2 ^ 60)

/-- A control word of a task that goes into its core's store buffer as a store of its posting team (R271, R277, R281): an entry behind the
team's earlier ones, with its next sequence number, that drains as far as it goes now. -/
def controlStore (s : State) (k : Task) (t : Team) (word : Nat × Nat) : State :=
  let va := k.recVa + 0x38
  let bytes := controlBytes k word.1 word.2
  let e : SbEntry := {
    core := k.core, team := k.team, asid := tagOf k.asid va, sector := sectorOf va
    bytes := (List.range 8).map (fun i => (va % 64 + i, bytes.getD i 0)), seq := t.ord.seq + 1, iva := k.recVa, source := 4
    covers := t.ord.cover, access := 3 }
  let s1 := updTeam s k.team fun t => { t with ord := { t.ord with seq := t.ord.seq + 1 } }
  let s2 := updTask s1 k.id fun k => { k with due := k.due.drop 1, last := e.seq }
  drainEntry (pushEntries s2 [e]) e

/-- A control word of a team that is gone performed, or dropped with its page. -/
def controlWrite (s : State) (k : Task) (word : Nat × Nat) : State :=
  let w := taskWho s k
  let va := k.recVa + 0x38
  let s1 := updTask s k.id fun k => { k with due := k.due.drop 1, last := 0 }
  if whereIs s w.domain (tagOf w.asid va) va = .absent then s1
  else writeBytes (touchWrite s1 w va) w va (controlBytes k word.1 word.2)

/-- The control words of a task that wait go into the store buffer in order, as far as there is room for them (R277, R352). -/
def pumpControl (id : Nat) : Nat → State → State
  | 0, s => s
  | n + 1, s =>
    match taskOf s id with
    | none => s
    | some k =>
      match k.due with
      | [] => s
      | word :: _ =>
        match teamOf s k.team with
        | none => if gateAt s { taskWho s k with team := 0 } (k.recVa + 0x38) = .wait then s else pumpControl id n (controlWrite s k word)
        | some t => if roomFor s (taskWho s k) 1 = .ok then pumpControl id n (controlStore s k t word) else s

/-- A control word of a task, with its progress, on its way to memory (R277, R281). -/
def putControl (s : State) (k : Task) (status : Nat) : State :=
  pumpControl k.id (k.due.length + 1) (updTask s k.id fun x => { x with due := x.due ++ [(k.progress, status)] })

/-- Whether a copy runs on its channel now (R286): it has started, and is neither paused at a fault nor done with its rows. -/
def CopyJob.running (c : CopyJob) : Bool := c.started && !c.paused && !c.moved

/-- A team's engine work stops (R281, R293): running tasks write status 1 and free their engine; running copies stop and leave their
channels, and copies that are paused at a fault keep theirs (R286). -/
def pauseWork (s : State) (h : Nat) : State :=
  let s1 := s.eng.tasks.foldl (fun s k => if k.team = h && k.running then putControl s k 1 else s) s
  let tasks := s1.eng.tasks.map fun k => if k.team = h then { k with running := false } else k
  let copies := s1.eng.copies.map fun c => if c.team = h && c.running then { c with stopped := true, started := false } else c
  { s1 with eng := { s1.eng with tasks := tasks, copies := copies } }

/-- A team's stopped copies may run again (R293). -/
def resumeWork (s : State) (h : Nat) : State :=
  let copies := s.eng.copies.map fun c => if c.team = h then { c with stopped := false } else c
  { s with eng := { s.eng with copies := copies } }

/-- The key under which an atomic of the scalar stream waits in a group window, beside those of the lanes. -/
def scalarKey : Nat := 1024

/-- The handles of a team's crew, its own among them, that are resident or saved or halted (R30). -/
def crewOf (s : State) (t : Team) : List Nat :=
  ((s.team :: s.others).filter fun x =>
    x.card.handle = t.card.handle
      || (x.card.launch = t.card.launch && x.card.launch ≠ 0 && x.card.tix / x.card.crew = t.card.tix / t.card.crew
        && 1 ≤ x.place.run && x.place.run ≤ 3)).map (·.card.handle)

/-- Whether an atomic of a team's scalar stream is on its way to a group window (R172). -/
def Team.scalarAtom (t : Team) : Bool := t.ord.atoms.any fun a => a.key = scalarKey

/-- Whether the lane stream of a team is within its head L-word: passes of it have run, or an atomic of a lane is on its way (R26, R172). -/
def Team.laneMid (t : Team) : Bool := t.lane.busy || t.ord.atoms.any fun a => a.key ≠ scalarKey

/-- Whether a team has accesses under way, so that nothing stops it before they are made (R75, R342, R367): the passes of its head L-word, but
for one that a handler has frozen (R332), or an atomic in a group window (R172). -/
def midWord (s : State) (h : Nat) : Bool :=
  match teamOf s h with
  | some t => t.scalarAtom || (!t.sys.handler && t.laneMid)
  | none => false

/-- One team enters HALTED with a halt cause (R340, R343): its engine work stops, its dirty lines and its eager state are
written, the header state last, and the halt is reported (R373). A team that waited to end runs its `ret` again. -/
def haltOne (s : State) (h : Nat) (cause : Word) : State :=
  let s1 := updTeam (pauseWork s h) h fun t =>
    { t with
      place := { t.place with run := 3, halt := cause }
      ord := { t.ord with
        haltReq := false, load := none, expired := false, leave := none, stepped := false, ending := false, closing := none } }
  match teamOf s1 h with
  | none => s1
  | some t => reportHalt (writeEager (dropLines (writeLines s1 t) h) t 3) t

/-- One team is pre-empted (R340): eager state saved, header state 2, its register lines left where they are. -/
def saveOne (s : State) (h : Nat) : State :=
  let s1 := updTeam (pauseWork s h) h fun x =>
    { x with
      place := { x.place with run := 2, savedAt := s.fresh }
      ord := { x.ord with load := none, leave := none, stepped := false, closing := none } }
  match teamOf s1 h with
  | some x => writeEager s1 x 2
  | none => s1

/-- One team leaves its partition as it has been told. -/
def leaveOne (s : State) (h : Nat) : State :=
  match (teamOf s h).bind (·.ord.leave) with
  | some (.halt c) => haltOne s h c
  | some .preempt => saveOne s h
  | none => s

/-- A crew that is to leave its partitions leaves them together, once each of its teams has reached its stopping point (R30, R367). -/
def settleLeave (s : State) (h : Nat) : State :=
  match teamOf s h with
  | none => s
  | some t =>
    let crew := crewOf s t
    if t.ord.leave.isNone || crew.any (midWord s) then s else crew.foldl leaveOne s

/-- A crew told to leave its partitions: `f` gives each team its way, from the one that it has. -/
def askLeave (s : State) (t : Team) (f : Nat → Option Leave → Leave) : State :=
  settleLeave ((crewOf s t).foldl (fun s h =>
    updTeam s h fun x => { x with ord := { x.ord with leave := some (f h x.ord.leave) } }) s) t.card.handle

/-- The focus team enters HALTED with its crew, each team at its stopping point and all at once (R30, R342, R367); the halt cause of its
crewmates is the debug halt with it, and names no cause otherwise (assumption log 7). -/
def haltCrew (s : State) (cause : Word) : State :=
  let mate := if cause.toNat % 256 = 0x1D then cause else stopWord 0 0 0 true false
  askLeave s s.team fun h old =>
    if h = s.team.card.handle then .halt cause
    else match old with
      | some (.halt c) => .halt c
      | _ => .halt mate

/-- The causes delivered to HALTED always (R360). -/
def alwaysHalts (cause : Nat) : Bool := 0x1A ≤ cause && cause ≤ 0x1D

/-- Whether a team is on its way into HALTED. -/
def Team.halting (t : Team) : Bool :=
  match t.ord.leave with
  | some (.halt _) => true
  | _ => false

/-- Whether a stop enters HALTED rather than the handler, and the trap bit it leaves (R360, R361); a debug halt that meets
the stop halts too (R366). -/
def haltsFor (t : Team) (cause : Nat) : Option Bool :=
  if alwaysHalts cause then some false
  else if cause = 0x19 && t.sys.dbg.getLsbD 0 then some false
  else if t.sys.dbg.getLsbD 1 || t.ord.haltReq || t.halting then some true
  else none

/-- Entry to the handler at level 1 (R332): EPC, SCAUSE, SREC, PRIV and the scalar PC; the lane queue is frozen. The stops that met the one
delivered come after it (R366). A team that waited to end handles its stop and runs its `ret` again (R28). A TVEC outside the global range,
or in no region that R332 asks for, has no outcome there: the handler is fetched at level 1 as every S-word is (assumption log 76). -/
def enterHandler (t : Team) (cause : Word) (srec : Word) : Team :=
  { t with
    pc := t.sys.tvec
    ord := { t.ord with
      load := none, expired := false, ending := false, closing := none
      stops := t.ord.stops.filter fun x => alwaysHalts x.cause
      later := t.ord.later ++ t.ord.stops.filter fun x => !alwaysHalts x.cause }
    sys := { t.sys with epc := t.pc, scause := cause, srec := srec, handler := true } }

/-- TAKING A STOP (R332, R333, R354, R360 to R362): the stop record goes to the lowest free slots of the fault area; then
the handler is entered, or HALTED, with the nested cause when the team is in its handler already, and with the
fault-area-full cause when no slot is free; a stop that halts so is not delivered when the team is resumed (assumption log 120). -/
def takeStop (s : State) (st : Stop) : State :=
  let t := s.team
  let nested := t.sys.handler && !alwaysHalts st.cause
  let cause := if nested then 0x1A else st.cause
  let reason := if nested then st.cause else st.reason
  let exp := t.ord.expired
  if cause = 0x1C || cause = 0x1D then haltCrew s (stopWord cause 0 0 true false exp)
  else match freeSlots s t (if st.four then 4 else 1) with
    | none =>
      haltCrew (setTeam s { t with ord := { t.ord with kept := t.ord.kept ++ [stopBytes st cause reason] } })
        (stopWord 0x1C 0 0 true false exp)
    | some k =>
      let s1 := putSlots s t k (stopBytes st cause reason)
      let srec := BitVec.ofNat 64 (t.card.fault + 64 * k)
      match haltsFor t cause with
      | none => setTeam s1 (enterHandler s1.team (stopWord cause reason st.code false true exp) srec)
      | some trap =>
        haltCrew (setTeam s1 { s1.team with place := { s1.team.place with srec := srec } }) (stopWord cause reason st.code true trap exp)

/-- The outcome of a meaning that may trap: a trap leaves every other effect of the word unmade (R162). -/
def settle (s : State) (r : Except Stop State) : Out :=
  match r with
  | .ok s' => .next s'
  | .error st => .next (takeStop s st)

/-- Whether a stop that met another is still due as the handler is left (R353, R366): one for held stores is not once the team holds none, but
for that of a copy or collective of the team. -/
def stillDue (s : State) (h : Nat) (st : Stop) : Bool :=
  st.cause ≠ 0x14 || hasHeld s h || s.eng.copies.any (fun c => c.team = h && c.tmplVa = st.iva)
    || s.eng.colls.any fun c => c.team = h && c.descVa = st.iva

/-- The state after `sret` by resume (R364): level of the queue, handler mode off, PC from EPC, the trap bit cleared; the stops that met
the one handled are due at the next boundary (R366). -/
def leaveHandler (s : State) : State :=
  setTeam s { s.team with
    pc := s.team.sys.epc
    ord := { s.team.ord with
      replay := none, later := []
      stops := s.team.ord.stops ++ s.team.ord.later.filter (stillDue s s.team.card.handle) }
    sys := { s.team.sys with handler := false, scause := s.team.sys.scause &&& ~~~(1#64 <<< 8) } }

/-- The copies of a team that are paused at a fault go on (R292). -/
def unpauseCopies (s : State) (h : Nat) : State :=
  let copies := s.eng.copies.map fun c => if c.team = h then { c with paused := false } else c
  let colls := s.eng.colls.map fun c => if c.team = h then { c with paused := false } else c
  { s with eng := { s.eng with copies := copies, colls := colls } }

/-- The buffered stores that have left for a group in error, whose applications no team waits for (R295), dropped. -/
def dropSent (s : State) (g : Nat) : State :=
  { s with sb := s.sb.filter fun e => !(e.sent && groupAt s e.asid e.sector = g) }

/-- A group enters its error state (R295): outstanding collectives end, and their communication teams are stopped. -/
def groupError (s : State) (g : Nat) : State :=
  match groupOf s g with
  | none => s
  | some r =>
    if r.state = 1 then s
    else
      let groups := s.link.groups.map fun x => if x.number = g && x.state ≠ 2 then { x with state := 1 } else x
      let ended := s.eng.colls.filter fun c => c.group = g
      let s0 := dropSent s g
      let s1 := { s0 with
        link := { s.link with groups := groups }
        eng := { s.eng with colls := s.eng.colls.filter fun c => c.group ≠ g } }
      (ended.map (·.team)).eraseDups.foldl (fun s h =>
        noteStop s h { cause := 0x12, iva := ((ended.find? (·.team = h)).map (·.descVa)).getD 0, detail := g }) s1

/-- The rank whose communication team a team is (R294, R297): its crew is bound to the rank, and its crew rank is the one that
the job card names. -/
def issuingRank (s : State) (r : Group) (t : Team) : Option Nat :=
  match levelRec s t.card.launch with
  | none => none
  | some l =>
    if t.card.crk ≠ t.card.comm then none
    else (r.locals.find? fun x => x.2.1 = t.card.tix / t.card.crew && x.2.2 = l.va && decide (l.va ≠ 0)).map (·.1)

/-- Groups with a collective outstanding for a team go into error (R40, R295). -/
def collsLost (s : State) (h : Nat) : State :=
  s.eng.colls.foldl (fun s c => if c.team = h then groupError s c.group else s) s

/-- The groups of whose ranks a team is the communication team go into error as it is killed or lost (R365, R370). -/
def commLost (s : State) (h : Nat) : State :=
  match teamOf s h with
  | none => s
  | some t => s.link.groups.foldl (fun s r => if r.state ≠ 2 && (issuingRank s r t).isSome then groupError s r.number else s) s

/-- The records that a team had no slot for, written now where slots are free (R354). -/
def putKept (s : State) (h : Nat) : State :=
  match teamOf s h with
  | none => s
  | some t => t.ord.kept.foldl (fun s bs =>
      match teamOf s h with
      | none => s
      | some t =>
        match freeSlots s t (bs.length / 64) with
        | some k => setKept (putSlots s t k bs) h (t.ord.kept.erase bs)
        | none => s) s

/-- The kept records of every team whose fault area has a slot again, written (R354). -/
def settleKept (s : State) : State :=
  (s.team :: s.others).foldl (fun s t => if t.ord.kept.isEmpty then s else putKept s t.card.handle) s

/-- The stop records of the stops that a team leaves undelivered as it is removed (R366). -/
def writeStops (s : State) (h : Nat) : State :=
  match teamOf s h with
  | none => s
  | some t => (t.ord.stops ++ t.ord.later).foldl (fun s st =>
      if st.cause = 0x1C || st.cause = 0x1D then s
      else match (teamOf s h).bind fun t => freeSlots s t (if st.four then 4 else 1) with
        | some k => match teamOf s h with
          | some t => putSlots s t k (stopBytes st st.cause st.reason)
          | none => s
        | none => s) s

/-- A team's handle is kept among those of the teams that have ended. -/
def noteEnded (s : State) (h : Nat) : State :=
  { s with sched := { s.sched with ended := s.sched.ended.filter (· ≠ h) ++ [h] } }

/-- The engine work of a team that has met its fault is dropped as the team is removed (R365); a removed team has no handler to go on from
(assumption log 77). -/
def dropPaused (s : State) (h : Nat) : State :=
  { s with eng := { s.eng with
      copies := s.eng.copies.filter fun c => !(c.team = h && c.paused)
      colls := s.eng.colls.filter fun c => !(c.team = h && c.paused) } }

/-- A team is removed without retiring (R38, R39, R365): its held and later stores are dropped, its lane queue and register lines are
discarded, its groups may go into error, and cancelling levels may end. Its bindings end with it, and the copies that a stash holds by
them stay until they are recalled or evicted (assumption log 78). -/
def removeTeam (s : State) (h : Nat) : State :=
  let s1 := resumeWork (dropLines (settlePosted (dropHeld s h)) h) h
  let s2 := updTeam (dropPaused (collsLost s1 h) h) h fun t =>
    { t with
      place := { t.place with run := 5 }
      lane := {}
      ord := { t.ord with stops := [], later := [], atoms := [], leave := none, ending := false } }
  match teamOf s2 h with
  | none => s2
  | some t =>
    let s3 := writeHeaderState s2 t 5
    settleLevels (noteEnded { s3 with others := s3.others.filter fun x => x.place.run ≤ 3 } h)

/-- A team retires (R28): header state 4, its bindings end (R98), and its launch counts it done. -/
def retireTeam (s : State) (h : Nat) : State :=
  let s1 := updTeam (dropLines s h) h fun t =>
    { t with
      place := { t.place with run := 4 }
      ord := { t.ord with bindings := [], ending := false, stops := [], later := [], leave := none } }
  match teamOf s1 h with
  | none => s1
  | some t =>
    let s2 := writeHeaderState s1 t 4
    addDone (noteEnded { s2 with others := s2.others.filter fun x => x.place.run ≤ 3 } h) t.card.launch

/-- The whole crew of a team is pre-empted (R30, R340), at once as its teams have reached their stopping points; one that is to enter HALTED
does. -/
def preemptCrew (s : State) (t : Team) : State :=
  askLeave s t fun _ old =>
    match old with
    | some x => x
    | none => .preempt

/-- A saved team is resident again on a partition (R340, R386): RESUMES rises and its engine work may go on. -/
def resumeTeam (s : State) (h part : Nat) : State :=
  let s1 := updTeam (resumeWork s h) h fun t =>
    { t with
      place := { t.place with run := 1, part := part, spared := false }
      ord := { t.ord with stepped := false }
      sys := { t.sys with resumes := t.sys.resumes + 1 } }
  match teamOf s1 h with
  | some t => writeHeaderState s1 t 1
  | none => s1

/-- The saved teams of levels that are cancelling, cancelled or failed are removed at once (R38), but for one that has executed its final
`ret` (R39), and one that came out of HALTED when its level was cancelled already. -/
def sweepSaved (s : State) : State :=
  (s.team :: s.others).foldl (fun s t =>
    match teamOf s t.card.handle with
    | some x => if x.place.run = 2 && cancelling s x && !x.ord.ending && !x.place.spared then removeTeam (writeStops s x.card.handle) x.card.handle else s
    | none => s) s

/-- The source code of a load or atomic by its stash binding (R97, R350): a fill where a binding serves the VA. -/
def sourceFor (t : Team) (va source : Nat) : Nat :=
  if t.ord.bindings.any (fun b => decide (b.va ≤ va) && decide (va < b.va + b.len)) then 3 else source

/-- The focus team removed at a cancellation point (R39): the records of the stops that it has not taken are written, that of a load whose
translation fault has come back among them (R366). -/
def cancelTeam (s : State) : State :=
  let t := s.team
  let s1 := match t.ord.load with
    | some va =>
      if gateAt s (whoOf s t) va = .absent then
        noteStop (putDefer s t.card.handle
          { kind := 1, source := sourceFor t va 1, access := 0, va := va, asid := tagOf t.card.asid va, iva := t.pc.toNat })
          t.card.handle
          { scalarStop s 0x13 va with aux := 1 }
      else s
    | none => s
  removeTeam (writeStops s1 t.card.handle) t.card.handle

/-- A team that reaches a cancellation point is removed when its level is cancelling, once the L-word that has begun has completed its
passes (R39); else nothing happens. -/
def cancelPoint (s : State) : State :=
  if cancelling s s.team && !midWord s s.team.card.handle then cancelTeam s else s

/-- Whether the focus team is removed at a cancellation point reached now (R39). -/
def cancelled (s : State) : Bool := cancelling s s.team

/-- A wait of the focus team: nothing changes, and at a cancellation point the team may be removed (R198). -/
def waitPoint (s : State) : Out := .next (cancelPoint s)

/-- The VA that the first held entry of a team writes, for the stop record (R362); 0 with none. -/
def heldVa (s : State) (h : Nat) : Nat :=
  match s.sb.find? (fun e => e.team = h && e.held) with
  | some e => entryVa e
  | none => 0

/-- The deferred-fault stop at the S-word at the scalar PC (R353). -/
def heldStop (s : State) : State := takeStop s (scalarStop s 0x14 (heldVa s s.team.card.handle))

/-- The waits of a team for its earlier stores, made by an instruction: it runs again until they are performed, and a held
store stops the team (R118, R353). -/
def afterStores (s : State) (k : State → Out) : Out :=
  match flushTeam s s.team.card.handle with
  | .held s1 => .next (heldStop s1)
  | .wait s1 => .next s1
  | .done s1 => k s1

/-- The same wait where it is a cancellation point (R198). -/
def afterStoresPoint (s : State) (k : State → Out) : Out :=
  match flushTeam s s.team.card.handle with
  | .held s1 => .next (heldStop s1)
  | .wait s1 => waitPoint s1
  | .done s1 => k s1

/-- A read of the focus team's own S-word takes a translation fault (R164): a deferred fault record with its source, and the
load-translation stop with the number of records written. -/
def readFault (s : State) (va source access : Nat) : State :=
  let t := s.team
  let d : Defer := { kind := 1, source := source, access := access, va := va, asid := tagOf t.card.asid va, iva := t.pc.toNat }
  let s1 := putDefer s t.card.handle d
  takeStop s1 { scalarStop s1 0x13 va with aux := 1 }

/-- The place of a local address in local memory: core and address (R92). -/
def lmAddr (core la : Nat) : Nat := core * 2 ^ 18 + la

/-- The tile of a local address. -/
def tileOf (la : Nat) : Nat := la / 4096

/-- The key of a core's tile. -/
def tileKey (core tile : Nat) : Nat := core * 64 + tile

/-- The owner record of a core's tile (R94). -/
def tileRec (s : State) (core tile : Nat) : TileOwner := sget {} s.tiles (tileKey core tile)

/-- The state with a tile's owner record set. -/
def setTile (s : State) (core tile : Nat) (o : TileOwner) : State :=
  { s with tiles := sset {} s.tiles (tileKey core tile) o }

/-- The owner word (R94). -/
def ownerWord (o : TileOwner) : Nat := o.owner.toNat + o.readers.toNat * 16

/-- Whether a local address lies in a team's local window (R92, R93). -/
def inWindow (t : Team) (la : Nat) : Bool :=
  decide (la < 2 ^ 18) && decide (t.card.lbase ≤ tileOf la) && decide (tileOf la < t.card.lbase + t.card.lcount)

/-- Bytes of a core's local memory. -/
def lmBytes (s : State) (core la n : Nat) : List Byte := bytesAt s.lm (lmAddr core la) n

/-- The state with bytes of a core's local memory written. -/
def lmWrite (s : State) (core la : Nat) (bs : List Byte) : State := { s with lm := setBytes s.lm (lmAddr core la) bs }

/-- A new identifier for an accepted task, copy or collective. -/
def newId (s : State) : Nat × State := (s.eng.nextId, { s with eng := { s.eng with nextId := s.eng.nextId + 1 } })

/-- What keeps an S-word from its effect: a trap, a translation fault of a read, a gate to wait at, an own held store, or a wait. -/
inductive Stuck where
  | trap (st : Stop)
  | absent (va : Nat)
  | gate (va : Nat)
  | held (va : Nat)
  | later
deriving DecidableEq, Repr

/-- The outcome of an S-word that is kept from its effect: precise traps and faults (R162, R164), or the word runs again. -/
def unstick (s : State) (k : Stuck) : Out :=
  match k with
  | .trap st => .next (takeStop s st)
  | .absent va => .next (readFault s va (sourceFor s.team va 1) 0)
  | .gate va => .next (askGate s (focusWho s) va)
  | .held va => .next (takeStop s (scalarStop s 0x14 va))
  | .later => .next s

/-- The outcome of an S-word whose checks give a state or what keeps it. -/
def attempt (s : State) (r : Except Stuck State) : Out :=
  match r with
  | .ok s' => .next s'
  | .error k => unstick s k

/-- A trap of the S-word at the scalar PC, as what keeps it from its effect. -/
def trapping {α : Type} (s : State) (cause : Nat) (va : Nat := 0) (reason : Nat := 0) : Except Stuck α :=
  .error (.trap (scalarStop s cause va reason))

/-- A check that traps when a cause is given. -/
def checkTrap (s : State) (c : Option Nat) (va : Nat) : Except Stuck Unit :=
  match c with
  | some cause => trapping s cause va
  | none => .ok ()

/-- A check that must hold, with the cause that it raises. -/
def require (s : State) (ok : Bool) (cause : Nat) (va : Nat := 0) (reason : Nat := 0) : Except Stuck Unit :=
  if ok then .ok () else trapping s cause va reason

/-- `n` bytes read by the focus team as `ld` reads (R164), own stores first; each 64 B sector is one access (R101). -/
def teamRead (s : State) : Nat → Nat → Except Stuck (List Byte)
  | _, 0 => .ok []
  | va, n + 1 =>
    match loadGot s (focusWho s) va 1 with
    | .value v =>
      match teamRead s (va + 1) n with
      | .ok bs => .ok (BitVec.ofNat 8 v :: bs)
      | .error k => .error k
    | .absent => .error (.absent va)
    | .wait => .error (.gate va)
    | .held => .error (.held va)

/-- The state changes in the caches that a read of `n` bytes makes (R394). -/
def touchBytes (s : State) (va n : Nat) : State :=
  if n = 0 then s
  else (List.range ((va + n - 1) / 64 - va / 64 + 1)).foldl (fun s i => afterLoad s (focusWho s) (sectorOf va + 64 * i)) s

end Sys2Proof.Machine
end

