-- ==== Sys2Proof/Machine/Mailbox.lean ====
section
/-! DEFINITION. What a host writes in the mailbox (R437). -/

namespace Sys2Proof.Machine

/-- The firmware's record changed. -/
def setFw (s : State) (f : Firmware) : State := { s with fw := f }

/-- A byte that a host writes in the mailbox (R437): in the request area it is ignored while busy is 1, in byte 3 of the status word a 1 in
bit 7 sets busy, and every other byte is read-only. -/
def mailByte (s : State) (off : Nat) (b : Byte) : State :=
  if 0x100 ≤ off && off < 0x200 then
    if s.fw.busy then s else setFw s { s.fw with request := (fit 0x100 s.fw.request).set (off - 0x100) b }
  else if off = 3 && b.toNat / 128 = 1 then setFw s { s.fw with busy := true }
  else s

/-- A host's write of bytes in the mailbox, in rising order of their offsets (R437). -/
def mailWrite (s : State) (off : Nat) (bytes : List Byte) : State :=
  ((List.range bytes.length).zip bytes).foldl (fun s x => mailByte s (off + x.1) x.2) s

end Sys2Proof.Machine
end

