-- ==== Sys2Proof/Machine/Issue.lean ====
section
/-! DEFINITION. What stands between a team's streams and its instructions: fetching and decoding (R160, R149), the waits
between the two streams (R25, R57, R163, R178, R194, R258, R264), stops at boundaries (R360), and single stepping (R343). -/

namespace Sys2Proof.Machine

/-- What a fetch at the scalar PC comes to. -/
inductive Fetched where
  | word (w : Half)
  | wait
  | absent
  | trap (cause : Nat)
deriving DecidableEq, Repr

/-- The 64 B of code at a VA brought into an instruction cache, the oldest leaving when it is full (R12; assumption log 64). -/
def fillCode (s : State) (w : Who) (lane : Bool) (va : Nat) : State :=
  match codeLine s w lane va with
  | some _ => s
  | none =>
    let mine := s.cores.code.filter fun c => c.core = w.core && c.lane = lane
    let rest := match mine with
      | old :: _ => if (if lane then Config.laneCode else Config.scalarCode) ≤ mine.length then s.cores.code.erase old else s.cores.code
      | [] => s.cores.code
    let new : CodeLine := {
      core := w.core, lane := lane, asid := tagOf w.asid va, sec := sectorOf va, bytes := readBytes s w (sectorOf va) 64 }
    { s with cores := { s.cores with code := rest ++ [new] } }

/-- The fetch of the S-word at the scalar PC (R160): SX under R84, then the scalar instruction cache, and memory behind it. The word that
TVEC names is fetched as any other (R332; assumption log 76). -/
def fetchScalar (s : State) : Fetched :=
  let w := focusWho s
  let pc := s.team.pc.toNat
  match addrTrap s w pc 4 .sx with
  | some c => .trap c
  | none =>
    match cachedCode s w false pc 4 with
    | some bs => .word (BitVec.ofNat 32 (ofBytes bs))
    | none =>
      match gateAt s w pc with
      | .absent => .absent
      | .wait => .wait
      | .go => .word (BitVec.ofNat 32 (ofBytes (readBytes s w pc 4)))

/-- The scalar registers that an S-word reads. -/
def scalarReads (i : Instr) : List SReg :=
  match i with
  | .add _ a b | .sub _ a b | .mul _ a b | .mulhS _ a b | .mulhZ _ a b | .divS _ a b | .divZ _ a b | .remS _ a b
  | .remZ _ a b | .and _ a b | .or _ a b | .xor _ a b | .shl _ a b | .shr _ a b | .sra _ a b | .minS _ a b
  | .minZ _ a b | .maxS _ a b | .maxZ _ a b | .sltS _ a b | .sltZ _ a b | .seq _ a b | .post _ a b
  | .cwait a b | .qpush a b | .rptinv a b | .cacheWb a b | .cacheInv a b | .cacheWbinv a b | .cacheDiscard a b => [a, b]
  | .sel d a b | .amoS32 _ _ d a b | .amoZ32 _ _ d a b | .amo64 _ _ d a b | .amoF32 _ _ d a b | .lloop d a b _
  | .cacheBind d a b => [d, a, b]
  | .clz _ a | .ctz _ a | .popc _ a | .addi _ a _ | .andi _ a _ | .ori _ a _ | .xori _ a _ | .shli _ a _ | .shri _ a _
  | .srai _ a _ | .slti _ a _ | .ld _ _ a _ | .bc _ a _ | .jr a | .callr a | .lrun a _ | .cpwait a | .mxpost a
  | .own _ _ a | .ownQuery _ a | .coll _ a | .qpop _ a | .gseq _ a | .crvld a | .csrw a _ | .cacheUnbind a
  | .cancel _ a | .ctr _ _ a | .tstop a => [a]
  | .st _ d a _ => [d, a]
  | .lsh d _ => [d]
  | .ret => [95]
  | _ => []

/-- The scalar registers that an S-word writes. -/
def scalarWrites (i : Instr) : List SReg :=
  match i with
  | .add d _ _ | .sub d _ _ | .mul d _ _ | .mulhS d _ _ | .mulhZ d _ _ | .divS d _ _ | .divZ d _ _ | .remS d _ _
  | .remZ d _ _ | .and d _ _ | .or d _ _ | .xor d _ _ | .shl d _ _ | .shr d _ _ | .sra d _ _ | .minS d _ _
  | .minZ d _ _ | .maxS d _ _ | .maxZ d _ _ | .sltS d _ _ | .sltZ d _ _ | .seq d _ _ | .sel d _ _ | .post d _ _
  | .clz d _ | .ctz d _ | .popc d _ | .addi d _ _ | .andi d _ _ | .ori d _ _ | .xori d _ _ | .shli d _ _ | .shri d _ _
  | .srai d _ _ | .slti d _ _ | .limm d _ | .lsh d _ | .lpc d _ | .ld _ d _ _ | .amoS32 _ _ d _ _ | .amoZ32 _ _ d _ _
  | .amo64 _ _ d _ _ | .amoF32 _ _ d _ _ | .cpclose d | .own _ d _ | .ownQuery d _ | .coll d _ | .qpop d _
  | .gseq d _ | .csrr d _ | .ctr _ d _ => [d]
  | .call _ | .callr _ => [95]
  | _ => []

/-- The scalar register that an L-word writes (R49): the destination of `vred` and of two forms of `mget`. -/
def laneScalarDest (w : LWord) : Option Nat :=
  let f := laneFields w
  match laneUses (laneOpcode w) f.ty.toNat f.md.toNat f.b.toNat with
  | some u => if (u.d = .ds || u.d = .dvs) && scaCode f.d.toNat then some (f.d.toNat - 1536) else none
  | none => none

/-- Whether a queued L-word writes a scalar register (R25). -/
def laneWrites (q : List LaneEntry) (r : Nat) : Bool := q.any fun e => laneScalarDest e.word = some r

/-- Whether an L-word is of the memory class, or may run words of it (R163, R259). -/
def laneTouchesMemory (e : LaneEntry) : Bool := isMemOp (laneOpcode e.word) || laneOpcode e.word = 0x280

/-- Whether an S-word waits for earlier memory-class L-words: those of R163, with `mxpost`, which reads its record so (R274), and the fences and releases above team scope, which
order the accesses of earlier L-words with the rest (R113, R183, R184, R187; assumption log 12). -/
def waitsForLaneMemory (i : Instr) : Bool :=
  match i with
  | .ld .. | .st .. | .amoS32 .. | .amoZ32 .. | .amo64 .. | .amoF32 .. | .cwait .. | .crvld .. | .gseq .. | .post ..
  | .cacheWb .. | .cacheInv .. | .cacheWbinv .. | .cacheDiscard .. | .cacheBind .. | .cacheUnbind .. | .mxpost .. => true
  | .cbar | .rfence | .gfence | .qpush .. | .qpop .. => true
  | .fence _ scope => scope ≠ 0
  | _ => false

/-- The CSRs whose access waits for the lane stream (R57). -/
def csrWaits (n : BitVec 12) : Bool := (5 ≤ n.toNat && n.toNat ≤ 11)

/-- Whether an S-word waits for every earlier L-word (R57, R194, R264). -/
def waitsForLanes (i : Instr) : Bool :=
  match i with
  | .csrr _ n | .csrw _ n => csrWaits n
  | .crvld .. | .own .. | .ownQuery .. => true
  | _ => false

/-- Whether an `own` names a tile outside the team's window, which traps before it waits (R264). -/
def ownStray (t : Team) (i : Instr) : Bool :=
  match i with
  | .own _ _ a | .ownQuery _ a => !inWindow t (if a.toNat < 96 then sget 0 t.regs.s a.toNat else 0).toNat
  | _ => false

/-- Whether an `lrun` or `lloop` has appended words already and goes on with what it has read (R177). -/
def appending (t : Team) (i : Instr) : Bool :=
  match i with
  | .lrun .. | .lloop .. => t.lane.append.isSome
  | _ => false

/-- Whether an S-word must wait for L-words in the queue; in handler mode none of these waits is made (R332), and an `lrun` or `lloop` that
has read its operands waits for none (R177). -/
def streamWait (t : Team) (i : Instr) : Bool :=
  let q := t.lane.queue
  !t.sys.handler && !appending t i
    && ((scalarReads i ++ scalarWrites i).any (fun r => laneWrites q r.toNat)
      || (!(scalarWrites i).isEmpty && q.any (fun e => laneOpcode e.word = 0x280))
      || (waitsForLaneMemory i && q.any laneTouchesMemory)
      || (waitsForLanes i && !q.isEmpty && !ownStray t i))

/-- The waits for L-words that are waits of R198 at which a team may be cancelled (R39, R184, R198). -/
def waitCancels (i : Instr) : Bool :=
  match i with
  | .cbar | .cwait .. | .gfence | .qpop .. => true
  | _ => false

/-- The value captured for an operand field of a queue entry (R336). -/
def capFor (e : LaneEntry) (slot : Nat) : Word :=
  match slot with
  | 0 => e.capD
  | 1 => e.capA
  | 2 => e.capB
  | 3 => e.capC
  | _ => e.capE

/-- The code of an operand field of an L-word: 0 D, 1 A, 2 B, 3 C, 4 E. -/
def codeFor (f : LaneFields) (slot : Nat) : Nat :=
  match slot with
  | 0 => f.d.toNat
  | 1 => f.a.toNat
  | 2 => f.b.toNat
  | 3 => f.c.toNat
  | _ => f.e.toNat

/-- The value that an operand code captures at enqueue: the scalar register's, and 0 for any other code (R25, R336). -/
def captureCode (t : Team) (c : Nat) : Word := if scaCode c then sget 0 t.regs.s (c - 1536) else 0

/-- Whether a field of this use names a register at all (R336): unused fields and raw numbers do not. -/
def FieldUse.names (u : FieldUse) : Bool :=
  match u with
  | .unused | .raw _ => false
  | _ => true

/-- The uses of an L-word's fields; none of them used where the word is illegal. -/
def wordUses (w : LWord) : Uses :=
  let f := laneFields w
  (laneUses (laneOpcode w) f.ty.toNat f.md.toNat f.b.toNat).getD {}

/-- An L-word as a queue entry of a team: its scalar operands captured now, and 0 for a field that names no scalar register (R25, R336). -/
def captureEntry (t : Team) (w : LWord) (iter va : Nat) : LaneEntry :=
  let f := laneFields w
  let u := wordUses w
  let cap (u : FieldUse) (c : Nat) : Word := if u.names then captureCode t c else 0
  { word := w, iter := iter, va := va
    capD := cap u.d f.d.toNat, capA := cap u.a f.a.toNat, capB := cap u.b f.b.toNat
    capC := cap u.c f.c.toNat, capE := cap u.e f.e.toNat }

/-- Whether a queue entry holds a computed code that is no vector register: one that did not fit is in the captured slot of a field
that names a vector register (R141). -/
def overflowed (e : LaneEntry) : Bool :=
  e.bad || (List.range 5).any fun k => codeFor (laneFields e.word) k < 1536 && capFor e k ≠ 0

/-- The detail that a report of the head L-word carries: the distinct word's index while an `xiss` runs one, else the `lloop`
iteration (R355, R362). -/
def wordDetail (t : Team) (e : LaneEntry) : Nat :=
  match t.lane.xiss1 with
  | some b => b.next
  | none => e.iter

/-- The stop of the L-word at the head of the queue (R360, R362); causes 0x04 to 0x09 and 0x0C take four slots. -/
def laneStop (s : State) (cause : Nat) (va : Nat := 0) (lanes : Lanes := 0) (reason : Nat := 0) : Stop :=
  match s.team.lane.queue with
  | e :: _ => {
      cause := cause, reason := reason, va := va, iva := e.va, detail := wordDetail s.team e, word := e.word.toNat, lanes := lanes
      four := (0x04 ≤ cause && cause ≤ 0x09) || cause = 0x0C }
  | [] => { cause := cause, reason := reason, va := va, lanes := lanes, four := (0x04 ≤ cause && cause ≤ 0x09) || cause = 0x0C }

/-- What comes before a team issues: its own `cancel` (R39), then a halt request and a stop due at this boundary (R342, R360,
R366), in a handler too, where it is a nested trap (R333). None when nothing is due. -/
def boundary (s : State) : Option State :=
  let t := s.team
  if t.ord.ownCancel && cancelling s t then some (cancelTeam s)
  else match t.ord.stops with
    | st :: rest => some (takeStop (setTeam s { t with ord := { t.ord with stops := rest } }) st)
    | [] => if t.ord.haltReq then some (haltCrew s (stopWord 0x1D 0 0 true false t.ord.expired)) else none

/-- Whether something comes before the focus team's next instruction. -/
def due (s : State) : Bool :=
  let o := s.team.ord
  (o.ownCancel && cancelling s s.team) || !o.stops.isEmpty || o.haltReq

/-- Whether an S-word has completed: the PC has moved, or it is a branch, which may keep it; a final `ret` has not while its team waits to
end (R28). -/
def scalarDone (i : Instr) (before after : Team) : Bool :=
  after.pc ≠ before.pc || (match i with
    | .b _ | .bc .. | .jr _ | .call _ | .callr _ => true
    | .ret => !after.ord.ending
    | _ => false)

/-- Whether an L-word, or one distinct word of an `xiss`, has completed (R261, R343). -/
def laneWordDone (before after : Team) : Bool :=
  after.lane.queue.length < before.lane.queue.length
    || (before.lane.xiss1.isSome && after.lane.xiss1 ≠ before.lane.xiss1)
    || (before.lane.xiss2.isSome && after.lane.xiss2 ≠ before.lane.xiss2)

/-- Whether the focus team steps (R331, R343): DBGCTL.step is set in a team of its crew. -/
def stepping (s : State) : Bool :=
  (crewOf s s.team).any fun h => match teamOf s h with
    | some t => t.sys.dbg.getLsbD 2
    | none => false

/-- The other teams of the focus team's crew have run their word under DBGCTL.step (R343). -/
def matesStepped (s : State) : Bool :=
  (crewOf s s.team).all fun h => h = s.team.card.handle || match teamOf s h with
    | some t => t.ord.stepped || t.place.run ≠ 1
    | none => true

/-- The crew halts once each of its teams has run its word (R343). -/
def stepCrew (s : State) : State :=
  if matesStepped s then haltCrew s (stopWord 0x1D 0 0 true false)
  else setTeam s { s.team with ord := { s.team.ord with stepped := true } }

/-- Words that may wait for a crewmate: one that still waits as all the others have run theirs stops at its wait (R198, R343). -/
def waitsForMates (i : Instr) : Bool :=
  match i with
  | .cbar | .cwait .. | .qpush .. | .qpop .. => true
  | _ => false

/-- After an instruction of a team under DBGCTL.step that has completed, its crew halts once each team of it has run one (R331, R343); a
team that stops has its stop instead. A crew that leaves its partitions does so once no team has accesses under way (R30). -/
def afterIssue (fin : Team → Team → Bool) (waits : Bool) (before : State) (o : Out) : Out :=
  match o with
  | .next s =>
    let t := s.team
    let mine : Bool := t.card.handle = before.team.card.handle && t.place.run = 1 && (before.team.sys.handler || !t.sys.handler)
    if stepping before && mine && (fin before.team t
        || (waits && matesStepped s && (crewOf s t).any (· ≠ t.card.handle))) then .next (stepCrew s)
    else if t.ord.leave.isSome then .next (settleLeave s t.card.handle)
    else .next s
  | o => o

/-- A trap of the scalar stream that meets an L-word between two of its passes comes once that word has completed them all, so that none is
stopped midway (R26, R199, R261): until then its S-word, which a precise trap leaves unmade (R162), is not run. -/
def betweenWords (s : State) (o : Out) : Out :=
  match o with
  | .next x =>
    if s.team.laneMid && !s.team.sys.handler && x.team.card.handle = s.team.card.handle && x.team.sys.handler then .next s else .next x
  | o => o

/-- The next S-word of the focus team (R160), none while its cluster's clocks are stopped (R438) or while it leaves its partition: what is
due at the boundary first, once its accesses under way have been made, then the fetch, the decoding, the waits for the
lane stream, and its meaning `ex`. An atomic on its way to a group window is seen through (R172). -/
def issueScalar (ex : Instr → State → Out) (s : State) : Out :=
  let t := s.team
  let h := t.card.handle
  let pc := t.pc.toNat
  if t.place.run ≠ 1 || !clocked s (coreOf t) then .next s
  else if t.ord.leave.isSome && !t.scalarAtom then .next (settleLeave s h)
  else if t.ord.stepped && !t.scalarAtom then .next (if matesStepped s then stepCrew s else s)
  else if t.ord.ending then ex (.teamRetirement h) s
  else if midWord s h && !t.scalarAtom && due s then .next s
  else match (if midWord s h then none else boundary s) with
    | some s1 => .next s1
    | none =>
      if t.ord.load.isSome then betweenWords s (ex (.loadReply h) s)
      else betweenWords s (match fetchScalar s with
        | .trap c => .next (takeStop s { scalarStop s c pc with word := 0 })
        | .absent => .next (readFault s pc 1 0)
        | .wait => .next (askGate s (focusWho s) pc)
        | .word w =>
          let s1 := fillCode s (focusWho s) false pc
          match decodeS w with
          | .error _ => .next (takeStop s1 (scalarStop s1 0x01))
          | .ok i =>
            if streamWait t i then .next (if waitCancels i then cancelPoint s1 else s1)
            else afterIssue (scalarDone i) (waitsForMates i) s1 (ex i s1))

/-- The vector registers that an operand code names in a field of this use: one, an aligned pair (R46, R47, R227), or the three
words of an issue-register base (R252). -/
def fieldRegisters (ty : Nat) (u : FieldUse) (c : Nat) : List Nat :=
  let upTo (n : Nat) : List Nat := if c < 1536 then (List.range n).map (c + ·) else []
  match u with
  | .unused | .raw _ | .dp | .ds | .uni | .pred | .base | .stride => []
  | .dv | .dvs | .src => upTo (if ty64 ty then 2 else 1)
  | .srcAs t => upTo (if ty64 t then 2 else 1)
  | .dv32 | .dvp | .src32 | .localBase | .offset => upTo 1
  | .addr => upTo 2
  | .words => upTo 3

/-- The vector registers that an L-word names. -/
def wordRegisters (w : LWord) : List Nat :=
  let f := laneFields w
  let u := wordUses w
  let ty := f.ty.toNat
  fieldRegisters ty u.d f.d.toNat ++ fieldRegisters ty u.a f.a.toNat ++ fieldRegisters ty u.b f.b.toNat
    ++ fieldRegisters ty u.c f.c.toNat ++ fieldRegisters ty u.e f.e.toNat

/-- The vector registers that an L-word writes. -/
def wordTargets (w : LWord) : List Nat := fieldRegisters (laneFields w).ty.toNat (wordUses w).d (laneFields w).d.toNat

/-- Whether a field of this use holds part of an address (R227). -/
def FieldUse.addresses (u : FieldUse) : Bool :=
  match u with
  | .addr | .base | .localBase | .offset | .stride => true
  | _ => false

/-- The vector registers from which a memory-class word takes its addresses (R227, R229). -/
def addressRegisters (w : LWord) : List Nat :=
  let f := laneFields w
  let u := wordUses w
  let ty := f.ty.toNat
  let of (u : FieldUse) (c : Nat) : List Nat := if u.addresses then fieldRegisters ty u c else []
  of u.a f.a.toNat ++ of u.b f.b.toNat ++ of u.c f.c.toNat

/-- The L-word that runs next: the head, or the distinct word that it runs as an `xiss` (R257). -/
def runningWord (t : Team) (head : LWord) : LWord :=
  match t.lane.xiss1, t.lane.xiss2 with
  | some _, some b => (b.words.getD b.next (0, 0)).1
  | some b, none => (b.words.getD b.next (0, 0)).1
  | none, _ => head

/-- The word of an `xiss` that runs, with its suppliers. -/
def currentWord (b : XissBlock) : LWord × Lanes := b.words.getD b.next (0, 0)

/-- The active mask of the running L-word: the suppliers of the distinct word that an `xiss` runs (R257), else the team's mask. -/
def wholeMask (t : Team) : Lanes :=
  match t.lane.xiss1, t.lane.xiss2 with
  | some _, some b => (currentWord b).2
  | some b, none => (currentWord b).2
  | none, _ => t.regs.mask

/-- Whether a mask word of a lane set has a lane. -/
def hasWord (m : Lanes) (w : Nat) : Bool := bits m.toNat (32 * w) 32 ≠ 0

/-- Some mask words as a set of 32 bits. -/
def wordBits (ws : List Nat) : BitVec 32 := ws.foldl (fun a w => a ||| (1#32 <<< w)) 0

/-- The lanes of some mask words. -/
def wordLanes (ws : BitVec 32) : Lanes :=
  if ws = 0 then 0
  else (List.range 32).foldl (fun a w => if ws.getLsbD w then a ||| (0xFFFFFFFF#1024 <<< (32 * w)) else a) 0

/-- The mask words whose passes are left of the word that runs, in ascending order (R22, R338). -/
def pendingWords (t : Team) : List Nat :=
  (List.range 32).filter fun w => match t.lane.again with
    | some m => hasWord m w
    | none => hasWord (wholeMask t) w && !t.lane.passes.getLsbD w

/-- Whether a register line of the focus team is in its partition's register cache (R59). -/
def holdsLine (s : State) (l : Nat × Nat) : Bool :=
  s.cores.lines.any fun x => x.core = coreOf s.team && x.part = s.team.place.part && x.team = s.team.card.handle
    && x.v = l.1 && x.w = l.2

/-- What the register lines of an L-word let it do: one is to be fetched first, or the passes run, but for those of some mask words whose
lines are not there yet. -/
inductive LinePlan where
  | fetch (line : Nat × Nat)
  | run (later : List Nat)
deriving DecidableEq, Repr

/-- The register lines that a word needs before any pass: those of the addresses of a memory-class word, which checks them all first
(R229); every line of an `xiss`, which gathers its words first (R256), and of a word with a scalar result. -/
def firstRegisters (w : LWord) : List Nat :=
  if isMemOp (laneOpcode w) then addressRegisters w
  else if laneOpcode w = 0x280 || (laneScalarDest w).isSome then wordRegisters w
  else []

/-- The passes of an L-word of the focus team that its register lines let run (R59, R338): a pass stalls until its lines are there, and
the passes before it are completed, or have been tried where lanes of them wait or have met a fault (R231); a mask word without a pass needs
none (R23). -/
def linePlan (s : State) (w : LWord) : LinePlan :=
  let there (v k : Nat) : Bool := decide (s.team.card.v ≤ v) || holdsLine s (v, k)
  let left := pendingWords s.team
  match (left.flatMap fun k => (firstRegisters w).map fun v => (v, k)).find? fun l => !there l.1 l.2 with
  | some l => .fetch l
  | none =>
    match left.dropWhile fun k => (wordRegisters w).all (there · k) with
    | [] => .run []
    | k :: ks =>
      if left.headD 0 = k || (s.team.lane.busy && s.team.lane.again.isSome) then
        match (wordRegisters w).find? (fun v => !there v k) with
        | some v => .fetch (v, k)
        | none => .run []
      else .run (k :: ks)

/-- Register lines of the focus team become the most recently used of the caches (R338). -/
def useLines (s : State) (ks : List (Nat × Nat)) : State :=
  let mine (l : HeldLine) : Bool := l.team = s.team.card.handle && ks.contains (l.v, l.w)
  setLines s fun ls => ls.filter (!mine ·) ++ ls.filter mine

/-- Register lines of the focus team marked as written since they were read (R338). -/
def dirtyLines (s : State) (ks : List (Nat × Nat)) : State :=
  setLines s fun ls => ls.map fun l => if l.team = s.team.card.handle && ks.contains (l.v, l.w) then { l with dirty := true } else l

/-- Whether an L-word is of the classes that set FLAGS or update amax: the arithmetic ones, `vscan` and `vred` (R55, R202); none of them
traps once it has decoded (R199). -/
def isFlagOp (op : Nat) : Bool := op < 0x18A

/-- The magnitudes of some passes folded into an amax accumulator (R74), they themselves an accumulator that began at +0: NaN stands there
only where `.nanprop` has put it. -/
def amaxJoin (a c : BitVec 33) : BitVec 33 :=
  let v := if isNanCode (c.toNat % 2 ^ 32) then 0x7FC00000 else a.toNat % 2 ^ 32
  let v1 := if isNanCode v then v else max v (c.toNat % 2 ^ 32)
  BitVec.ofNat 33 ((if bit c.toNat 32 || bit a.toNat 32 then 2 ^ 32 else 0) + v1)

/-- Every amax accumulator with what the passes of a word have gathered for it. -/
def amaxJoinAll (a c : SMap (BitVec 33)) : SMap (BitVec 33) :=
  c.foldl (fun m x => sset 0 m x.1 (amaxJoin (sget 0 a x.1) x.2)) a

/-- A part of a word of the arithmetic classes gathers its flags and magnitudes apart from the team's (R74, R202), beside those of the parts
before it. -/
def gatherApart (s : State) (w : LWord) (later : List Nat) : State :=
  let t := s.team
  if isFlagOp (laneOpcode w) && (!later.isEmpty || t.lane.passes ≠ 0) then
    setTeam s { t with regs := { t.regs with flags := t.lane.flags, amax := t.lane.amax } }
  else s

/-- What a part of a word that has run has gathered: kept while the word has passes left, and given to the team, `b` before it, as the word
completes (R55, R74, R202). -/
def gathered (b : Team) (w : LWord) (later : List Nat) (t : Team) : Team :=
  if isFlagOp (laneOpcode w) && (!later.isEmpty || b.lane.passes ≠ 0) then
    if later.isEmpty then
      { t with regs := { t.regs with flags := b.regs.flags ||| t.regs.flags, amax := amaxJoinAll b.regs.amax t.regs.amax } }
    else
      { t with
        regs := { t.regs with flags := b.regs.flags, amax := b.regs.amax }
        lane := { t.lane with flags := t.regs.flags, amax := t.regs.amax } }
  else t

/-- The head word about to run but for the passes of some mask words, which come later: of any other word than a memory-class one the passes
completed are left out too. The free choice of its lanes' order is fixed as it begins (R105). -/
def beginPart (s : State) (w : LWord) (later : List Nat) : State :=
  let l := s.team.lane
  let skip := wordBits later ||| (if isMemOp (laneOpcode w) then 0 else l.passes)
  let s1 := useLines s ((wordRegisters w).flatMap fun v => ((pendingWords s.team).filter (!later.contains ·)).map fun k => (v, k))
  if skip = l.skip && later.isEmpty then s1
  else setTeam s1 { s.team with lane := { l with skip := skip, drawn := if later.isEmpty then l.drawn else some (l.drawn.getD s.fresh) } }

/-- The head word after it has run but for the passes of some mask words: those that ran are completed and it stays at the head for the
rest; the register lines that it has written are dirty. -/
def afterPart (before : State) (w : LWord) (later : List Nat) (o : Out) : Out :=
  match o with
  | .next s =>
    if s.team.card.handle ≠ before.team.card.handle then .next s
    else
      let b := before.team
      let ran := (pendingWords b).filter (!later.contains ·)
      let fin := laneWordDone b s.team
      let l := s.team.lane
      let rest : LaneState := { b.lane with
        passes := b.lane.passes ||| wordBits ran, again := b.lane.again.map (· &&& ~~~ wordLanes (wordBits ran)), busy := true, skip := 0 }
      let s0 := if fin && !later.isEmpty then setTeam s { s.team with lane := rest }
        else if l.skip = 0 then s else setTeam s { s.team with lane := { l with skip := 0 } }
      let s1 := setTeam s0 (gathered b w later s0.team)
      let wrote (v k : Nat) : Bool := fin || decide (lineVals b v k ≠ lineVals s1.team v k)
      .next (dirtyLines s1 ((wordTargets w).flatMap fun v => (ran.filter (wrote v)).map fun k => (v, k)))
  | o => o

/-- The L-word at the head of the focus team's lane queue (R149): frozen in handler mode (R332), checked against the team's own
registers, its register lines fetched (R338), and then its meaning `ex`. -/
def issueLane (ex : Instr → State → Out) (s : State) : Out :=
  let t := s.team
  let h := t.card.handle
  if t.place.run ≠ 1 || !clocked s (coreOf t) then .next s
  else if t.ord.leave.isSome && !midWord s h then .next (settleLeave s h)
  else if t.sys.handler || (t.scalarAtom && !t.laneMid) || (t.ord.stepped && !midWord s h) then .next s
  else match (if midWord s h then none else boundary s) with
    | some s1 => .next s1
    | none =>
      match t.lane.queue with
      | [] => .next s
      | e :: _ =>
        if overflowed e then .next (takeStop s (laneStop s 0x01))
        else match decodeLFor t.card.v e.word with
          | .error _ => .next (takeStop s (laneStop s 0x01))
          | .ok i =>
            let w := runningWord t e.word
            match linePlan s w with
            | .fetch l => ex (.registerMissMicroTrap { team := h, v := l.1, w := l.2 } none) s
            | .run later =>
              let s1 := beginPart s w later
              afterIssue laneWordDone false s (afterPart s1 w later (ex i (gatherApart s1 w later)))

/-- One turn of an agent. -/
def runTurn (ex : Instr → State → Out) (t : Turn) (s : State) : Out :=
  match t with
  | .scalar h => issueScalar ex (focus s h)
  | .lane h => issueLane ex (focus s h)
  | .event i => ex i s
  | .mail off bytes => .next (mailWrite s off bytes)

/-- What moves when the agenda names nothing: bring-up until the module is ready or has failed, else the focus team's lane stream while it has words and
no stop is due, else its scalar stream, and nothing without a resident team. -/
def defaultTurn (s : State) : Option Turn :=
  if s.fw.phase ≤ 1 then some (.event .bringUp)
  else if s.team.place.run ≠ 1 then none
  else if !s.team.lane.queue.isEmpty && !s.team.sys.handler then some (.lane s.team.card.handle)
  else some (.scalar s.team.card.handle)

/-- The state with one more step of free values drawn (assumption log 3). -/
def tick (s : State) : State := { s with fresh := s.fresh + 1 }

/-- A state in which the page at a VA of the global range is mapped as a fault area is to be (R354): in an ordinary region of the domain of
cluster 0, with R, W and sup. -/
def withArea (s : State) (va : Nat) : State :=
  let dom := (clusterRec s 0).domain
  let entry : BitVec 64 := BitVec.ofNat 64 (2 ^ 35 + dom * 2 ^ 32 + 7)
  let p : PageEntry := { ctrl := 0, asid := 0, vpage := va / 65536, gdom := dom }
  { s with xl := { s.xl with regions := sset 0 s.xl.regions (regionKey 0 (regionNo va)) entry, pages := s.xl.pages ++ [p] } }

/-- A state with a team resident that can run: the focus team when one is resident, else a team of 32 lanes at VA 0x20_0000
of ASID 1 on core 0 with its fault area mapped, as its placement leaves it (R385, R21; assumption log 4). -/
def withTeam (s : State) : State :=
  if s.team.place.run = 1 then s
  else
    let t : Team := {
      pc := 0x200000
      card := { handle := 0x00F0000000000000, fault := 0x00F0000000100000, asid := 1, v := 1536, w := 1, lcount := 64 }
      place := { run := 1 }
      regs := { mask := 0xFFFFFFFF }
      sys := { slice := 0x100000 } }
    withArea { s with team := t } t.card.fault

/-- A state in which the focus team's scalar PC lies in a mapped page of a region with scalar-execute right. -/
def withCode (s : State) : State :=
  let w := focusWho s
  let va := s.team.pc.toNat
  let tag := tagOf w.asid va
  let entry : BitVec 64 := BitVec.ofNat 64 (0x0B + (if tag = 0 then w.domain * 2 ^ 32 else 0))
  let s1 := if (rightsTrap s w va .sx).isNone then s
    else { s with xl := { s.xl with regions := sset 0 s.xl.regions (regionKey tag (regionNo va)) entry } }
  let s2 := if tag = 0 || (asidDomain s1 tag).isSome then s1
    else { s1 with xl := { s1.xl with asids := s1.xl.asids ++ [(tag, w.domain, w.cluster)] } }
  if whereIs s2 w.domain tag va ≠ .absent then s2
  else
    let p : PageEntry := { ctrl := w.cluster, asid := tag, vpage := va / 65536, frame := va / 65536 * 16 % 2 ^ 23, gdom := if tag = 0 then w.domain else 0 }
    { s2 with xl := { s2.xl with pages := s2.xl.pages ++ [p] } }

/-- A module that is ready, with no turn on its agenda. -/
def withReady (s : State) : State := { s with agenda := [], fw := { s.fw with phase := 2 } }

/-- An S-word placed at the focus team's scalar PC, its lane queue and its core's instruction caches empty. -/
def placeScalar (s : State) (w : Nat) : State :=
  let s1 := withCode (withTeam (withReady s))
  let s2 := { setTeam s1 { s1.team with lane := {} } with cores := { s1.cores with code := [] } }
  writeBytes s2 (focusWho s2) s2.team.pc.toNat (toBytes 4 w)

/-- An L-word placed at the head of the focus team's lane queue, with the register lines that it names in the register cache. -/
def placeLane (s : State) (w : Nat) : State :=
  let s1 := withTeam (withReady s)
  let word : LWord := BitVec.ofNat 96 w
  let t := s1.team
  let need := (wordRegisters word).eraseDups.flatMap fun v => (List.range t.card.w).map fun k => (v, k)
  let new := (need.filter fun l => !holdsLine s1 l).map fun l =>
    ({ core := coreOf t, part := t.place.part, team := t.card.handle, v := l.1, w := l.2 } : HeldLine)
  setTeam (setLines s1 (· ++ new)) { t with lane := { queue := [captureEntry t word 0 0x400000] } }

end Sys2Proof.Machine
end

