-- ==== Sys2Proof/Machine/LaneFeed.lean ====
section
/-! DEFINITION. Feeding the lane queue: `lrun` (R175), `lloop` with its step record (R140, R141, R176), the words that wait for
entries (R177), and `lsync` (R178). -/

namespace Sys2Proof.Machine

/-- The privilege trap of an instruction that a handler may not use (R332). -/
def inHandler (s : State) : Bool := s.team.sys.handler

/-- The check of a fetched range (R150): address form, the copy aperture (R284), a right in every region, alignment. -/
def fetchTrap (s : State) (va n align : Nat) (need : Right) : Option Nat :=
  if 2 ^ 56 ≤ va || 2 ^ 56 < va + n then some 0x04
  else match rangeTrap s (focusWho s) va n need with
    | some c => some c
    | none => if va % align ≠ 0 then some 0x07 else none

/-- The sectors of a range of bytes, by a VA in each. -/
def sectorVas (va n : Nat) : List Nat :=
  if n = 0 then []
  else (List.range ((va + n - 1) / 64 - va / 64 + 1)).map fun i => if i = 0 then va else sectorOf va + 64 * i

/-- A fetched range of lane code, whole or not at all (R150): what keeps a sector that the lane instruction cache does not hold, or the
bytes. -/
def fetchRange (s : State) (va n : Nat) : Except Stuck (List Byte) :=
  let w := focusWho s
  let miss := (sectorVas va n).filter fun a => (codeLine s w true a).isNone
  match miss.find? fun a => gateAt s w a = .absent with
  | some a => .error (.absent a)
  | none =>
    match miss.find? fun a => gateAt s w a = .wait with
    | some a => .error (.gate a)
    | none => .ok ((List.range n).map fun i => match codeLine s w true (va + i) with
        | some c => c.bytes.getD ((va + i) % 64) 0
        | none => readByte s w (va + i))

/-- A fetched range brought into the lane instruction cache (R12). -/
def fillRange (s : State) (va n : Nat) : State := (sectorVas va n).foldl (fun s a => fillCode s (focusWho s) true a) s

/-- The L-words that some bytes hold (R142). -/
def wordsOf (bs : List Byte) (n : Nat) : List LWord := (List.range n).map fun k => BitVec.ofNat 96 (field bs (12 * k) 12)

/-- The bit position of an operand field: 0 D, 1 A, 2 B, 3 C, 4 E (R142). -/
def fieldPos (slot : Nat) : Nat :=
  match slot with
  | 0 => 67 | 1 => 56 | 2 => 45 | 3 => 34 | _ => 23

/-- An L-word with an operand field replaced. -/
def withCodeAt (w : LWord) (slot c : Nat) : LWord :=
  let p := fieldPos slot
  let x := w.toNat
  BitVec.ofNat 96 (x - bits x p 11 * 2 ^ p + c % 2048 * 2 ^ p)

/-- The fields of a step record entry (R140): wrap, step, slot and word. -/
def stepFields (e : Half) : Nat × Int × Nat × Nat :=
  let x := e.toNat
  (bits x 24 8, sInt 16 (bits x 8 16), bits x 5 3, bits x 0 5)

/-- The code that a step entry gives a field in an iteration (R141). -/
def steppedCode (c : Nat) (i : Nat) (e : Half) : Int :=
  let f := stepFields e
  let d : Int := (i : Int) * f.2.1
  (c : Int) + (if f.1 = 0 then d else d % (f.1 : Int))

/-- A captured value put into the slot of an operand field. -/
def setCap (q : LaneEntry) (slot : Nat) (x : Word) : LaneEntry :=
  match slot with
  | 0 => { q with capD := x }
  | 1 => { q with capA := x }
  | 2 => { q with capB := x }
  | 3 => { q with capC := x }
  | _ => { q with capE := x }

/-- The queue entry of body word `k` in iteration `i` (R141, R336): the stepped codes in its fields, its scalar operands captured
now, and a computed code that does not fit in the field's captured slot; one that is no vector register of the team makes the word
illegal, whatever its field is for. -/
def loopEntry (t : Team) (body : List LWord) (steps : List Half) (base i k : Nat) : LaneEntry :=
  let w := body.getD k 0
  let mine := steps.filter fun e => (stepFields e).2.2.1 ≠ 0 && (stepFields e).2.2.2 = k
  let code (e : Half) : Int := steppedCode (codeFor (laneFields w) ((stepFields e).2.2.1 - 1)) i e
  let fits (e : Half) : Bool := decide (0 ≤ code e) && decide (code e < 2048)
  let w1 := mine.foldl (fun w e => if fits e then withCodeAt w ((stepFields e).2.2.1 - 1) (code e).toNat else w) w
  let q := { captureEntry t w1 i (base + 12 * k) with
    bad := mine.any fun e => fits e && decide ((t.card.v : Int) ≤ code e) }
  mine.foldl (fun q e => if fits e then q else setCap q ((stepFields e).2.2.1 - 1) (BitVec.ofInt 64 (code e))) q

/-- The illegal step records (R141); an entry whose slot is unused says nothing, whatever its word (assumption log 80). -/
def stepsIllegal (body : List LWord) (steps : List Half) : Bool :=
  let used := steps.filter fun e => (stepFields e).2.2.1 ≠ 0
  used.any (fun e =>
      let f := stepFields e
      decide (6 ≤ f.2.2.1) || decide (body.length ≤ f.2.2.2)
        || decide (1536 ≤ codeFor (laneFields (body.getD f.2.2.2 0)) (f.2.2.1 - 1)))
    || (used.map fun e => ((stepFields e).2.2.1, (stepFields e).2.2.2)).eraseDups.length ≠ used.length

/-- The entries of the lane queue that are free (R24). -/
def queueRoom (t : Team) : Nat := Config.queueDepth - t.lane.queue.length

/-- The state with entries appended to the lane queue. -/
def enqueue (s : State) (es : List LaneEntry) : State :=
  setTeam s { s.team with lane := { s.team.lane with queue := s.team.lane.queue ++ es } }

/-- The state with the append state set (R177). -/
def setAppend (s : State) (a : Option Append) : State :=
  setTeam s { s.team with lane := { s.team.lane with append := a } }

/-- Whether a word names a scalar register that an L-word still in the queue writes, so that its capture must wait (R25). -/
def captureWaits (q : List LaneEntry) (e : LaneEntry) : Bool :=
  (List.range 5).any fun k =>
    let c := codeFor (laneFields e.word) k
    scaCode c && laneWrites q (c - 1536)

/-- Words from number `done` on appended one by one while the queue has room and no capture must wait (R24, R25): the state and
the number then appended. -/
def appendFrom (entry : Team → Nat → LaneEntry) (total : Nat) : Nat → Nat → State → State × Nat
  | 0, done, s => (s, done)
  | n + 1, done, s =>
    let e := entry s.team done
    if total ≤ done || queueRoom s.team = 0 || captureWaits s.team.lane.queue e then (s, done)
    else appendFrom entry total n (done + 1) (enqueue s [e])

/-- As many of the words that are left as may be appended now are appended (R175 to R177); with the last one the PC advances. -/
def appendMore (s : State) (a : Append) (total : Nat) (entry : Team → Nat → LaneEntry) : State :=
  let r := appendFrom entry total Config.queueDepth a.done s
  if total ≤ r.2 then advance (setAppend r.1 none) else setAppend r.1 (some { a with done := r.2 })

/-- LRUN (R150, R175, R177): the words not yet appended are checked and fetched, and appended as the queue has room; one that has begun goes
on from the address that it has read. -/
def execLrun (a : SReg) (n : BitVec 12) (s : State) : Out :=
  if inHandler s then .next (takeStop s (scalarStop s 0x02))
  else
    let total := n.toNat + 1
    let fresh : Append := { isLoop := false, done := 0, count := total, base := (readReg s a).toNat, body := [], steps := [] }
    let st : Append := match s.team.lane.append with
      | some p => if !p.isLoop && p.count = total then p else fresh
      | none => fresh
    let va := st.base + 12 * st.done
    let left := total - st.done
    match fetchTrap s va (12 * left) 4 .lx with
    | some c => .next (takeStop s (scalarStop s c va))
    | none =>
      match fetchRange s va (12 * left) with
      | .error k => unstick s k
      | .ok bs =>
        let ws := wordsOf bs left
        .next (appendMore (fillRange s va (12 * left)) st total fun t k =>
          captureEntry t (ws.getD (k - st.done) 0) 0 (st.base + 12 * k))

/-- The body and step record of `lloop` checked and read once (R140, R141, R150): the count, the body, the step record, and what the
record says, in that order (assumption log 81). -/
def readLoop (s : State) (count body steps len : Nat) : Except Stuck Append := do
  require s (decide (count < 2 ^ 32)) 0x03
  checkTrap s (fetchTrap s body (12 * len) 4 .lx) body
  if steps ≠ 0 then checkTrap s (fetchTrap s steps 32 32 .r) steps
  let bs ← fetchRange s body (12 * len)
  let es ← (if steps = 0 then .ok [] else teamRead s steps 32)
  let ws := wordsOf bs len
  let ss : List Half := if steps = 0 then [] else (List.range 8).map fun k => BitVec.ofNat 32 (field es (4 * k) 4)
  require s (!stepsIllegal ws ss) 0x01
  .ok { isLoop := true, done := 0, count := count, base := body, body := ws, steps := ss }

/-- LLOOP (R140, R141, R176, R177): one that has begun goes on with the operands, the body and the step record that it has read. -/
def execLloop (d a b : SReg) (len : BitVec 5) (s : State) : Out :=
  if inHandler s then .next (takeStop s (scalarStop s 0x02))
  else
    let n := len.toNat + 1
    let more (s : State) (st : Append) : Out :=
      .next (appendMore s st (st.count * n) fun t k => loopEntry t st.body st.steps st.base (k / n) (k % n))
    let begin_ : Out :=
      let base := (readReg s a).toNat
      let steps := (readReg s b).toNat
      match readLoop s (readReg s d).toNat base steps n with
      | .error k => unstick s k
      | .ok st => more (touchBytes (fillRange s base (12 * n)) steps (if steps = 0 then 0 else 32)) st
    match s.team.lane.append with
    | some p => if p.isLoop && p.body.length = n then more s p else begin_
    | none => begin_

/-- LSYNC (R178): it waits at a cancellation point until the lane queue has drained. -/
def execLsync (s : State) : Out :=
  if inHandler s then .next (takeStop s (scalarStop s 0x02))
  else if s.team.lane.queue.isEmpty then .next (advance s)
  else waitPoint s

end Sys2Proof.Machine
end

