-- ==== Sys2Proof/Machine/Sha.lean ====
section
/-! DEFINITION. SHA-256 (FIPS 180-4), by which the module hashes shards, cards and records (R291, R439 to R442, R444; the function
itself is taken from its public standard: assumption log 9). -/

namespace Sys2Proof.Machine

/-- The primes below a bound in rising order: a number joins those found so far when none of them divides it. -/
def primesBelow (bound : Nat) : List Nat :=
  ((List.range bound).drop 2).foldl (fun found n => if found.any fun p => n % p = 0 then found else found ++ [n]) []

/-- The largest number of so many further bits below `hi` whose power of a degree does not exceed a limit, a bit at a time from the top. -/
def rootDigits (degree limit : Nat) : Nat → Nat → Nat
  | 0, hi => hi
  | n + 1, hi =>
    let up := 2 * hi + 1
    rootDigits degree limit n (if (up * 2 ^ n) ^ degree ≤ limit then up else 2 * hi)

/-- The first 32 bits of the fraction of a number's root of a degree. -/
def rootFraction (degree x : Nat) : Half := BitVec.ofNat 32 (rootDigits degree (x * 2 ^ (32 * degree)) 40 0)

/-- The 64 round constants: the fractions of the cube roots of the first 64 primes, 2 to 311. -/
def shaRounds : List Half := (primesBelow 312).map (rootFraction 3)

/-- The initial hash value: the fractions of the square roots of the first eight primes, 2 to 19. -/
def shaInit : List Half := (primesBelow 20).map (rootFraction 2)

/-- A big-endian word of a block. -/
def beWord (bs : List Byte) : Half := bs.foldl (fun a b => (a <<< 8) ||| b.zeroExtend 32) 0

/-- `n` further words of the message schedule, the words kept newest first. -/
def shaExtend : Nat → List Half → List Half
  | 0, w => w
  | n + 1, w =>
    let w2 := w.getD 1 0
    let w7 := w.getD 6 0
    let w15 := w.getD 14 0
    let w16 := w.getD 15 0
    let s0 := w15.rotateRight 7 ^^^ w15.rotateRight 18 ^^^ (w15 >>> 3)
    let s1 := w2.rotateRight 17 ^^^ w2.rotateRight 19 ^^^ (w2 >>> 10)
    shaExtend n ((w16 + s0 + w7 + s1) :: w)

/-- The sixteen words of a 64-byte block, newest first. -/
def blockWords (bs : List Byte) : List Half :=
  ((List.range 16).map fun i => beWord ((bs.drop (4 * i)).take 4)).reverse

/-- One round on the eight working variables. -/
def shaRound (v : List Half) (kw : Half × Half) : List Half :=
  match v with
  | [a, b, c, d, e, f, g, h] =>
    let t1 := h + (e.rotateRight 6 ^^^ e.rotateRight 11 ^^^ e.rotateRight 25) + ((e &&& f) ^^^ (~~~e &&& g)) + kw.1 + kw.2
    let t2 := (a.rotateRight 2 ^^^ a.rotateRight 13 ^^^ a.rotateRight 22) + ((a &&& b) ^^^ (a &&& c) ^^^ (b &&& c))
    [t1 + t2, a, b, c, d + t1, e, f, g]
  | v => v

/-- The hash value after one block. -/
def shaBlock (h : List Half) (bs : List Byte) : List Half :=
  let ws := (shaExtend 48 (blockWords bs)).reverse
  let v := (shaRounds.zip ws).foldl shaRound h
  (h.zip v).map fun p => p.1 + p.2

/-- The hash value over `n` blocks. -/
def shaBlocks : Nat → List Half → List Byte → List Half
  | 0, h, _ => h
  | n + 1, h, bs => shaBlocks n (shaBlock h (bs.take 64)) (bs.drop 64)

/-- SHA-256 of a message: 32 bytes. -/
def sha256 (m : List Byte) : List Byte :=
  let z := (119 - m.length % 64) % 64
  let p := m ++ [0x80] ++ List.replicate z 0 ++ (toBytes 8 (8 * m.length)).reverse
  (shaBlocks (p.length / 64) shaInit p).flatMap fun w => (toBytes 4 w.toNat).reverse

end Sys2Proof.Machine
end

