-- ==== Sys2Proof/Machine/Levanter.lean ====
section
/-! DEFINITION. Levanter: the log entries that a recorded job writes (R444), and what a replayed job waits for and is checked
against (R445). -/

namespace Sys2Proof.Machine

/-- The state with Levanter's record replaced. -/
def setLev (s : State) (l : Levanter) : State := { s with fw := { s.fw with lev := l } }

/-- Levanter as it reaches its log buffer (R444): in the domain of the region that a VA of the global range lies in (R445; assumption log 56). -/
def logWho (s : State) (va : Nat) : Who := hwWho (eGdom (tableEntry s 0 va)) 0

/-- Whether the log that a replay reads waits at its home (R116, R420). -/
def logWaits (s : State) : Bool := s.fw.lev.state = 2 && gateWaits s (logWho s s.fw.lev.log) s.fw.lev.log s.fw.lev.bytes

/-- The requests that a replay sends as its log waits. -/
def askLog (s : State) : State :=
  if logWaits s then askGates s (logWho s s.fw.lev.log) s.fw.lev.log s.fw.lev.bytes else s

/-- A log entry appended (R444): its header, then the payload from byte 0x10, zeros after it; a full buffer stops the recording. -/
def levAppend (s : State) (kind : Nat) (payload : List Byte) : State :=
  let l := s.fw.lev
  if l.bytes < (l.count + 1) * 64 then setLev s { l with state := 4, overflow := true }
  else
    let bs := toBytes 8 kind ++ toBytes 8 l.count ++ fit 48 payload
    setLev (hwWrite s (logWho s (l.log + 64 * l.count)).domain 0 (l.log + 64 * l.count) bs) { l with count := l.count + 1 }

/-- Levanter records a job (R444). -/
def levRecords (s : State) (job : Nat) : Bool := s.fw.lev.state = 1 && s.fw.lev.job = job
/-- Levanter replays a job (R445). -/
def levReplays (s : State) (job : Nat) : Bool := s.fw.lev.state = 2 && s.fw.lev.job = job

/-- The handle of a team's launch (R388): the VA of its counter word. -/
def launchHandle (s : State) (t : Team) : Nat := ((levelRec s t.card.launch).map (·.va)).getD 0

/-- The entry of an index in the log. -/
def levEntry (s : State) (i : Nat) : List Byte := hwRead s (logWho s (s.fw.lev.log + 64 * i)).domain 0 (s.fw.lev.log + 64 * i) 64

/-- The entries of the log that a replay drives. -/
def levLength (s : State) : Nat := s.fw.lev.bytes / 64

/-- The first entry of a kind that the replay has not used and that a test accepts. -/
def levFind (s : State) (kind : Nat) (p : List Byte → Bool) : Option Nat :=
  (List.range (levLength s)).find? fun i =>
    !s.fw.lev.used.contains i && field (levEntry s i) 0 1 = kind && p (levEntry s i)

/-- An entry has been replayed; with the last one the replay is finished (R445). -/
def levUse (s : State) (i : Nat) : State :=
  let l := s.fw.lev
  let used := l.used ++ [i]
  setLev s { l with used := used, count := used.length, state := if used.length = levLength s then 5 else l.state }

/-- A divergence at an entry (R445): the job is cancelled, and the status names the entry. -/
def levDiverge (s : State) (i : Nat) : State :=
  settleLevels (sweepSaved (cancelLevel (setLev s { s.fw.lev with state := 3, diverged := i }) s.fw.lev.job))

/-- An entry is compared with what the replay did. -/
def levCheck (s : State) (i : Nat) (same : Bool) : State := if same then levUse s i else levDiverge s i

/-- The first 16 bytes of a SHA-256 (R444). -/
def digest16 (bs : List Byte) : List Byte := (sha256 bs).take 16

/-- The number of recorded atomics applied to a location so far (R444). -/
def levLocation (s : State) (tag va : Nat) : Nat :=
  match s.fw.lev.locs.find? (fun e => e.1 = tag && e.2.1 = va) with
  | some e => e.2.2
  | none => 0

/-- The number of atomics that a team has made so far under Levanter (R444). -/
def levMade (s : State) (h : Nat) : Nat :=
  match s.fw.lev.made.find? (·.1 = h) with
  | some e => e.2
  | none => 0

/-- The counts of a location and of a team raised by an atomic. -/
def levCount (s : State) (h tag va : Nat) : State :=
  let l := s.fw.lev
  let locs := (l.locs.filter fun e => !(e.1 = tag && e.2.1 = va)) ++ [(tag, va, levLocation s tag va + 1)]
  let made := (l.made.filter fun e => e.1 ≠ h) ++ [(h, levMade s h + 1)]
  setLev s { l with locs := locs, made := made }

/-- The entry of a replayed team's next atomic. -/
def levAtomicEntry (s : State) (t : Team) : Option Nat :=
  levFind s 2 fun e => field e 0x10 8 = launchHandle s t && field e 0x18 4 = t.card.tix && field e 0x1C 4 = levMade s t.card.handle

/-- A replayed atomic waits until as many recorded atomics as its location index have been applied to its location (R445). -/
def levMayAtomic (s : State) (t : Team) (tag va : Nat) : Bool :=
  if levReplays s t.card.job then
    !logWaits s && match levAtomicEntry s t with
    | some i => decide (field (levEntry s i) 0x28 8 ≤ levLocation s tag va)
    | none => true
  else true

/-- An atomic of a team has read an old value (R444, R445). -/
def levAtomic (s : State) (t : Team) (tag va old : Nat) : State :=
  let h := t.card.handle
  if levRecords s t.card.job then
    let p := toBytes 8 (launchHandle s t) ++ toBytes 4 t.card.tix ++ toBytes 4 (levMade s h) ++ toBytes 8 va
      ++ toBytes 8 (levLocation s tag va) ++ toBytes 8 old ++ toBytes 2 tag
    levCount (levAppend s 2 p) h tag va
  else if levReplays s t.card.job then
    match levAtomicEntry s t with
    | some i => levCheck (levCount s h tag va) i (field (levEntry s i) 0x30 8 = old)
    | none => levCount s h tag va
  else s

/-- A copy of a team has read its source bytes (R444 kind 5, R445). -/
def levCopy (s : State) (t : Team) (tmpl : Nat) (bytes : List Byte) : State :=
  if levRecords s t.card.job then
    levAppend s 5 (toBytes 8 tmpl ++ toBytes 8 (launchHandle s t) ++ toBytes 8 t.card.tix ++ digest16 bytes)
  else if levReplays s t.card.job then
    match levFind s 5 fun e => field e 0x10 8 = tmpl && field e 0x18 8 = launchHandle s t && field e 0x20 4 = t.card.tix with
    | some i => levCheck s i ((levEntry s i).drop 0x28 |>.take 16 |> fun x => x = digest16 bytes)
    | none => s
  else s

/-- Whether a replayed card may be fetched now (R445): the next card of the log is of this queue and slot. -/
def levMayCard (s : State) (job cluster queue slot : Nat) : Bool :=
  if levReplays s job then
    !logWaits s && match levFind s 1 (fun _ => true) with
    | some i =>
      let e := levEntry s i
      field e 0x10 1 = cluster && field e 0x12 2 = queue && field e 0x18 8 = slot
    | none => true
  else true

/-- A card of a job has been fetched (R444 kind 1, R445). -/
def levCard (s : State) (job cluster queue slot : Nat) (card : List Byte) : State :=
  if levRecords s job then
    levAppend s 1 (toBytes 2 cluster ++ toBytes 6 queue ++ toBytes 8 slot ++ digest16 card)
  else if levReplays s job then
    match levFind s 1 (fun _ => true) with
    | some i => levCheck s i ((levEntry s i).drop 0x20 |>.take 16 |> fun x => x = digest16 card)
    | none => s
  else s

/-- The jobs of the communication teams of a group at this module; Levanter's job among them decides whether a stamp or an
arrival is logged. -/
def levGroupJob (s : State) (g : Nat) : Bool :=
  match groupOf s g with
  | none => false
  | some r =>
    r.locals.any fun x => s.sched.levels.any fun l =>
      l.kind = 0 && l.va = x.2.2 && decide (l.va ≠ 0) && (match levelRec s (grandParent s l) with
        | some ph => ph.parent = s.fw.lev.job
        | none => false)

/-- Whether the stamp of a request may be given now (R445): the log's stamp of that request is the next one. -/
def levMayStamp (s : State) (r : GroupReq) (stamp : Nat) : Bool :=
  if s.fw.lev.state = 2 && levGroupJob s r.group then
    !logWaits s && match levFind s 3 fun e => field e 0x10 2 = r.group && field e 0x12 2 = r.src && field e 0x14 4 = r.number with
    | some i => field (levEntry s i) 0x18 8 = stamp
    | none => true
  else true

/-- A stamp has been given to a request (R444 kind 3, R445). -/
def levStamp (s : State) (r : GroupReq) (stamp : Nat) : State :=
  if !levGroupJob s r.group then s
  else if s.fw.lev.state = 1 then
    levAppend s 3 (toBytes 2 r.group ++ toBytes 2 r.src ++ toBytes 4 r.number ++ toBytes 8 stamp)
  else if s.fw.lev.state = 2 then
    match levFind s 3 fun e => field e 0x10 2 = r.group && field e 0x12 2 = r.src && field e 0x14 4 = r.number with
    | some i => levUse s i
    | none => s
  else s

/-- Whether an arrival entry may be appended now (R445): the log's next arrival of this rank is this one. -/
def levMayArrive (s : State) (job group slot tile rank issue : Nat) : Bool :=
  if levReplays s job then
    !logWaits s && match levFind s 4 fun e => field e 0x10 2 = group && field e 0x16 2 = rank && field e 0x18 8 = issue with
    | some i => field (levEntry s i) 0x12 2 = slot && field (levEntry s i) 0x14 2 = tile
    | none => true
  else true

/-- An arrival entry has been appended (R444 kind 4, R445). -/
def levArrive (s : State) (job group slot tile rank issue : Nat) : State :=
  if levRecords s job then
    levAppend s 4 (toBytes 2 group ++ toBytes 2 slot ++ toBytes 2 tile ++ toBytes 2 rank ++ toBytes 8 issue)
  else if levReplays s job then
    match levFind s 4 fun e => field e 0x10 2 = group && field e 0x16 2 = rank && field e 0x18 8 = issue with
    | some i => levUse s i
    | none => s
  else s

end Sys2Proof.Machine
end

