-- ==== Sys2Proof/Machine/Shapes.lean ====
section
/-! DEFINITION. Tensor shape records (R99, R63, R72), the record cache (R100), and an engine's accesses to memory for a team
(R290, R292, R299). -/

namespace Sys2Proof.Machine

/-- A tensor shape record (R99). -/
structure Shape where
  rank : Nat
  fmt : Nat
  flags : Nat
  base : Nat
  dims : List Nat
  strides : List Int
  tiles : List Nat
  scales : Nat
  digest : Nat
deriving DecidableEq, Repr

/-- The fields of a record's 192 bytes (R99); dimensions at or above the rank are left out. -/
def shapeOf (bs : List Byte) : Shape :=
  let rank := field bs 0 1
  let n := if rank ≤ 8 then rank else 0
  { rank := rank, fmt := field bs 1 1, flags := field bs 2 1, base := field bs 8 8
    dims := (List.range n).map fun k => field bs (0x10 + 4 * k) 4
    strides := (List.range n).map fun k => sInt 64 (field bs (0x30 + 8 * k) 8)
    tiles := (List.range n).map fun k => field bs (0x70 + 2 * k) 2
    scales := field bs 0x80 8, digest := field bs 0x88 8 }

/-- The bits of one element. -/
def Shape.bits (r : Shape) : Nat := widthOf r.fmt
/-- Whether a record is block-scaled. -/
def Shape.scaled (r : Shape) : Bool := bit r.flags 0
/-- The block size of a record. -/
def Shape.block (r : Shape) : Nat := if bit r.flags 1 then 32 else 16
/-- Whether a record has a digest. -/
def Shape.hasDigest (r : Shape) : Bool := bit r.flags 2
/-- The number of elements. -/
def Shape.count (r : Shape) : Nat := r.dims.foldl (· * ·) 1
/-- The outermost dimension. -/
def Shape.outer (r : Shape) : Nat := r.dims.getLastD 1

/-- The checks of a record (R99). -/
def shapeOk (r : Shape) : Bool :=
  let ext := (r.tiles.zip r.dims).foldl (fun n p => n * (if p.1 = 0 then p.2 else p.1)) 1
  decide (1 ≤ r.rank) && decide (r.rank ≤ 8) && decide (r.fmt ≤ 15) && decide (r.flags < 8)
    && (!r.scaled || r.dims.headD 0 % r.block = 0) && decide (ext * widthOf r.fmt ≤ 4096 * 8)

/-- The element offset of an index tuple (R99). -/
def offsetAt (strides : List Int) (idx : List Nat) : Int :=
  (strides.zip idx).foldl (fun a p => a + p.1 * (p.2 : Int)) 0

/-- The interval of offsets that some extents reach on some strides; none when an extent is 0. -/
def offsetSpan (strides : List Int) (dims : List Nat) : Option (Int × Int) :=
  if dims.any (· = 0) then none
  else some ((strides.zip dims).foldl (fun a p =>
    let x := p.1 * ((p.2 : Int) - 1)
    (a.1 + min 0 x, a.2 + max 0 x)) (0, 0))

/-- The first byte of the element at an offset from a base (R63, R99). -/
def elemByte (width : Nat) (base off : Int) : Int :=
  if width = 4 then base + off / 2 else base + off * ((width / 8 : Nat) : Int)

/-- The bytes that an interval of offsets reaches: first byte and count; none when it reaches none. -/
def byteSpan (r : Shape) (base add : Int) : Option (Int × Nat) :=
  match offsetSpan r.strides r.dims with
  | none => none
  | some (lo, hi) =>
    let a := elemByte r.bits base (lo + add)
    let b := elemByte r.bits base (hi + add) + (if r.bits = 4 then 1 else ((r.bits / 8 : Nat) : Int))
    some (a, (b - a).toNat)

/-- The index tuple of a number in ascending order, the first extent innermost. -/
def tupleOf : List Nat → Nat → List Nat
  | [], _ => []
  | d :: ds, n => n % d :: tupleOf ds (n / d)

/-- The number of an index tuple in ascending order. -/
def tupleNo : List Nat → List Nat → Nat
  | d :: ds, i :: is => i + d * tupleNo ds is
  | _, _ => 0

/-- A trap at a range of bytes as an engine's work is checked (R285, R297): its form, then its regions and rights. -/
def spanTrap (s : State) (w : Who) (span : Option (Int × Nat)) (need : Right) : Option (Nat × Nat) :=
  match span with
  | none => none
  | some (a, n) =>
    if n = 0 then none
    else if a < 0 || (2 ^ 56 : Nat) < a + n then some (0x04, toBits 64 a)
    else match rangeTrap s w a.toNat n need with
      | some c => some (c, a.toNat)
      | none => none

/-- A span check as a step of an S-word's checks. -/
def checkSpan (s : State) (span : Option (Int × Nat)) (need : Right) : Except Stuck Unit :=
  match spanTrap s (focusWho s) span need with
  | some (c, va) => trapping s c va
  | none => .ok ()

/-- The cached record of a core. -/
def cachedRec (s : State) (core tag va : Nat) : Option CachedRecord :=
  s.eng.recs.find? fun c => c.core = core && c.asid = tag && c.va = va

/-- A record put into a core's cache, which holds 64 (R100); the oldest leaves. -/
def cacheRec (s : State) (core tag va : Nat) (bs : List Byte) : State :=
  let others := s.eng.recs.filter fun c => !(c.core = core && c.asid = tag && c.va = va)
  let mine := others.filter (·.core = core)
  let kept := match mine with
    | old :: _ => if 64 ≤ mine.length then others.erase old else others
    | [] => others
  { s with eng := { s.eng with recs := kept ++ [{ core := core, asid := tag, va := va, bytes := bs }] } }

/-- The bytes of a cached record as it is read again: each 64 B sector is the cached one or memory's (R100). -/
def staleRec (s : State) (w : Who) (va : Nat) (old : List Byte) : List Byte :=
  (List.range 3).flatMap fun k =>
    if Config.freePick (draw s (va / 64 % 2 ^ 16 * 4 + k)) % 2 = 0 && present s w (va + 64 * k) 64 then
      readBytes s w (va + 64 * k) 64
    else (old.drop (64 * k)).take 64

/-- A shape record read by the focus team through its core's record cache (R100, R285): its region and alignment are checked,
and a record that is not cached is read as `ld` reads. -/
def readRec (s : State) (va : Nat) : Except Stuck (List Byte) :=
  let w := focusWho s
  let tag := tagOf w.asid va
  match (if 2 ^ 56 ≤ va then some 0x04 else if inAperture va then some 0x06 else
      match rangeTrap s w va 192 .r with
      | some c => some c
      | none => if va % 64 ≠ 0 then some 0x07 else none) with
  | some c => trapping s c va
  | none =>
    match cachedRec s w.core tag va with
    | some c => .ok (staleRec s w va c.bytes)
    | none => teamRead s va 192

/-- The state after a record has been read. -/
def afterRec (s : State) (va : Nat) (bs : List Byte) : State :=
  let w := focusWho s
  let tag := tagOf w.asid va
  match cachedRec s w.core tag va with
  | some _ => s
  | none => cacheRec (touchBytes s va 192) w.core tag va bs

/-- An engine acting for a team with the access level of its queue (R290, R299); it is another agent than the team, at whose marks it waits
(R116). -/
def engineWho (s : State) (core asid : Nat) (sup : Bool) : Who where
  core := core
  domain := (clusterRec s (core / 16)).domain
  asid := asid
  sup := sup
  team := 0
  engine := true

/-- Whether a copy or collective waits for a group request of its own to be performed (R290, R291): one of its tag is owed, or was lost with
its group's record. -/
def tagOwed (s : State) (id : Nat) : Bool :=
  s.link.groups.any (groupOwes · (copyTag id)) || s.eng.lost.contains (copyTag id)

/-- What an engine meets at some bytes: nothing, a fault at a VA with its kind (R355), or a wait at a VA. -/
inductive Met where
  | go
  | fault (va kind : Nat)
  | wait (va : Nat)
deriving DecidableEq, Repr

/-- An engine's access of `n` bytes (R292): rights withdrawn is kind 4, a page not present kind 1. A write of a group window waits behind a request
that waits for its number (R408). -/
def engineMeets (s : State) (w : Who) (va n : Nat) (need : Right) : Met :=
  if n = 0 then .go
  else if (rangeTrap s w va n need).isSome then .fault va 4
  else if !present s w va n then .fault va 1
  else if need ≠ .r && kindAt s (tagOf w.asid va) va = 2 && !groupFree s (groupAt s (tagOf w.asid va) va) then .wait va
  else match gateRange s w va n with
    | .wait => .wait va
    | _ => .go

/-- The first thing other than `go` that a list of accesses meets. -/
def firstMet : List Met → Met
  | [] => .go
  | .go :: ms => firstMet ms
  | m :: _ => m

/-- The bytes of some cells that lie in a sector. -/
def sectorCells (cells : List (Nat × Byte)) (sec : Nat) : List (Nat × Byte) := cells.filter fun c => sectorOf c.1 = sec

/-- The cells of one sector written by an engine for a team (R290): into memory and the caches, or as one group request under a tag. -/
def engineSector (s : State) (w : Who) (tag sec : Nat) (cells : List (Nat × Byte)) : State :=
  let asid := tagOf w.asid sec
  if kindAt s asid sec = 2 then groupSend s (groupAt s asid sec) tag asid (.store cells)
  else cells.foldl (fun s c => writeByte s w c.1 c.2) (touchWrite s w sec)

/-- Bytes written by an engine for a team, each 64 B sector at once (R289, R290, R101). -/
def engineCells (s : State) (w : Who) (tag : Nat) (cells : List (Nat × Byte)) : State :=
  ((cells.map fun c => sectorOf c.1).eraseDups).foldl (fun s sec => engineSector s w tag sec (sectorCells cells sec)) s

/-- What an engine is to restore where it is stopped within a sector (R267): some bytes of a core's local memory joined to those that it has
written already, each with what it held before the engines' unfinished work, whose own such bytes are `others`. -/
def undoBytes (s : State) (core : Nat) (mine others : List (Nat × Byte)) (las : List Nat) : List (Nat × Byte) :=
  mine ++ (las.filter fun a => !mine.any (·.1 = a)).map fun a =>
    (a, ((others.find? (·.1 = a)).map (·.2)).getD (byteAt s.lm (lmAddr core a)))

/-- The bytes that lie in some unfinished sectors put back (R267). -/
def undo (s : State) (core : Nat) (old : List (Nat × Byte)) (unfinished : Nat → Bool) : State :=
  old.foldl (fun s x => if unfinished (x.1 / 64) then lmWrite s core x.1 [x.2] else s) s

/-- A byte put in among some cells, in place of one at its address. -/
def putCell (cells : List (Nat × Byte)) (va : Nat) (b : Byte) : List (Nat × Byte) := cells.filter (·.1 ≠ va) ++ [(va, b)]

/-- An engine's atomic addition to an 8 B counter (R291, R299, R303), a module-scope release. -/
def engineAdd (s : State) (w : Who) (tag va incr : Nat) : State :=
  let asid := tagOf w.asid va
  if kindAt s asid va = 2 then
    groupSend s (groupAt s asid va) tag asid (.atomic va 0 2 (BitVec.ofNat 64 incr) 0)
  else writeBytes (touchWrite s w va) w va (toBytes 8 (ofBytes (readBytes s w va 8) + incr))

end Sys2Proof.Machine
end

