-- ==== Sys2Proof/Machine/Atomics.lean ====
section
/-! DEFINITION. The atomic operations (R170, R171), and an atomic of a team at one location: its order with the team's own
stores (R104, R116), its place in a group (R172), and Levanter (R444, R445). -/

namespace Sys2Proof.Machine

/-- The type of an atomic: 32-bit signed or unsigned, 64-bit signed, f32 (R138), or 64-bit unsigned (R235). -/
inductive AmoKind where
  | s32 | z32 | w64 | f32 | z64
deriving DecidableEq, Repr

/-- The code of an atomic's type in a group request. -/
def AmoKind.code : AmoKind → BitVec 3
  | .s32 => 0 | .z32 => 1 | .w64 => 2 | .f32 => 3 | .z64 => 4

/-- The type of a code. -/
def kindOfCode (c : BitVec 3) : AmoKind :=
  if c = 0 then .s32 else if c = 1 then .z32 else if c = 2 then .w64 else if c = 3 then .f32 else .z64

/-- The width in bytes of an atomic. -/
def AmoKind.bytes : AmoKind → Nat
  | .w64 | .z64 => 8
  | _ => 4

/-- The lesser or greater of two patterns (R170, R171). -/
def pickAmo (k : AmoKind) (least : Bool) (x y : Nat) : Nat :=
  match k with
  | .z32 | .z64 => if least then min x y else max x y
  | .f32 =>
    if isNanCode x && isNanCode y then 0x7FC00000
    else if isNanCode x then y
    else if isNanCode y then x
    else if below (decodeFloat 4 y) (decodeFloat 4 x) = least then y else x
  | k =>
    let n := 8 * k.bytes
    if decide (sInt n y < sInt n x) = least then y else x

/-- What an atomic writes, or nothing for a compare that fails (R170, R171). -/
def amoNew (k : AmoKind) (aop : Nat) (old opnd cmp : Nat) : Option Nat :=
  let n := 8 * k.bytes
  match aop with
  | 0 => if k = .f32 then some (addCodes 4 0 (decodeFloat 4 old) (decodeFloat 4 opnd)).1 else some ((old + opnd) % 2 ^ n)
  | 1 => some (pickAmo k true old opnd)
  | 2 => some (pickAmo k false old opnd)
  | 3 => some (old &&& opnd)
  | 4 => some (old ||| opnd)
  | 5 => some (old ^^^ opnd)
  | 6 => some opnd
  | _ => if old = cmp then some opnd else none

/-- The value that an atomic gives its destination (R170). -/
def amoResult (k : AmoKind) (old : Nat) : Word := match k with
  | .s32 => BitVec.ofInt 64 (sInt 32 old)
  | _ => BitVec.ofNat 64 old

/-- What an atomic of the focus team comes to. -/
inductive Amo where
  | done (s : State) (old : Nat)
  | wait (s : State)
  | absent
  | held (s : State) (va : Nat)
  | groupError (g : Nat)
deriving DecidableEq, Repr

/-- The covered number of an atomic's write: its own number for a release, else that of the team's last release fence (R116). -/
def amoCover (t : Team) (rel : Bool) : Nat := if rel then t.ord.seq + 1 else t.ord.cover

/-- Whether every store of the focus team that an atomic must follow is performed: those that its release covers (R116), and its
own earlier stores to the sector (R104). -/
def amoReady (s : State) (cover tag va : Nat) : Bool :=
  let h := s.team.card.handle
  !(s.sb.any fun e => e.team = h && !e.bytes.isEmpty
      && (decide (e.seq < cover) || (e.asid = tag && e.sector = sectorOf va)))
    && (cover = 0 || !owedBy s h)

/-- A held store that an atomic must follow. -/
def amoHeld (s : State) (cover tag va : Nat) : Option Nat :=
  (s.sb.find? fun e => e.team = s.team.card.handle && e.held
    && (decide (e.seq < cover) || (e.asid = tag && e.sector = sectorOf va))).map entryVa

/-- A held store of the focus team to a byte that an atomic reads: R120 lets it read none (R353). -/
def ownHeld (s : State) (tag va n : Nat) : Option Nat :=
  (s.sb.find? fun e => e.team = s.team.card.handle && e.held && e.asid = tag && e.sector = sectorOf va
    && e.bytes.any fun b => decide (va % 64 ≤ b.1) && decide (b.1 < va % 64 + n)).map entryVa

/-- The marks of the focus team's waiting atomic at a sector are taken away. -/
def dropMark (s : State) (tag va : Nat) : State :=
  { s with sb := s.sb.filter fun e =>
      !(e.team = s.team.card.handle && e.bytes.isEmpty && e.asid = tag && e.sector = sectorOf va) }

/-- The sector of an atomic whose release is pending is taken in M and marked, so that no other agent reads it (R116). -/
def putMark (s : State) (cover tag va iva : Nat) : State :=
  let w := focusWho s
  if s.sb.any (fun e => e.team = w.team && e.bytes.isEmpty && e.asid = tag && e.sector = sectorOf va) then s
  else
    let e : SbEntry := {
      core := w.core, team := w.team, asid := tag, sector := sectorOf va, bytes := [], seq := s.team.ord.seq + 1, iva := iva
      covers := cover, marked := true }
    touchWrite { s with sb := s.sb ++ [e] } w (sectorOf va)

/-- The focus team's next store sequence number is taken. -/
def takeSeq (s : State) : State :=
  setTeam s { s.team with ord := { s.team.ord with seq := s.team.ord.seq + 1 } }

/-- An atomic acts on its location as one indivisible step (R106, R170): the value read, and the state with what it writes. -/
def amoAct (s : State) (w : Who) (k : AmoKind) (aop va opnd cmp : Nat) : Nat × State :=
  let s1 := touchWrite s w va
  let old := ofBytes (readBytes s1 w va k.bytes)
  match amoNew k aop old opnd cmp with
  | some x => (old, writeBytes s1 w va (toBytes k.bytes x))
  | none => (old, s1)

/-- The focus team's group atomic under a key forgotten: it has ended. -/
def dropAtom (s : State) (key : Nat) : State :=
  setTeam s { s.team with ord := { s.team.ord with atoms := s.team.ord.atoms.filter (·.key ≠ key) } }

/-- The focus team's atomic in a group window, under its key, leaves as a request once what it must follow has left (R124, R172), and ends
when it has been applied to the local replica. What a compare will give is known there alone, so a release is one from the start. Once the group is
in error the team stops at once, and a value that comes later is not awaited, sent or stamped as the request may be (assumption log 117). -/
def amoGroup (s : State) (key : Nat) (k : AmoKind) (aop : BitVec 3) (rel : Bool) (tag va opnd cmp : Nat) : Amo :=
  let t := s.team
  let g := groupAt s tag va
  match t.ord.atoms.find? (·.key = key) with
  | some { value := some v, .. } => .done (dropAtom s key) v.toNat
  | under =>
    match groupOf s g with
    | none => .groupError g
    | some r =>
      if r.state = 1 then .groupError g
      else if under.isSome then .wait s
      else
        let s1 := drainTeam s t.card.handle
        let cover := amoCover t rel
        match amoHeld s1 cover tag va with
        | some x => .held s1 x
        | none =>
          let ready := !(s1.sb.any fun e => e.team = t.card.handle && !e.sent
              && (decide (e.seq < cover) || kindAt s1 e.asid e.sector = 2))
            && (cover = 0 || !(s1.link.groups.any fun r => r.number ≠ g && r.state ≠ 1 && groupOwes r t.card.handle))
          if !ready || !groupFree s1 g then .wait s1
          else if !levMayAtomic s1 t tag va then .wait (askLog s1)
          else
            let s2 := groupSend s1 g t.card.handle tag (.atomic va aop k.code (BitVec.ofNat 64 opnd) (BitVec.ofNat 64 cmp))
            .wait (takeSeq (setTeam s2 { s2.team with ord := { s2.team.ord with
              atoms := s2.team.ord.atoms ++ [{ key := key, group := g }] } }))

/-- Whether a compare of the focus team fails on what its location holds now, once its own stores there are performed: it is a read then,
ordered as its `ord` says of reads (R172). -/
def casFails (s : State) (w : Who) (k : AmoKind) (aop : BitVec 3) (tag va cmp : Nat) : Bool :=
  aop = 7 && amoReady s 0 tag va && ofBytes (readBytes s w va k.bytes) ≠ cmp

/-- An atomic of the focus team at a VA that its checks have passed (R164, R170, R172), made by the word at `iva`; a compare that fails releases nothing. -/
def teamAtomic (s : State) (key : Nat) (k : AmoKind) (aop : BitVec 3) (rel : Bool) (va opnd cmp iva : Nat) : Amo :=
  let w := focusWho s
  let tag := tagOf w.asid va
  if kindAt s tag va = 2 then amoGroup s key k aop rel tag va opnd cmp
  else if let some x := ownHeld s tag va k.bytes then .held s x
  else match gateAt s w va with
    | .absent => .absent
    | .wait => .wait (askGate s w va)
    | .go =>
      let cover0 := amoCover s.team rel
      let s1 := if amoReady s cover0 tag va then s else drainTeam s w.team
      let cover := if casFails s1 w k aop tag va cmp then 0 else cover0
      if amoReady s1 cover tag va then
        if levMayAtomic s1 s1.team tag va then
          let r := amoAct (dropMark s1 tag va) w k aop.toNat va opnd cmp
          let s2 := takeSeq r.2
          let s3 := if s2.sb.length < s1.sb.length then settlePosted s2 else s2
          .done (levAtomic s3 s3.team tag va r.1) r.1
        else .wait (askLog s1)
      else
        let s2 := if cover = 0 then s1 else putMark s1 cover tag va iva
        match amoHeld s1 cover tag va with
        | some x => .held s2 x
        | none => .wait s2

end Sys2Proof.Machine
end

