-- ==== Sys2Proof/Machine/Copies.lean ====
section
/-! DEFINITION. Asynchronous copies: the aperture store (R284, R285, R287), the copy engine's channels, rows and index chunks
(R286, R288 to R290, R293), completion (R291) and faults (R292). -/

namespace Sys2Proof.Machine

/-- A copy template (R287). -/
structure Template where
  kind : Nat
  cls : Nat
  flags : Nat
  argmode : Nat
  src : Nat
  dst : Nat
  dla : Nat
  icount : Nat
  ilist : Nat
  itype : Nat
  counter : Nat
  incr : Nat
deriving DecidableEq, Repr

/-- The fields of a template's 128 bytes (R287). -/
def templateOf (bs : List Byte) : Template where
  kind := field bs 0 1
  cls := field bs 1 1
  flags := field bs 2 1
  argmode := field bs 3 1
  src := field bs 8 8
  dst := field bs 0x10 8
  dla := field bs 0x18 4
  icount := field bs 0x1C 4
  ilist := field bs 0x20 8
  itype := field bs 0x28 1
  counter := field bs 0x30 8
  incr := field bs 0x38 8

/-- The width in bytes of an index (R287). -/
def Template.indexBytes (t : Template) : Nat := if t.itype ≤ 1 then 4 else 8
/-- Whether the digest is checked. -/
def Template.digested (t : Template) : Bool := bit t.flags 0
/-- Whether the destination is local. -/
def Template.isLocal (t : Template) : Bool := bit t.flags 1
/-- Whether a counter is present. -/
def Template.counted (t : Template) : Bool := bit t.flags 2
/-- The argument added to the source offset. -/
def Template.srcArg (t : Template) (arg : Int) : Int := if t.argmode = 1 || t.argmode = 3 then arg else 0
/-- The argument added to the destination offset. -/
def Template.dstArg (t : Template) (arg : Int) : Int := if t.argmode = 2 || t.argmode = 3 then arg else 0
/-- The VA of the first index. -/
def Template.firstIndex (t : Template) (arg : Int) : Int :=
  (t.ilist : Int) + (if t.argmode = 4 then arg * (t.indexBytes : Int) else 0)

/-- The reasons that need the template alone (R287): 1, 2, 3 and 7 in that order. -/
def templateReason (bs : List Byte) (arg : Int) : Option Nat :=
  let t := templateOf bs
  if 2 < t.kind || 2 < t.cls || 4 < t.argmode || 3 < t.itype then some 1
  else if 8 ≤ t.flags || field bs 4 4 ≠ 0 || 2 ^ 18 ≤ t.dla || field bs 0x29 7 ≠ 0 || field bs 0x40 64 ≠ 0 then some 2
  else if (t.argmode = 0) ≠ (arg = 0) then some 3
  else if t.kind = 0 then (if t.icount ≠ 0 || t.ilist ≠ 0 then some 7 else none)
  else if t.icount = 0 || t.ilist % t.indexBytes ≠ 0 then some 7
  else none

/-- Whether one interval of offsets lies in another; an empty one does. -/
def spanWithin (a b : Option (Int × Int)) (add : Int) : Bool :=
  match a, b with
  | none, _ => true
  | some _, none => false
  | some (lo, hi), some (l, h) => decide (l ≤ lo + add) && decide (hi + add ≤ h)

/-- The reasons that need the records (R287): 4, 5, 6 and 8 in that order. -/
def recordsReason (t : Template) (arg : Int) (src dst : Shape) : Option Nat :=
  let inner (r : Shape) : List Nat := r.dims.take (r.rank - 1)
  if src.rank ≠ dst.rank || src.fmt ≠ dst.fmt
      || (if t.kind = 0 then (src.dims.zip dst.dims).any (fun p => decide (p.1 < p.2)) else inner src ≠ inner dst) then some 4
  else if t.isLocal && (dst.scaled || t.dla % (if dst.bits = 4 then 1 else dst.bits / 8) ≠ 0) then some 5
  else if t.digested && (!src.hasDigest || t.kind ≠ 0 || t.argmode ≠ 0) then some 6
  else if t.kind = 0 && !(spanWithin (offsetSpan src.strides dst.dims) (offsetSpan src.strides src.dims) (t.srcArg arg)
      && spanWithin (offsetSpan dst.strides dst.dims) (offsetSpan dst.strides dst.dims) (t.dstArg arg)) then some 8
  else none

/-- Every byte of a local destination's reach, as local addresses (R285, R288). -/
def localBytes (t : Template) (arg : Int) (dst : Shape) : List Int :=
  (List.range dst.count).flatMap fun n =>
    let a := elemByte dst.bits (t.dla : Int) (offsetAt dst.strides (tupleOf dst.dims n) + t.dstArg arg)
    (List.range (if dst.bits = 4 then 1 else dst.bits / 8)).map fun (k : Nat) => a + Int.ofNat k

/-- The copies of a channel that are not complete. -/
def channelCopies (s : State) (cl ch : Nat) : List CopyJob := s.eng.copies.filter fun c => c.cluster = cl && c.chan = ch

/-- A trap of the copy template (R287, R362): its reason, and the template's VA in iva and va. -/
def templateTrap {α : Type} (s : State) (va reason : Nat) : Except Stuck α :=
  .error (.trap { scalarStop s 0x0E va reason with iva := va })

/-- A record fault at a store or `coll` (R99, R362): the record's VA in va, and the template's or descriptor's in iva. -/
def recordTrap {α : Type} (s : State) (va iva : Nat) : Except Stuck α :=
  .error (.trap { scalarStop s 0x10 va with iva := iva })

/-- The checks of the local destination of a copy (R93, R94, R285). -/
def localChecks (s : State) (t : Template) (arg : Int) (dst : Shape) : Except Stuck Unit :=
  if !t.isLocal then .ok ()
  else
    let core := coreOf s.team
    let las := localBytes t arg dst
    match las.find? (fun a => decide (a < 0) || !inWindow s.team a.toNat) with
    | some a => trapping s 0x08 (toBits 64 a)
    | none =>
      match las.find? (fun a => (tileRec s core (tileOf a.toNat)).owner ≠ 1) with
      | some a => trapping s 0x09 a.toNat
      | none => .ok ()

/-- The checks of the global ranges of a copy (R285). -/
def rangeChecks (s : State) (t : Template) (arg : Int) (src dst : Shape) : Except Stuck Unit := do
  checkSpan s (byteSpan src src.base (t.srcArg arg)) .r
  if t.kind ≠ 0 then checkSpan s (some (t.firstIndex arg, t.icount * t.indexBytes)) .r
  if !t.isLocal then checkSpan s (byteSpan dst dst.base (t.dstArg arg)) .w
  if t.counted then checkSpan s (some ((t.counter : Int), 8)) .rw
  if t.digested then checkSpan s (some ((src.digest : Int), 32)) .r

/-- The store to the aperture up to its acceptance (R285): the copy is accepted into its channel and the open batch. -/
def startCopy (s : State) (va : Nat) (data : Word) : Except Stuck State := do
  let t := s.team
  let ch := bits va 12 5
  let arg := sInt 48 (data.toNat / 2 ^ 16)
  require s (decide (data.toNat % 2 ^ 16 < t.card.tmpls)) 0x03
  let tva := t.card.ttable + 128 * (data.toNat % 2 ^ 16)
  checkTrap s (addrTrap s (focusWho s) tva 1 .r) tva
  checkTrap s (rangeTrap s (focusWho s) tva 128 .r) tva
  let bs ← teamRead s tva 128
  let s1 := touchBytes s tva 128
  match templateReason bs arg with
  | some r => templateTrap s tva r
  | none =>
    let tm := templateOf bs
    let sb ← readRec s1 tm.src
    let s2 := afterRec s1 tm.src sb
    let db ← readRec s2 tm.dst
    let s3 := afterRec s2 tm.dst db
    let src := shapeOf sb
    let dst := shapeOf db
    if !shapeOk src then recordTrap s tm.src tva
    else if !shapeOk dst then recordTrap s tm.dst tva
    else match recordsReason tm arg src dst with
      | some r => templateTrap s tva r
      | none =>
        rangeChecks s tm arg src dst
        localChecks s tm arg dst
        if Config.channelCopies ≤ (channelCopies s t.place.cluster ch).length then .error .later
        else
          let (id, s4) := newId s3
          let job : CopyJob := {
            id := id, cluster := t.place.cluster, chan := ch, core := coreOf t, team := t.card.handle, asid := t.card.asid
            batch := t.ord.batch, tmplVa := tva, tmpl := bs, arg := arg, src := sb, dst := db, sup := t.card.level = 1 }
          .ok (advance { s4 with eng := { s4.eng with copies := s4.eng.copies ++ [job] } })

/-- The copy of an identifier. -/
def copyOf (s : State) (id : Nat) : Option CopyJob := s.eng.copies.find? (·.id = id)

/-- The state with a copy's record replaced. -/
def setCopyJob (s : State) (c : CopyJob) : State :=
  { s with eng := { s.eng with copies := s.eng.copies.map fun x => if x.id = c.id then c else x } }

/-- The copies accepted before a copy on its channel. -/
def copiesBefore (c : CopyJob) : List CopyJob → List CopyJob
  | [] => []
  | x :: xs => if x.id = c.id then [] else if x.cluster = c.cluster && x.chan = c.chan then x :: copiesBefore c xs else copiesBefore c xs

/-- Whether a copy gives way on its channel (R286, R293): it has stopped, or stands behind a stopped copy of its team. -/
def standsBack (s : State) (c : CopyJob) : Bool :=
  c.stopped || (copiesBefore c s.eng.copies).any fun x => x.stopped && x.team = c.team

/-- Whether a copy may run now on its channel (R286, R293, R438): it runs already, or no other one of the channel does and every earlier
one is another team's that gives way. -/
def copyMayRun (s : State) (c : CopyJob) : Bool :=
  !c.paused && !c.stopped && !c.moved && clocked s c.core
    && (c.started || (!(channelCopies s c.cluster c.chan).any (fun x => x.id ≠ c.id && x.started)
      && (copiesBefore c s.eng.copies).all fun x => standsBack s x && x.team ≠ c.team))

/-- The requester of a copy's accesses. -/
def copyWho (s : State) (c : CopyJob) : Who := engineWho s c.core c.asid c.sup

/-- The number of rows of a copy (R288). -/
def rowsOf (t : Template) (dst : Shape) : Nat :=
  if t.kind = 0 then (dst.dims.drop 1).foldl (· * ·) 1
  else t.icount * ((dst.dims.drop 1).take (dst.rank - 2)).foldl (· * ·) 1

/-- The outer indices of row `r` (R288): of the source, of the destination, and the index position `j`. -/
def rowTuples (t : Template) (index : List Int) (dst : Shape) (r : Nat) : List Int × List Int × Nat :=
  if t.kind = 0 then
    let o := (tupleOf (dst.dims.drop 1) r).map Int.ofNat
    (o, o, 0)
  else
    let mid := (dst.dims.drop 1).take (dst.rank - 2)
    let m := mid.foldl (· * ·) 1
    let j := r / m
    let inner := (tupleOf mid (r % m)).map Int.ofNat
    let x := index.getD j 0
    if t.kind = 1 then (inner ++ [x], inner ++ [(j : Int)], j) else (inner ++ [(j : Int)], inner ++ [x], j)

/-- Whether the outermost indices of a row lie in the dimensions that they address (R288). A gather whose destination's outermost dimension is not
icount, or a scatter whose source's is not, breaks what R288 asks without a trap: its icount rows are moved in order, and a row `j` beyond that
dimension is an index-range fault (assumption log 108). -/
def rowInRange (t : Template) (index : List Int) (src dst : Shape) (r : Nat) : Bool :=
  if t.kind = 0 then true
  else
    let o := rowTuples t index dst r
    let inside (x : Int) (n : Nat) : Bool := decide (0 ≤ x) && decide (x < (n : Int))
    inside (o.1.getLastD 0) src.outer && inside (o.2.1.getLastD 0) dst.outer

/-- The offsets of a row's elements as (source, destination) (R288). A gather or scatter of rank 1 moves single elements. -/
def rowOffsets (t : Template) (arg : Int) (index : List Int) (src dst : Shape) (r : Nat) : List (Int × Int) :=
  let o := rowTuples t index dst r
  let dot (st : List Int) (ix : List Int) : Int := (st.zip ix).foldl (fun a p => a + p.1 * p.2) 0
  if t.kind ≠ 0 && dst.rank = 1 then [(dot src.strides o.1 + t.srcArg arg, dot dst.strides o.2.1 + t.dstArg arg)]
  else (List.range (dst.dims.headD 0)).map fun (i : Nat) =>
    (dot src.strides (Int.ofNat i :: o.1) + t.srcArg arg, dot dst.strides (Int.ofNat i :: o.2.1) + t.dstArg arg)

/-- The bytes of one element, and 1 for a nibble. -/
def elemBytes (r : Shape) : Nat := if r.bits = 4 then 1 else r.bits / 8

/-- The block numbers of a row's deltas as (source, destination) (R72, R288; assumption log 11). -/
def rowBlocks (t : Template) (arg : Int) (index : List Int) (src dst : Shape) (r : Nat) : List (Int × Int) :=
  if !(src.scaled && dst.scaled) || (t.kind ≠ 0 && dst.rank = 1) then []
  else
    let o := rowTuples t index dst r
    let lin (sh : Shape) (ix : List Int) : Int := ((tupleNo (sh.dims.drop 1) (ix.map Int.toNat) : Nat) : Int)
    let nb (sh : Shape) : Int := ((sh.dims.headD 0 / sh.block : Nat) : Int)
    (List.range (dst.dims.headD 0 / dst.block)).map fun k =>
      ( lin src o.1 * nb src + ((k * dst.block / src.block : Nat) : Int) + t.srcArg arg / (src.block : Int)
      , lin dst o.2.1 * nb dst + (k : Int) + t.dstArg arg / (dst.block : Int) )

/-- A nibble of a byte. -/
def nibble (b : Byte) (high : Bool) : Nat := if high then b.toNat / 16 else b.toNat % 16
/-- A byte with a nibble put in. -/
def withNibble (b : Byte) (high : Bool) (v : Nat) : Byte :=
  if high then BitVec.ofNat 8 (b.toNat % 16 + v % 16 * 16) else BitVec.ofNat 8 (b.toNat / 16 * 16 + v % 16)

/-- The local sector of a row's element. -/
def elemSector (t : Template) (dst : Shape) (p : Int × Int) : Nat := (elemByte dst.bits (t.dla : Int) p.2).toNat / 64

/-- Whether an early flip lets a copy skip an element (R267). -/
def skips (c : CopyJob) (t : Template) (dst : Shape) (p : Int × Int) : Bool :=
  t.isLocal && c.closed.contains (elemSector t dst p / 64)

/-- What a copy meets at the sources of some elements. -/
def sourceMeets (s : State) (c : CopyJob) (src : Shape) (els : List (Int × Int)) : Met :=
  firstMet (els.map fun p => engineMeets s (copyWho s c) (toBits 56 (elemByte src.bits src.base p.1)) (elemBytes src) .r)

/-- What a copy meets at a row's memory (R292), sources first; the elements of skipped sectors meet nothing (R267). -/
def rowMeets (s : State) (c : CopyJob) (t : Template) (src dst : Shape) (els blocks : List (Int × Int)) : Met :=
  let w := copyWho s c
  let dstVa (o : Int) : Nat := toBits 56 (elemByte dst.bits dst.base o)
  firstMet (
    [sourceMeets s c src (els.filter (!skips c t dst ·))]
    ++ blocks.map (fun p => engineMeets s w (toBits 56 (src.scales + p.1 / 2)) 1 .r)
    ++ (if t.isLocal then [] else els.map fun p => engineMeets s w (dstVa p.2) (elemBytes dst) .w)
    ++ blocks.map fun p => engineMeets s w (toBits 56 (dst.scales + p.2 / 2)) 1 .w)

/-- An element's code in memory. -/
def readElem (s : State) (w : Who) (bits : Nat) (base off : Int) : Nat :=
  let va := toBits 56 (elemByte bits base off)
  if bits = 4 then nibble (readByte s w va) (off % 2 = 1) else ofBytes (readBytes s w va (bits / 8))

/-- An element's code put among the cells that an engine is to write; a nibble goes into its byte as the cells or memory have it. -/
def elemCells (s : State) (w : Who) (bits : Nat) (base : Int) (cells : List (Nat × Byte)) (off : Int) (v : Nat) : List (Nat × Byte) :=
  let va := toBits 56 (elemByte bits base off)
  if bits = 4 then
    let old := ((cells.find? (·.1 = va)).map (·.2)).getD (readByte s w va)
    putCell cells va (withNibble old (off % 2 = 1) v)
  else (List.range (bits / 8)).foldl (fun cs i => putCell cs (va + i) ((toBytes (bits / 8) v).getD i 0)) cells

/-- The cells of some elements with their codes. -/
def cellsOf (s : State) (w : Who) (bits : Nat) (base : Int) (xs : List (Int × Nat)) : List (Nat × Byte) :=
  xs.foldl (fun cs x => elemCells s w bits base cs x.1 x.2) []

/-- Whether some 4-bit elements make a group request that holds a byte of which they give one nibble only: it is built from the local
replica, so an engine makes it once its earlier requests have been performed there. -/
def halfToGroup (s : State) (w : Who) (bits : Nat) (base : Int) (offs : List Int) : Bool :=
  decide (bits = 4) && offs.any fun o =>
    let va := toBits 56 (elemByte 4 base o)
    kindAt s (tagOf w.asid va) va = 2 && !offs.contains (if o % 2 = 1 then o - 1 else o + 1)

/-- An element's code written to local memory. -/
def writeLocal (s : State) (core bits : Nat) (base off : Int) (v : Nat) : State :=
  let la := (elemByte bits base off).toNat
  if bits = 4 then lmWrite s core la [withNibble ((lmBytes s core la 1).headD 0) (off % 2 = 1) v]
  else lmWrite s core la (toBytes (bits / 8) v)

/-- The local sectors that a row's elements touch. -/
def rowSectors (t : Template) (dst : Shape) (els : List (Int × Int)) : List Nat := (els.map (elemSector t dst)).eraseDups

/-- Whether the engine may write a local sector now (R267): the tile names the copy engine and has no readers. -/
def sectorOpen (s : State) (core sector : Nat) : Bool :=
  let o := tileRec s core (sector / 64)
  o.owner = 1 && o.readers = 0

/-- A row's elements and scale codes read, and then written, each 64 B sector at once (R288, R289). -/
def moveRow (s : State) (c : CopyJob) (t : Template) (src dst : Shape) (els blocks : List (Int × Int)) : State :=
  let w := copyWho s c
  let codes := els.map fun p => (p.2, readElem s w src.bits src.base p.1)
  let scales := blocks.map fun p => (p.2, readElem s w 4 src.scales p.1)
  let s1 := if t.isLocal then codes.foldl (fun s x => writeLocal s c.core dst.bits (t.dla : Int) x.1 x.2) s
    else engineCells s w (copyTag c.id) (cellsOf s w dst.bits dst.base codes)
  engineCells s1 w (copyTag c.id) (cellsOf s1 w 4 dst.scales scales)

/-- The bytes that a row's elements are read from, each byte once (R291). -/
def rowHashed (s : State) (c : CopyJob) (src : Shape) (els : List (Int × Int)) : List Byte :=
  let vas := els.map fun p => toBits 56 (elemByte src.bits src.base p.1)
  let uniq := if src.bits = 4 then vas.eraseDups else vas
  uniq.flatMap fun va => readBytes s (copyWho s c) va (elemBytes src)

/-- A copy pauses at a fault (R292): a record in the team's fault area, and the team is stopped at its next boundary. The copy of a team that
is gone is dropped with its team (R365; assumption log 77). -/
def copyFault (s : State) (c : CopyJob) (va kind source detail : Nat) : State :=
  if (teamOf s c.team).all (fun t => 4 ≤ t.place.run) then { s with eng := { s.eng with copies := s.eng.copies.filter (·.id ≠ c.id) } }
  else
    let s1 := setCopyJob s { c with paused := true, started := true }
    let s2 := putDefer s1 c.team
      { kind := kind, source := source, access := 3, va := va, asid := tagOf c.asid va, detail := detail, iva := c.tmplVa }
    noteStop s2 c.team { cause := 0x14, va := va, iva := c.tmplVa }

/-- Step one: the next 64 B chunk of the index list is read (R288, R292). -/
def copyChunk (s : State) (c : CopyJob) (t : Template) : State :=
  let n := c.index.length
  let b := t.indexBytes
  let k := min (64 / b) (t.icount - n)
  let va := toBits 56 (t.firstIndex c.arg + (n * b : Nat))
  match engineMeets s (copyWho s c) va (k * b) .r with
  | .fault x kind => copyFault s c x kind 5 (n / (64 / b))
  | .wait x => askGate s (copyWho s c) x
  | .go =>
    let one (i : Nat) : Int :=
      let v := ofBytes (readBytes s (copyWho s c) (va + i * b) b)
      if t.itype = 0 then sInt 32 v else if t.itype = 2 then sInt 64 v else (v : Int)
    setCopyJob s { c with index := c.index ++ (List.range k).map one, started := true }

/-- The local bytes of some elements. -/
def rowLocal (t : Template) (dst : Shape) (els : List (Int × Int)) : List Nat :=
  (els.flatMap fun p => (List.range (elemBytes dst)).map fun k => (elemByte dst.bits (t.dla : Int) p.2).toNat + k).eraseDups

/-- The bytes of local memory that a copy has written with those of a row to come, and what they held before (R267). -/
def rowUndo (s : State) (c : CopyJob) (las : List Nat) : List (Nat × Byte) :=
  undoBytes s c.core c.tiles ((s.eng.copies.filter fun x => x.id ≠ c.id && x.core = c.core && !x.moved).flatMap (·.tiles)) las

/-- A row of a copy that meets nothing is moved (R288 to R290), but for the sectors that an early flip has taken from it (R267); a local
tile that is not the engine's makes it wait. -/
def rowGoes (s : State) (c : CopyJob) (t : Template) (src dst : Shape) (els blocks : List (Int × Int)) : State :=
  let w := copyWho s c
  let live := els.filter (!skips c t dst ·)
  let secs := if t.isLocal then rowSectors t dst live else []
  let half := (!t.isLocal && halfToGroup s w dst.bits dst.base (live.map (·.2))) || halfToGroup s w 4 dst.scales (blocks.map (·.2))
  if !secs.all (sectorOpen s c.core) || (half && tagOwed s c.id) then s
  else
    let hidden := t.digested && sourceMeets s c src (els.filter (skips c t dst)) ≠ .go
    setCopyJob (moveRow s c t src dst live blocks) { c with
      row := c.row + 1, started := true, moved := decide (rowsOf t dst ≤ c.row + 1)
      hashed := c.hashed ++ rowHashed s c src els, tiles := if t.isLocal then rowUndo s c (rowLocal t dst live) else c.tiles, unread := c.unread || hidden }

/-- Step two: the next row is moved, or what it meets (R288, R292). -/
def copyNextRow (s : State) (c : CopyJob) (t : Template) : State :=
  let src := shapeOf c.src
  let dst := shapeOf c.dst
  let r := c.row
  if rowsOf t dst ≤ r then setCopyJob s { c with moved := true, started := true }
  else if !rowInRange t c.index src dst r then
    copyFault s c (toBits 56 (t.firstIndex c.arg + ((rowTuples t c.index dst r).2.2 * t.indexBytes : Nat))) 2 6
      (rowTuples t c.index dst r).2.2
  else
    let els := rowOffsets t c.arg c.index src dst r
    let blocks := rowBlocks t c.arg c.index src dst r
    match rowMeets s c t src dst els blocks with
    | .fault x kind => copyFault s c x kind 6 r
    | .wait x => askGate s (copyWho s c) x
    | .go => rowGoes s c t src dst els blocks

/-- The local sectors that the rows which a copy has not moved yet still write. -/
def sectorsLeft (c : CopyJob) (t : Template) (src dst : Shape) : List Nat :=
  ((List.range (rowsOf t dst)).drop c.row).flatMap fun r =>
    if rowInRange t c.index src dst r then rowSectors t dst (rowOffsets t c.arg c.index src dst r) else []

/-- Whether a tile flips away from a copy that has begun to write it (R267). -/
def copyFlips (core tile : Nat) (c : CopyJob) : Bool := c.core = core && !c.moved && c.tiles.any (·.1 / 4096 = tile)

/-- The early-flip rule for the copies that write a tile (R267): the sectors that are written in part get their old contents back, and each copy
writes to the tile no more. -/
def flipCopies (s : State) (core tile : Nat) : State :=
  let s1 := (s.eng.copies.filter (copyFlips core tile)).foldl (fun s c =>
    let left := sectorsLeft c (templateOf c.tmpl) (shapeOf c.src) (shapeOf c.dst)
    undo s c.core c.tiles fun x => decide (x / 64 = tile) && left.contains x) s
  { s1 with eng := { s1.eng with
    copies := s1.eng.copies.map fun c => if copyFlips core tile c then { c with closed := tile :: c.closed } else c } }

/-- COPY_ROW (R286, R288 to R290, R292, R293): one index chunk or one row of an accepted copy that may run. -/
def execCopyRow (id : Nat) (s : State) : Out :=
  match copyOf s id with
  | none => .next s
  | some c =>
    let t := templateOf c.tmpl
    if !copyMayRun s c then .next s
    else if t.kind ≠ 0 && c.index.length < t.icount then .next (copyChunk s c t)
    else .next (copyNextRow s c t)

/-- A copy is complete: it leaves its channel and its batch (R291), and its digest goes to Levanter (R444). -/
def copyDone (s : State) (c : CopyJob) : State :=
  let s1 := { s with eng := { s.eng with copies := s.eng.copies.filter (·.id ≠ c.id) } }
  match teamOf s1 c.team with
  | some t => levCopy s1 t c.tmplVa c.hashed
  | none => s1

/-- COPY_COMPLETION (R291): every write has been performed; the digest is checked, the counter added to, and the copy is marked
complete in its batch, once the add of a counter in a group window has been performed too. -/
def execCopyCompletion (id : Nat) (s : State) : Out :=
  match copyOf s id with
  | none => .next s
  | some c =>
    let t := templateOf c.tmpl
    let src := shapeOf c.src
    let w := copyWho s c
    if !c.moved || c.paused || tagOwed s c.id || !clocked s c.core then .next s
    else if c.added then .next (copyDone s c)
    else
      let met := firstMet ((if t.digested then [engineMeets s w src.digest 32 .r] else [])
        ++ (if t.counted then [engineMeets s w t.counter 8 .rw] else []))
      match met with
      | .fault x kind => .next (copyFault s c x kind 6 c.row)
      | .wait x => .next (askGate s w x)
      | .go =>
        if t.digested && !c.unread && readBytes s w src.digest 32 ≠ sha256 c.hashed then .next (copyFault s c src.digest 3 6 c.row)
        else if t.counted then
          let s1 := engineAdd (setCopyJob s { c with added := true }) w (copyTag c.id) t.counter t.incr
          .next (if tagOwed s1 c.id then s1 else copyDone s1 c)
        else .next (copyDone s c)

end Sys2Proof.Machine
end

