-- ==== Sys2Proof/Machine/ScalarMem.lean ====
section
/-! DEFINITION. Scalar loads, stores and atomics (R164, R169 to R172), with the aperture store (R284). -/

namespace Sys2Proof.Machine

/-- The address of `ld` and `st` (R137, R169): modulo 2^64. -/
def scaledAddr (s : State) (a : SReg) (off : BitVec 9) (w : Nat) : Nat :=
  (readReg s a + BitVec.ofInt 64 (off.toInt * (w : Int))).toNat

/-- The value that a load writes (R137): sign-extended for the even codes below 64 bits. -/
def loadExtend (ty : BitVec 3) (v : Nat) : Word :=
  let w := 2 ^ (ty.toNat / 2)
  if ty.toNat % 2 = 0 then BitVec.ofInt 64 (sInt (8 * w) v) else BitVec.ofNat 64 v

/-- A load that has not its reply yet: the access is under way, and the word runs again when the reply comes (R164). -/
def awaitReply (s : State) (va : Nat) : State :=
  let s1 := askGate s (focusWho s) va
  setTeam s1 { s1.team with ord := { s1.team.ord with load := some va } }

/-- LD (R164, R169). -/
def execLd (ty : BitVec 3) (d a : SReg) (off : BitVec 9) (s : State) : Out :=
  let w := 2 ^ (ty.toNat / 2)
  let va := scaledAddr s a off w
  let who := focusWho s
  match addrTrap s who va w .r with
  | some c => .next (takeStop s (scalarStop s c va))
  | none =>
    match loadGot s who va w with
    | .value v => .next (finish (afterLoad s who va) d (loadExtend ty v))
    | .wait => .next (awaitReply s va)
    | .absent => .next (readFault s va (sourceFor s.team va 1) 0)
    | .held => .next (takeStop s (scalarStop s 0x14 va))

/-- The group-error trap of a store or atomic to a window whose group is in error (R295), before anything else is done. -/
def groupTrap (s : State) (va : Nat) : Option Stop :=
  let tag := tagOf s.team.card.asid va
  if kindAt s tag va = 2 then
    match groupOf s (groupAt s tag va) with
    | some r => if r.state = 1 then some { scalarStop s 0x12 va with detail := r.number } else none
    | none => none
  else none

/-- A scalar store that retires into the buffer (R352), numbered, and covered by the team's last release fence (R116). -/
def retireStore (s : State) (va w : Nat) (x : Word) : State :=
  let t := s.team
  let tag := tagOf t.card.asid va
  let e : SbEntry := {
    core := coreOf t, team := t.card.handle, asid := tag, sector := sectorOf va
    bytes := (List.range w).map fun i => (va % 64 + i, x.extractLsb' (8 * i) 8)
    seq := t.ord.seq + 1, iva := t.pc.toNat, source := sourceFor t va 0, covers := t.ord.cover
    code := codeWord s }
  pushEntries (takeSeq s) [e]

/-- ST (R169, R284, R352): a store retires into the late-fault store buffer, waits for room in it, or starts a copy through the
aperture. -/
def execSt (ty : BitVec 2) (d a : SReg) (off : BitVec 9) (s : State) : Out :=
  let w := 2 ^ ty.toNat
  let va := scaledAddr s a off w
  let who := focusWho s
  if s.team.sys.handler && inAperture va then .next (takeStop s (scalarStop s 0x02))
  else if inAperture va && w = 8 && va % 4096 = 0 then attempt s (startCopy s va (readReg s d))
  else match addrTrap s who va w .w with
    | some c => .next (takeStop s (scalarStop s c va))
    | none =>
      match groupTrap s va with
      | some st => .next (takeStop s st)
      | none =>
        match roomFor s who 1 with
        | .ok => .next (advance (retireStore s va w (readReg s d)))
        | .held => .next (heldStop s)
        | .wait => .next (drainTeam s who.team)

/-- An atomic of the scalar stream (R164, R170): its checks, its indivisible act, and its result. -/
def scalarAmo (k : AmoKind) (aop : BitVec 3) (ord : BitVec 2) (d a b : SReg) (s : State) : Out :=
  let va := (readReg s a).toNat
  match addrTrap s (focusWho s) va k.bytes .rw with
  | some c => .next (takeStop s (scalarStop s c va))
  | none =>
    let n := 2 ^ (8 * k.bytes)
    match teamAtomic s scalarKey k aop (ord.getLsbD 1) va ((readReg s b).toNat % n) ((readReg s d).toNat % n) s.team.pc.toNat with
    | .done s1 old => .next (finish s1 d (amoResult k old))
    | .wait s1 => .next s1
    | .absent => .next (readFault s va (sourceFor s.team va 2) 2)
    | .held s1 x => .next (takeStop s1 (scalarStop s1 0x14 x))
    | .groupError g =>
      let s1 := dropAtom s scalarKey
      .next (takeStop s1 { scalarStop s1 0x12 va with detail := g })

/-- AMO_S32 (R170, R172). -/
def execAmoS32 (aop : BitVec 3) (ord : BitVec 2) (d a b : SReg) (s : State) : Out := scalarAmo .s32 aop ord d a b s
/-- AMO_Z32 (R170, R172). -/
def execAmoZ32 (aop : BitVec 3) (ord : BitVec 2) (d a b : SReg) (s : State) : Out := scalarAmo .z32 aop ord d a b s
/-- AMO_64 (R170, R172). -/
def execAmo64 (aop : BitVec 3) (ord : BitVec 2) (d a b : SReg) (s : State) : Out := scalarAmo .w64 aop ord d a b s
/-- AMO_F32 (R170 to R172). -/
def execAmoF32 (aop : BitVec 3) (ord : BitVec 2) (d a b : SReg) (s : State) : Out := scalarAmo .f32 aop ord d a b s

end Sys2Proof.Machine
end

