-- ==== Sys2Proof/Machine/Waits.lean ====
section
/-! DEFINITION. Fences and waits of the scalar stream (R112 to R118, R179 to R185), local queues (R186, R187), posting a card
(R188, R374), and `cancel` and `ctr` (R38, R189). -/

namespace Sys2Proof.Machine

/-- The team's release fence stands at its place in program order: later writes are covered (R116). -/
def setCover (s : State) : State :=
  setTeam s { s.team with ord := { s.team.ord with cover := s.team.ord.seq + 1 } }

/-- A release at a fence (R116, R118): a held store stops the team; else later writes are covered and the team goes on. -/
def releaseFence (s : State) : Out :=
  let s1 := drainTeam s s.team.card.handle
  if hasHeld s1 s1.team.card.handle then .next (heldStop s1) else .next (advance (setCover s1))

/-- The group-error trap of a wait for group writes (R184, R295). -/
def owedTrap (s : State) (g : Nat) : State := takeStop s { scalarStop s 0x12 with detail := g }

/-- FENCE (R112 to R118): at team scope and for kind acq it completes at once; rel and ar make later writes lazy releases; sc and
async wait until every earlier store is performed, group stores by their local application. -/
def execFence (kind scope : BitVec 3) (s : State) : Out :=
  if scope = 0 || kind = 0 then .next (advance s)
  else if kind = 1 || kind = 2 then releaseFence s
  else
    let s1 := drainTeam s s.team.card.handle
    match (if scope = 5 && kind = 3 then owedInError s1 s.team.card.handle else none) with
    | some g => .next (owedTrap s1 g)
    | none => afterStores s1 fun s2 => .next (advance (setCover s2))

/-- The other teams of a team's crew that take part in its barriers: those that have not ended (R31, R179). -/
def crewMates (s : State) (t : Team) : List Team :=
  s.others.filter fun x => (crewOf s t).contains x.card.handle && x.card.handle ≠ t.card.handle && !x.ord.ending

/-- The teams that a barrier lets pass: the waiting ones are marked, and the focus team goes on (R31). -/
def passBarrier (s : State) : State :=
  let mates := (crewMates s s.team).map (·.card.handle)
  let one (t : Team) : Team :=
    if mates.contains t.card.handle then { t with ord := { t.ord with atBarrier := false, passed := true } } else t
  let me := { s.team with ord := { s.team.ord with atBarrier := false, passed := false } }
  advance (setCover { s with team := me, others := s.others.map one })

/-- CBAR (R31, R179): the crew's barrier, an acquire-release fence at crew scope, reached once the team's stores are performed. -/
def execCbar (s : State) : Out :=
  if inHandler s then .next (takeStop s (scalarStop s 0x02))
  else if s.team.ord.passed then
    .next (advance (setCover (setTeam s { s.team with ord := { s.team.ord with atBarrier := false, passed := false } })))
  else afterStoresPoint s fun s1 =>
    if (crewMates s1 s1.team).all (fun t => t.ord.atBarrier) then .next (passBarrier s1)
    else waitPoint (setTeam s1 { s1.team with ord := { s1.team.ord with atBarrier := true } })

/-- CWAIT (R180): it waits, each time at a cancellation point, until the counter has reached the target. -/
def execCwait (a b : SReg) (s : State) : Out :=
  let va := (readReg s a).toNat
  let who := focusWho s
  match addrTrap s who va 8 .r with
  | some c => .next (takeStop s (scalarStop s c va))
  | none =>
    match loadGot s who va 8 with
    | .value v =>
      let s1 := afterLoad s who va
      if (readReg s b).toNat ≤ v then .next (advance s1) else waitPoint s1
    | .wait => waitPoint (askGate s who va)
    | .absent => .next (readFault s va (sourceFor s.team va 1) 0)
    | .held => .next (takeStop s (scalarStop s 0x14 va))

/-- The closed batches of a team that are not complete (R181). -/
def openBatches (s : State) (t : Team) : List Nat :=
  ((s.eng.copies.filter fun c => c.team = t.card.handle && decide (c.batch < t.ord.batch)).map (·.batch)).eraseDups

/-- The open batch closed and the next one opened (R181). -/
def closeBatch (s : State) : State :=
  setTeam s { s.team with ord := { s.team.ord with batch := s.team.ord.batch + 1 } }

/-- The batch that a `cpclose` waits for (R181): the one that it waits for already, while that is not complete, or the oldest once the team
holds 16 that are not. -/
def closeWaits (s : State) : Option Nat :=
  let left := openBatches s s.team
  match s.team.ord.closing with
  | some b => if left.contains b then some b else none
  | none => if Config.closedBatches ≤ left.length then left.min? else none

/-- CPCLOSE (R181). -/
def execCpclose (d : SReg) (s : State) : Out :=
  match closeWaits s with
  | some b => .next (setTeam s { s.team with ord := { s.team.ord with closing := some b } })
  | none =>
    let s1 := setTeam s { s.team with ord := { s.team.ord with closing := none } }
    .next (finish (closeBatch s1) d (BitVec.ofNat 64 s.team.ord.batch))

/-- The stop of a faulted copy of a batch that the team has not yet taken (R182, R292), and the stops that are left. -/
def batchStop (s : State) (n : Nat) : Option (Stop × List Stop) :=
  let paused := s.eng.copies.filter fun c => c.team = s.team.card.handle && c.batch = n && c.paused
  match findIdx1 (fun st : Stop => st.cause = 0x14 && paused.any (·.tmplVa = st.iva)) s.team.ord.stops 0 with
  | some (i, st) => some (st, s.team.ord.stops.eraseIdx i)
  | none => none

/-- CPWAIT (R182): it waits at a cancellation point until every copy of the batch is complete. -/
def execCpwait (a : SReg) (s : State) : Out :=
  let n := (readReg s a).toNat
  if n = 0 || s.team.ord.batch ≤ n then .next (takeStop s (scalarStop s 0x03))
  else match batchStop s n with
    | some (st, rest) =>
      .next (takeStop (setTeam s { s.team with ord := { s.team.ord with stops := rest } }) st)
    | none =>
      if s.eng.copies.any (fun c => c.team = s.team.card.handle && c.batch = n) then waitPoint s else .next (advance s)

/-- A core's cached records of an ASID, and of the global range that its teams share, dropped (R100, R183). -/
def dropRecs (s : State) (core asid : Nat) : State :=
  { s with eng := { s.eng with recs := s.eng.recs.filter fun c => !(c.core = core && (c.asid = asid || c.asid = 0)) } }

/-- RFENCE (R183). -/
def execRfence (s : State) : Out :=
  afterStores s fun s1 => .next (advance (dropRecs s1 (coreOf s1.team) s1.team.card.asid))

/-- GFENCE (R184): it waits at a cancellation point until every earlier group write of the team has been applied locally; one to
a group in error traps. -/
def execGfence (s : State) : Out :=
  let h := s.team.card.handle
  let s1 := drainTeam s h
  match owedInError s1 h with
  | some g => .next (owedTrap s1 g)
  | none =>
    if owedBy s1 h || s1.sb.any (fun e => e.team = h && kindAt s1 e.asid e.sector = 2) then waitPoint s1
    else .next (advance s1)

/-- GSEQ (R185). -/
def execGseq (d a : SReg) (s : State) : Out :=
  let va := (readReg s a).toNat
  let tag := tagOf s.team.card.asid va
  match addrTrap s (focusWho s) va 1 .r with
  | some c => .next (takeStop s (scalarStop s c va))
  | none =>
    if kindAt s tag va ≠ 2 then .next (takeStop s (scalarStop s 0x03 va))
    else match groupOf s (groupAt s tag va) with
      | some g => .next (finish s d (BitVec.ofNat 64 g.applied))
      | none => .next (takeStop s (scalarStop s 0x05 va))

/-- A local queue's header (R186): head, tail, lcap and the reserved bytes. -/
structure QHeader where
  head : Nat
  tail : Nat
  lcap : Nat
  rest : Nat
deriving DecidableEq, Repr

/-- The header at a local address. -/
def qheader (s : State) (core la : Nat) : QHeader where
  head := ofBytes (lmBytes s core la 4)
  tail := ofBytes (lmBytes s core (la + 4) 4)
  lcap := ofBytes (lmBytes s core (la + 8) 1)
  rest := ofBytes (lmBytes s core (la + 9) 7)

/-- The entries in a queue, modulo 2^32 (R186). -/
def QHeader.used (q : QHeader) : Nat := (q.tail + 2 ^ 32 - q.head) % 2 ^ 32
/-- A header that software has made valid (R187, R302). -/
def QHeader.ok (q : QHeader) : Bool := q.lcap ≤ 8 && q.rest = 0 && q.used ≤ 2 ^ q.lcap
/-- The local address of entry `i` of the queue at a header (R186). -/
def qentry (la : Nat) (q : QHeader) (i : Nat) : Nat := la + 16 + 8 * (i % 2 ^ q.lcap)

/-- The checks of `qpush` and `qpop` in order (R187), with the local address that the stop names: the header's, or the queue's last byte where that
alone is at fault (assumption log 116). -/
def queueTrap (s : State) (la : Nat) : Option (Nat × Nat) :=
  let core := coreOf s.team
  let t := s.team
  if !(inWindow t la && inWindow t (la + 15)) then some (0x08, la)
  else
    let q := qheader s core la
    let last := la + 15 + 8 * 2 ^ min q.lcap 8
    if !inWindow t last then some (0x08, last)
    else if la % 16 ≠ 0 then some (0x07, la)
    else if (tileRec s core (tileOf la)).owner ≠ 0 || (tileRec s core (tileOf last)).owner ≠ 0 then some (0x09, la)
    else if !q.ok then some (0x03, la)
    else none

/-- QPUSH (R187): a release at crew scope; it waits for a free entry. -/
def execQpush (a b : SReg) (s : State) : Out :=
  let la := (readReg s a).toNat
  let core := coreOf s.team
  if inHandler s then .next (takeStop s (scalarStop s 0x02))
  else match queueTrap s la with
    | some (c, x) => .next (takeStop s (scalarStop s c x))
    | none =>
      afterStores s fun s1 =>
        let q := qheader s1 core la
        if 2 ^ q.lcap ≤ q.used then .next s1
        else
          let s2 := lmWrite s1 core (qentry la q q.tail) (toBytes 8 (readReg s1 b).toNat)
          .next (advance (lmWrite s2 core (la + 4) (toBytes 4 (q.tail + 1))))

/-- QPOP (R187): it waits for an entry at a cancellation point; its write of the head, which its crew sees, comes behind the stores that a
release fence of the team covers (R95, R108). -/
def execQpop (d a : SReg) (s : State) : Out :=
  let la := (readReg s a).toNat
  let core := coreOf s.team
  if inHandler s then .next (takeStop s (scalarStop s 0x02))
  else match queueTrap s la with
    | some (c, x) => .next (takeStop s (scalarStop s c x))
    | none =>
      let q := qheader s core la
      if q.used = 0 then waitPoint s
      else match crewCover s with
        | .held => .next (heldStop s)
        | .wait => waitPoint (drainTeam s s.team.card.handle)
        | .ok =>
          let v := ofBytes (lmBytes s core (qentry la q q.head) 8)
          .next (finish (lmWrite s core la (toBytes 4 (q.head + 1))) d (BitVec.ofNat 64 v))

/-- Two clusters next to each other in one row or one column of the 8 × 8 mesh (R9, R188). -/
def adjacent (a b : Nat) : Bool :=
  (a / 8 = b / 8 && (a % 8 + 1 = b % 8 || b % 8 + 1 = a % 8)) || (a % 8 = b % 8 && (a / 8 + 1 = b / 8 || b / 8 + 1 = a / 8))

/-- Whether a team may post to a queue (R188). -/
def mayPost (s : State) (t : Team) (q : Queue) : Bool :=
  q.kind ≠ 2 && (clusterRec s q.id.cluster).domain = teamDomain s t && (q.kind = 0 || levelOf t = 1)
    && (q.job = t.card.job || (q.openPost && q.asid = t.card.asid))

/-- A ring's slot number `i` (R372). -/
def slotVa (q : Queue) (i : Nat) : Nat := q.ring + 256 + 128 * (i % 2 ^ q.k)

/-- A card appended to a ring as R374 gives: the slot is reserved, the card written, and its lap last; none on a full ring. -/
def appendCard (s : State) (q : Queue) (card : List Byte) : Option (Nat × State) :=
  let dom := queueDom s q
  let r := ofBytes (hwRead s dom q.asid q.ring 8)
  if 2 ^ q.k ≤ (r + 2 ^ 64 - q.head) % 2 ^ 64 then none
  else
    let s1 := hwWrite s dom q.asid q.ring (toBytes 8 (r + 1))
    let s2 := hwWrite s1 dom q.asid (slotVa q r) (card.take 0x7C)
    some (r, hwWrite s2 dom q.asid (slotVa q r + 0x7C) (toBytes 4 (r / 2 ^ q.k + 1)))

/-- The checks of `post` in order (R188), and the queue. -/
def postChecks (s : State) (va : Nat) (sel : Word) : Except Stuck Queue := do
  let t := s.team
  checkTrap s (addrTrap s (focusWho s) va 128 .r) va
  let x := sel.toNat
  let cl := bits x 10 6
  require s (decide (x < 2 ^ 16) && (cl = t.place.cluster || adjacent cl t.place.cluster)) 0x03
  match queueOf s { cluster := cl, index := bits x 0 10 } with
  | none => trapping s 0x03
  | some q =>
    require s (mayPost s t q) 0x06
    require s (q.sealat.isNone && q.status ≠ 3) 0x11
    .ok q

/-- POST (R188, R374): a release at module scope when the card is appended; it waits for the ring's word `reserve` at its home (R116). -/
def execPost (d a b : SReg) (s : State) : Out :=
  let va := (readReg s a).toNat
  if inHandler s then .next (takeStop s (scalarStop s 0x02))
  else match postChecks s va (readReg s b) with
    | .error k => unstick s k
    | .ok q =>
      match teamRead s va 128 with
      | .error k => unstick s k
      | .ok card =>
        let w := hwWho (queueDom s q) q.asid
        if !present s w q.ring (256 + 128 * 2 ^ q.k) then .next (readFault s q.ring 1 0)
        else if gateWaits s w q.ring 8 then .next (askGate s w q.ring)
        else afterStores (touchBytes s va 128) fun s1 =>
          match appendCard s1 q card with
          | some (r, s2) => .next (finish s2 d (BitVec.ofNat 64 r))
          | none => .next (finish s1 d 0xFFFFFFFFFFFFFFFF)

/-- The level of a kind to which a team belongs (R33, R189): its launch, or one above it. -/
def ownLevel (s : State) (t : Team) (kind : Nat) : Option Level :=
  let up (l : Option Level) : Option Level := match l with
    | some x => levelRec s x.parent
    | none => none
  let l0 := levelRec s t.card.launch
  match kind with
  | 0 => l0
  | 1 => up l0
  | 2 => up (up l0)
  | _ => up (up (up l0))

/-- The level that a handle names (R189, R388): the handle is the VA of the level's counter word, in the team's domain. -/
def levelAt (s : State) (t : Team) (va : Nat) : Option Level :=
  s.sched.levels.reverse.find? fun l => l.va = va && asidDom s l.asid = teamDomain s t
    && (l.asid = t.card.asid || !(s.sched.levels.any fun x => x.va = va && x.asid = t.card.asid))

/-- The checks of `cancel` and `ctr` (R189, R388), and the level. -/
def namedLevel (s : State) (kind : BitVec 2) (h : Nat) : Except Stuck Level := do
  let t := s.team
  if h = 0 then
    match ownLevel s t kind.toNat with
    | some l => .ok l
    | none => trapping s 0x03
  else
    require s (levelOf t = 1) 0x02
    match levelAt s t h with
    | some l => if l.kind = kind.toNat then .ok l else trapping s 0x03
    | none => trapping s 0x03

/-- CANCEL (R38, R39, R189, R389). -/
def execCancel (level : BitVec 2) (a : SReg) (s : State) : Out :=
  match namedLevel s level (readReg s a).toNat with
  | .error k => unstick s k
  | .ok l =>
    let s1 := settleLevels (sweepSaved (cancelLevel s l.id))
    let s2 := if cancelling s1 s1.team then setTeam s1 { s1.team with ord := { s1.team.ord with ownCancel := true } } else s1
    .next (advance s2)

/-- CTR (R36, R189). -/
def execCtr (level : BitVec 2) (d a : SReg) (s : State) : Out :=
  match namedLevel s level (readReg s a).toNat with
  | .error k => unstick s k
  | .ok l => .next (finish s d (BitVec.ofNat 64 (counterWord l)))

end Sys2Proof.Machine
end

