-- ==== Sys2Proof/Machine/Cache.lean ====
section
/-! DEFINITION. Cache maintenance (R191, R192, R358, R359) and stash bindings (R96 to R98, R193). -/

namespace Sys2Proof.Machine

/-- The regions that a range of bytes touches, by a VA in each. -/
def regionVas (va n : Nat) : List Nat :=
  (List.range ((va + n - 1) / 2 ^ 21 - va / 2 ^ 21 + 1)).map fun i => if i = 0 then va else (va / 2 ^ 21 + i) * 2 ^ 21

/-- The checks of a `cache` function, all made before any sector is acted on (R191, R284). -/
def cacheTrap (s : State) (va n : Nat) (need : Right) (discards : Bool) : Option Nat :=
  let w := focusWho s
  if 2 ^ 56 < va + n then some 0x04
  else if overlap va n Config.aperture 131072 then some 0x06
  else
    let rs := regionVas va n
    if rs.any (fun a => (regionAt s w a).isNone) then some 0x05
    else if rs.any (fun a => (rightsTrap s w a need).isSome) then some 0x06
    else if rs.any (fun a => kindAt s (tagOf w.asid a) a = 2) || (discards && (va % 64 ≠ 0 || n % 64 ≠ 0)) then some 0x03
    else none

/-- Whether a sector of an address space is one that a team's range overlaps. -/
def inRange (asid va n : Nat) (tag sec : Nat) : Bool := tag = tagOf asid sec && overlap va n sec 64

/-- Sector copies rewritten by a function of the copy, and the home bits brought up to date (R394). -/
def rewriteCopies (s : State) (f : SectorCopy → Option SectorCopy) : State :=
  let copies := s.fab.copies.filterMap f
  let home (h : HomeBits) : Option HomeBits :=
    let mine := copies.filter fun c => c.asid = h.asid && c.sec = h.sec
    let h1 := { h with
      owner := h.owner && mine.any (fun c => c.st = .E || c.st = .M || c.st = .O)
      shared := h.shared || mine.any (·.st = .S) }
    if h1.owner || h1.shared then some h1 else none
  { s with fab := { s.fab with copies := copies, homes := s.fab.homes.filterMap home } }

/-- Modified copies in a range of coherent kinds written to their homes and kept clean (R191). -/
def cleanCopies (s : State) (asid va n : Nat) : State :=
  let here (c : SectorCopy) : Bool := inRange asid va n c.asid c.sec && snooped (kindAt s c.asid c.sec)
  rewriteCopies (writeCopies s here) fun c =>
    if here c then
      some { c with st := match c.st with | .M => .E | .O => .S | x => x }
    else some c

/-- The sectors of a range dropped from every L1 (R191). -/
def dropL1 (s : State) (asid va n : Nat) : State :=
  { s with fab := { s.fab with l1 := s.fab.l1.filter fun x => !inRange asid va n x.asid x.sec } }

/-- Clean copies in a range dropped (R191): of coherent kinds in the whole module, in a handoff region from the issuing cluster's L1s, and of a
broadcast window none. -/
def dropClean (s : State) (cl asid va n : Nat) : State :=
  let leaves (x : L1Line) : Bool :=
    let k := kindAt s x.asid x.sec
    inRange asid va n x.asid x.sec && (snooped k || (k = 3 && x.core / 16 = cl))
  rewriteCopies { s with fab := { s.fab with l1 := s.fab.l1.filter fun x => !leaves x } } fun c =>
    if inRange asid va n c.asid c.sec && snooped (kindAt s c.asid c.sec) && (c.st = .S || c.st = .E) then none else some c

/-- The VA range of a handoff copy, found through the page that holds it. -/
def handIn (s : State) (w : Who) (va n : Nat) (h : HandCopy) : Bool :=
  s.xl.pages.any fun p =>
    let base := p.ctrl * 2 ^ 35 + p.frame * 4096
    let size := if p.gidx.isSome then 4096 else 65536
    let sec := p.vpage * 65536 + p.gidx.getD 0 * 4096 + (h.dpa - base)
    p.far.isNone && decide (base ≤ h.dpa) && decide (h.dpa < base + size) && inRange w.asid va n p.asid sec

/-- The handoff sectors of a cluster in a range written to home DRAM and kept clean (R91, R191). -/
def cleanHand (s : State) (cl : Nat) (w : Who) (va n : Nat) : State :=
  s.hand.foldl (fun s h =>
    if h.cluster = cl && h.dirty && handIn s w va n h then
      setHand { s with mem := setBytes s.mem h.dpa h.bytes } { h with dirty := false }
    else s) s

/-- The clean handoff sectors of a cluster in a range dropped; modified ones are kept (R91, R191). -/
def dropHand (s : State) (cl : Nat) (w : Who) (va n : Nat) : State :=
  { s with hand := s.hand.filter fun h => !(h.cluster = cl && !h.dirty && handIn s w va n h) }

/-- What fn 2 does for one cluster (R191, R384). -/
def wbInvAll (s : State) (cl : Nat) (w : Who) (va n : Nat) : State :=
  dropClean (cleanCopies (dropHand (cleanHand s cl w va n) cl w va n) w.asid va n) cl w.asid va n

/-- The team's earlier stores to a range, drained; whether one that is not held is left. -/
def rangeStores (s : State) (va n : Nat) : State × Bool :=
  let w := focusWho s
  let s1 := drainTeam s w.team
  (s1, s1.sb.any fun e => e.team = w.team && !e.held && inRange w.asid va n e.asid e.sector)

/-- A `cache` function that changes no value: its checks, the wait for earlier stores to the range, and its effect (R191). A stop names sa,
whichever region of the range is at fault, since the manual names no address (assumption log 107). -/
def cacheFn (s : State) (a b : SReg) (act : State → Nat → Who → Nat → Nat → State) : Out :=
  let va := (readReg s a).toNat
  let n := (readReg s b).toNat
  if n = 0 then .next (advance s)
  else match cacheTrap s va n .r false with
    | some c => .next (takeStop s (scalarStop s c va))
    | none =>
      let r := rangeStores s va n
      if r.2 then .next r.1
      else .next (advance (act r.1 (focusWho s).cluster (focusWho s) va n))

/-- CACHE_WB (R191). -/
def execCacheWb (a b : SReg) (s : State) : Out :=
  cacheFn s a b fun s cl w va n => cleanCopies (cleanHand s cl w va n) w.asid va n
/-- CACHE_INV (R191). -/
def execCacheInv (a b : SReg) (s : State) : Out :=
  cacheFn s a b fun s cl w va n => dropClean (dropHand s cl w va n) cl w.asid va n
/-- CACHE_WBINV (R191). -/
def execCacheWbinv (a b : SReg) (s : State) : Out := cacheFn s a b wbInvAll

/-- Whether a noted stop is that of a paused copy or collective of a team (R292, R299). -/
def engineStop (s : State) (h : Nat) (st : Stop) : Bool :=
  s.eng.copies.any (fun c => c.team = h && c.paused && c.tmplVa = st.iva)
    || s.eng.colls.any fun c => c.team = h && c.paused && c.descVa = st.iva

/-- A stop noted for the held stores of a page that have all been dropped is not delivered (R358). -/
def withdrawStop (s : State) (h tag page : Nat) : State :=
  if (heldOn s h tag page).isEmpty then
    let stays (st : Stop) : Bool := !(st.cause = 0x14 && st.va / 65536 = page) || engineStop s h st
    updTeam s h fun t => { t with ord := { t.ord with stops := t.ord.stops.filter stays, later := t.ord.later.filter stays } }
  else s

/-- Held entries of every team of a domain that write a range dropped, their faults suppressed (R192, R358). -/
def suppressHeld (s : State) (dom asid va n : Nat) : State :=
  let gone := s.sb.filter fun e => e.held && (entryWho s e).domain = dom && inRange asid va n e.asid e.sector
  let s1 := { s with sb := s.sb.filter fun e => !gone.contains e }
  gone.foldl (fun s e =>
    withdrawStop (recount s e.team e.asid (e.sector / 65536) true) e.team e.asid (e.sector / 65536)) s1

/-- One sector given up (R191, R192, R358): every copy in the module is dropped, and each byte of it then holds a free value. Copies of a
handoff sector in other clusters are dropped with the rest, as R358 says of every kind (assumption log 102). -/
def discardSector (s : State) (w : Who) (sec k : Nat) : State :=
  let tag := tagOf w.asid sec
  match whereIs s w.domain tag sec with
  | .absent => s
  | x =>
    let s0 := rewriteCopies (dropL1 s w.asid sec 64) fun c => if c.asid = tag && c.sec = sec then none else some c
    let s1 := setHome { s0 with fab := { s0.fab with evicts := s0.fab.evicts.filter (· ≠ (tag, sec)) } } tag sec false false
    let s2 := match x with
      | .dram p => { s1 with hand := s1.hand.filter (·.dpa ≠ p) }
      | _ => s1
    (List.range 64).foldl (fun s i => byteInto s (whereIs s w.domain tag (sec + i)) (Config.freeByte (draw s (64 * k + i)))) s2

/-- The dirty bits of the 64 KiB pages that a discard covers whole are cleared (R359). -/
def clearDirty (s : State) (asid va n : Nat) : State :=
  let one (p : PageEntry) : PageEntry :=
    let base := p.vpage * 65536
    if p.asid = tagOf asid base && decide (va ≤ base) && decide (base + 65536 ≤ va + n) then { p with dirty := false } else p
  { s with xl := { s.xl with pages := s.xl.pages.map one } }

/-- CACHE_DISCARD (R191, R192, R358, R359). -/
def execCacheDiscard (a b : SReg) (s : State) : Out :=
  let va := (readReg s a).toNat
  let n := (readReg s b).toNat
  let w := focusWho s
  if n = 0 then .next (advance s)
  else match cacheTrap s va n .w true with
    | some c => .next (takeStop s (scalarStop s c va))
    | none =>
      let r := rangeStores s va n
      if r.2 then .next r.1
      else match (sectorsOf va n).find? (fun x => gateAt r.1 w x = .wait) with
        | some x => .next (askGate r.1 w x)
        | none =>
          let s1 := suppressHeld r.1 w.domain w.asid va n
          let s2 := (sectorsOf va n).zipIdx.foldl (fun s x => discardSector s w x.1 x.2) s1
          .next (advance (clearDirty s2 w.asid va n))

/-- Whether a binding may be made (R96). -/
def bindOk (s : State) (va la n : Nat) : Bool :=
  let t := s.team
  let w := focusWho s
  let whole := t.card.sbase * 4096
  va % 4096 = 0 && la % 4096 = 0 && n % 4096 = 0 && n ≠ 0
    && decide (va + n ≤ 2 ^ 56)
    && (regionVas va n).all (fun a => (regionAt s w a).isSome && kindAt s (tagOf w.asid a) a = 0)
    && decide (whole ≤ la) && decide (la + n ≤ whole + t.card.scount * 4096)
    && !(t.ord.bindings.any fun b => overlap b.va b.len va n || overlap b.la b.len la n)
    && decide (t.ord.bindings.length < 4)

/-- CACHE_BIND (R96, R193). -/
def execCacheBind (d a b : SReg) (s : State) : Out :=
  let va := (readReg s a).toNat
  let la := (readReg s d).toNat
  let n := (readReg s b).toNat
  let t := s.team
  if 2 ^ 56 ≤ va then .next (takeStop s (scalarStop s 0x04 va))
  else if overlap va n Config.aperture 131072 then .next (takeStop s (scalarStop s 0x06 va))
  else if !bindOk s va la n then .next (takeStop s (scalarStop s 0x03 va))
  else .next (advance (setTeam s { t with ord := { t.ord with bindings := t.ord.bindings ++ [{ va := va, len := n, la := la }] } }))

/-- The bytes of a sector at the place that its page names, whether or not its home answers. -/
def homeBytes (s : State) (tag sec : Nat) : List Byte := (List.range 64).map fun i => byteIn s (homePlace s tag (sec + i))

/-- The write-back of a modified stash sector whose home answers that its page is not present: held as a store of the team, behind its other
stores, with source "writeback" (R193, R350). -/
def holdWriteBack (s : State) (h tag sec : Nat) : State :=
  match teamOf s h with
  | none => s
  | some t =>
    let e : SbEntry := {
      core := coreOf t, team := h, asid := tag, sector := sec, bytes := (homeBytes s tag sec).zipIdx.map fun b => (b.2, b.1)
      seq := t.ord.seq + 1, iva := t.pc.toNat, source := 4 }
    let s1 := updTeam s h fun t => { t with ord := { t.ord with seq := t.ord.seq + 1 } }
    holdEntry { s1 with sb := s1.sb ++ [e] } e

/-- Whether a copy is of the stash of a team's core, in the range of a binding of the team. -/
def stashCopy (t : Team) (b : Binding) (c : SectorCopy) : Bool :=
  c.holder = 64 + coreOf t && inRange t.card.asid b.va b.len c.asid c.sec

/-- The first modified sector of a binding whose home answers that its page is not present (R350). -/
def stashFault (s : State) (t : Team) (b : Binding) : Option SectorCopy :=
  s.fab.copies.find? fun c =>
    stashCopy t b c && (c.st = .M || c.st = .O) && whereIs s (teamDomain s t) c.asid c.sec = .absent

/-- The write-back of such a sector held, its copy gone (R193, R350). -/
def holdStash (s : State) (t : Team) (c : SectorCopy) : State :=
  holdWriteBack (rewriteCopies s fun x => if x = c then none else some x) t.card.handle c.asid c.sec

/-- The stash's sectors of a team's binding written back and dropped (R98). -/
def dropStash (s : State) (t : Team) (b : Binding) : State :=
  rewriteCopies (writeCopies s (stashCopy t b)) fun c => if stashCopy t b c then none else some c

/-- CACHE_UNBIND (R98, R193): earlier stores to the binding are performed first, and their sectors are written back with it; each write-back
that meets a translation fault takes an entry of the store buffer (R350, R352). -/
def execCacheUnbind (a : SReg) (s : State) : Out :=
  let va := (readReg s a).toNat
  let t := s.team
  if 2 ^ 56 ≤ va then .next (takeStop s (scalarStop s 0x04 va))
  else if inAperture va then .next (takeStop s (scalarStop s 0x06 va))
  else match t.ord.bindings.find? (·.va = va) with
    | none => .next (takeStop s (scalarStop s 0x03 va))
    | some b =>
      let r := rangeStores s b.va b.len
      if r.2 then .next r.1
      else match stashFault r.1 t b with
        | some c =>
          match roomFor r.1 (focusWho s) 1 with
          | .ok => .next (holdStash r.1 t c)
          | .held => .next (heldStop r.1)
          | .wait => .next r.1
        | none =>
          let s1 := dropStash r.1 t b
          .next (advance (setTeam s1 { s1.team with ord := { s1.team.ord with
            bindings := s1.team.ord.bindings.filter (·.va ≠ va) } }))

end Sys2Proof.Machine
end

