-- ==== Sys2Proof/Machine/Collectives.lean ====
section
/-! DEFINITION. Collectives: the descriptor and `coll` (R296, R297), matching (R298), the engine's reads and writes (R299 to
R301), arrivals, queues and counters (R302, R303). -/

namespace Sys2Proof.Machine

/-- A collective descriptor (R296). -/
structure CollDesc where
  kind : Nat
  op : Nat
  fmt : Nat
  flags : Nat
  group : Nat
  root : Nat
  src : Nat
  ranks : Nat
  dst : Nat
  dstride : Nat
  queue : Nat
  slotctr : Nat
  donectr : Nat
deriving DecidableEq, Repr

/-- The fields of a descriptor's 64 bytes. -/
def collDesc (bs : List Byte) : CollDesc where
  kind := field bs 0 1
  op := field bs 1 1
  fmt := field bs 2 1
  flags := field bs 3 1
  group := field bs 4 2
  root := field bs 6 2
  src := field bs 8 8
  ranks := field bs 0x10 8
  dst := field bs 0x18 8
  dstride := field bs 0x20 4
  queue := field bs 0x24 4
  slotctr := field bs 0x28 8
  donectr := field bs 0x30 8

/-- Whether the destination is local. -/
def CollDesc.isLocal (d : CollDesc) : Bool := bit d.flags 0
/-- Whether there is an arrival queue. -/
def CollDesc.queued (d : CollDesc) : Bool := bit d.flags 1
/-- Whether there are per-slot counters. -/
def CollDesc.counted (d : CollDesc) : Bool := bit d.flags 2
/-- Whether a kind folds contributions. -/
def CollDesc.reduces (d : CollDesc) : Bool := d.kind = 1 || d.kind = 2 || d.kind = 4

/-- The reasons that need the descriptor alone (R297): 1 to 4. -/
def collReason (bs : List Byte) : Option Nat :=
  let d := collDesc bs
  if 4 < d.kind || 2 < d.op || (d.op ≠ 0 && (d.kind = 0 || d.kind = 3)) then some 1
  else if 15 < d.fmt || (d.reduces && 6 < d.fmt) then some 2
  else if 8 ≤ d.flags || 2 ^ 18 ≤ d.queue || field bs 0x38 8 ≠ 0 || (d.root ≠ 0 && d.kind ≤ 2) || (d.isLocal && 2 ^ 18 ≤ d.dst)
    then some 3
  else if (if d.isLocal then d.dstride % 4096 ≠ 0 else d.dstride ≠ 0)
      || (if d.queued then d.queue % 16 ≠ 0 || !d.isLocal else d.queue ≠ 0)
      || (if d.counted then d.slotctr % 8 ≠ 0 || d.slotctr = 0 else d.slotctr ≠ 0) then some 4
  else none

/-- A trap of the collective descriptor (R297, R362): the descriptor's VA in iva and va. -/
def collTrap {α : Type} (s : State) (va reason : Nat) : Except Stuck α :=
  .error (.trap { scalarStop s 0x0F va reason with iva := va })

/-- The participating ranks (R296): every rank, or those that the bitmap names. -/
def ranksFrom (r : Group) (bitmap : Option Nat) : List Nat :=
  match bitmap with
  | none => List.range r.rankmap.length
  | some m => (List.range r.rankmap.length).filter (bit m ·)

/-- The elements of the output of one slot (R296). -/
def slotElems (kind elems n : Nat) : Nat := if kind = 2 then elems / n else elems
/-- The number of output slots. -/
def slotCount (kind n : Nat) : Nat := if kind = 0 then n else 1
/-- The output size in elements (R296). -/
def outElems (kind elems n : Nat) : Nat := slotElems kind elems n * slotCount kind n
/-- The bytes of some packed elements (R63). -/
def packedBytes (width n : Nat) : Nat := (n * width + 7) / 8

/-- The bytes of a local destination, one (address, count) for each slot (R296). -/
def collRanges (d : CollDesc) (elems n : Nat) : List (Nat × Nat) :=
  if !d.isLocal then []
  else ((List.range (slotCount d.kind n)).map fun p =>
    (d.dst + p * d.dstride, packedBytes (widthOf d.fmt) (slotElems d.kind elems n))).filter fun x => 0 < x.2

/-- The tiles of some local ranges, in order. -/
def rangeTiles (rs : List (Nat × Nat)) : List Nat :=
  rs.flatMap fun x => (List.range ((x.1 + x.2 - 1) / 4096 - x.1 / 4096 + 1)).map (x.1 / 4096 + ·)

/-- Step 10 of R297: bounds of the destination and the queue, their tiles' owners, and the queue's header. -/
def collLocalChecks (s : State) (d : CollDesc) (elems n : Nat) : Except Stuck Unit := do
  let t := s.team
  let core := coreOf t
  let rs := collRanges d elems n
  match rs.find? fun x => !inWindow t x.1 || !inWindow t (x.1 + x.2 - 1) with
  | some x => trapping s 0x08 x.1
  | none =>
    let q := qheader s core d.queue
    let last := d.queue + 15 + 8 * 2 ^ min q.lcap 8
    require s (!d.queued || (inWindow t d.queue && inWindow t (d.queue + 15) && inWindow t last)) 0x08 d.queue
    match (rangeTiles rs).find? fun x => (tileRec s core x).owner ≠ 3 with
    | some x => trapping s 0x09 (4096 * x)
    | none =>
      require s (!d.queued || ((tileRec s core (tileOf d.queue)).owner = 0 && (tileRec s core (tileOf last)).owner = 0)) 0x09 d.queue
      require s (!d.queued || (q.lcap ≤ 8 && q.rest = 0)) 0x03 d.queue

/-- Step 9 of R297: the contribution, a destination record, and the counters. -/
def collSpanChecks (s : State) (d : CollDesc) (src : Shape) (dst : Option Shape) (n : Nat) : Except Stuck Unit := do
  checkSpan s (byteSpan src src.base 0) .r
  match dst with
  | some r => checkSpan s (byteSpan r r.base 0) .w
  | none => .ok ()
  if d.counted then checkSpan s (some ((d.slotctr : Int), 8 * slotCount d.kind n)) .rw
  if d.donectr ≠ 0 then checkSpan s (some ((d.donectr : Int), 8)) .rw

/-- The ranks that write an output: all, or the root alone for a reduce (R296). -/
def collDests (d : CollHash) : List Nat := if d.kind = 4 then [d.root] else d.ranks

/-- The next issue count of a rank on a group (R297). -/
def nextIssue (r : Group) (rank : Nat) : Nat :=
  match r.issue.find? (·.1 = rank) with
  | some x => x.2 + 1
  | none => 1

/-- The messages by which a rank's collective is matched at its peers (R298): they carry the hash and no data. -/
def hashTiles (c : Coll) : List CollTile :=
  (c.hash.ranks.filter (· ≠ c.rank)).map fun r =>
    { group := c.group, issue := c.issue, rank := r, slot := c.hash.ranks.idxOf c.rank, tile := 0, data := [], hash := c.hash }

/-- The module of a rank of a group (R413). -/
def rankModule (s : State) (g rank : Nat) : Nat :=
  match groupOf s g with
  | some r => r.rankmap.getD rank s.link.moduleId
  | none => s.link.moduleId

/-- Tiles sent to the ranks that they name (R299, R405); those for other modules are held while remote issue is sealed (R414). -/
def sendTiles (s : State) (xs : List CollTile) : State :=
  xs.foldl (fun s x =>
    let m := rankModule s x.group x.rank
    if sealed s && m ≠ s.link.moduleId then { s with link := { s.link with heldOut := s.link.heldOut ++ [x] } }
    else transmit { s with link := { s.link with sentTiles := s.link.sentTiles ++ [x] } } m (.tile x)) s

/-- A collective accepted (R297): the issue count rises, and the collective is outstanding. -/
def acceptColl (s : State) (r : Group) (c : Coll) : State :=
  let issue := (r.issue.filter fun x => x.1 ≠ c.rank) ++ [(c.rank, c.issue)]
  let s1 := setGroup s { r with issue := issue }
  sendTiles { s1 with eng := { s1.eng with colls := s1.eng.colls ++ [c] } } (hashTiles c)

/-- The steps 7 to 11 of R297 and the acceptance; the answer holds the issue count. A source whose format is not the descriptor's traps at its issuer
in step 8, before any hash could differ at a peer (R323; assumption log 118). -/
def startColl (s : State) (va : Nat) (bs : List Byte) (r : Group) (rank : Nat) (parts : List Nat) : Except Stuck (Nat × State) := do
  let t := s.team
  let d := collDesc bs
  if !parts.contains rank || ((d.kind = 3 || d.kind = 4) && !parts.contains d.root) then collTrap s va 5
  else
    let sb ← readRec s d.src
    let src := shapeOf sb
    if !shapeOk src then recordTrap s d.src va
    else
      let s1 := afterRec s d.src sb
      let db ← if d.isLocal then .ok [] else readRec s1 d.dst
      let dst := if d.isLocal then none else some (shapeOf db)
      if (match dst with | some x => !shapeOk x | none => false) then recordTrap s d.dst va
      else
        let s2 := if d.isLocal then s1 else afterRec s1 d.dst db
        let n := parts.length
        let e := src.count
        let fits := match dst with
          | some x => x.fmt = d.fmt && x.count = outElems d.kind e n
          | none => true
        if src.fmt ≠ d.fmt || !fits || (d.kind = 2 && e % n ≠ 0) then collTrap s va 6
        else
          collSpanChecks s d src dst n
          collLocalChecks s d e n
          if Config.rankCollectives ≤ (s.eng.colls.filter fun c => c.group = d.group && c.rank = rank).length then .error .later
          else
            let (id, s3) := newId s2
            let issue := nextIssue r rank
            let c : Coll := {
              id := id, cluster := t.place.cluster, core := coreOf t, team := t.card.handle, asid := t.card.asid
              group := d.group, issue := issue, rank := rank, ranks := parts, descVa := va, desc := bs, src := sb, dst := db
              sup := t.card.level = 1
              hash := { kind := d.kind, op := d.op, fmt := d.fmt, elems := e, root := d.root, ranks := parts } }
            .ok (issue, acceptColl s3 r c)

/-- The checks of `coll` in order (R297). The 128 bytes of the ranks bitmap are checked for R and read between steps 6 and 7, with no
alignment asked for, and its bits from the group's rank count up are ignored: the model's choice (assumption log 87). -/
def collChecks (s : State) (va : Nat) : Except Stuck (Nat × State) := do
  checkTrap s (addrTrap s (focusWho s) va 64 .r) va
  let bs ← teamRead s va 64
  let s1 := touchBytes s va 64
  match collReason bs with
  | some r => collTrap s va r
  | none =>
    let d := collDesc bs
    match groupOf s d.group with
    | none => trapping s 0x03 va
    | some g =>
      if g.state = 1 then .error (.trap { scalarStop s 0x12 va with detail := d.group })
      else match issuingRank s g s.team with
        | none => trapping s 0x06 va
        | some rank =>
          if d.ranks = 0 then startColl s1 va bs g rank (ranksFrom g none)
          else
            checkSpan s (some ((d.ranks : Int), 128)) .r
            let m ← teamRead s1 d.ranks 128
            startColl (touchBytes s1 d.ranks 128) va bs g rank (ranksFrom g (some (ofBytes m)))

/-- COLL (R297). -/
def execColl (d a : SReg) (s : State) : Out :=
  if inHandler s then .next (takeStop s (scalarStop s 0x02))
  else match collChecks s (readReg s a).toNat with
    | .ok (issue, s1) => .next (finish s1 d (BitVec.ofNat 64 issue))
    | .error k => unstick s k

/-- The collective of an identifier. -/
def collOf (s : State) (id : Nat) : Option Coll := s.eng.colls.find? (·.id = id)

/-- The state with a collective's record replaced. -/
def setColl (s : State) (c : Coll) : State :=
  { s with eng := { s.eng with colls := s.eng.colls.map fun x => if x.id = c.id then c else x } }

/-- The slot of this rank. -/
def Coll.slot (c : Coll) : Nat := c.ranks.idxOf c.rank
/-- Elements in a tile of 4 KiB (R302). -/
def Coll.perTile (c : Coll) : Nat := 32768 / widthOf c.hash.fmt
/-- The tiles that some elements make. -/
def Coll.tilesFor (c : Coll) (elems : Nat) : Nat := (elems + c.perTile - 1) / c.perTile
/-- The tiles of this rank's contribution that are read: none when only the root's is (R296). -/
def Coll.reads (c : Coll) : Nat := if c.hash.kind = 3 && c.rank ≠ c.hash.root then 0 else c.tilesFor c.hash.elems
/-- Whether this rank writes an output. -/
def Coll.writes (c : Coll) : Bool := (collDests c.hash).contains c.rank
/-- The elements of one output slot. -/
def Coll.slotSize (c : Coll) : Nat := slotElems c.hash.kind c.hash.elems c.ranks.length
/-- The tiles of one output slot. -/
def Coll.slotTiles (c : Coll) : Nat := c.tilesFor c.slotSize
/-- The number of slots that this rank writes. -/
def Coll.slots (c : Coll) : Nat := if c.writes then slotCount c.hash.kind c.ranks.length else 0
/-- The requester of a collective's accesses. -/
def collWho (s : State) (c : Coll) : Who := engineWho s c.core c.asid c.sup

/-- A collective pauses at a fault (R299); that of a team that is gone is dropped with it (assumption log 77). -/
def collFault (s : State) (c : Coll) (va kind : Nat) : State :=
  if (teamOf s c.team).all (fun t => 4 ≤ t.place.run) then { s with eng := { s.eng with colls := s.eng.colls.filter (·.id ≠ c.id) } }
  else
  let s1 := setColl s { c with paused := true }
  let s2 := putDefer s1 c.team { kind := kind, source := 7, access := 3, va := va, asid := tagOf c.asid va, iva := c.descVa }
  noteStop s2 c.team { cause := 0x14, va := va, iva := c.descVa }

/-- Packed elements as bytes, in their order and size (R296, R63). -/
def packCodes (width : Nat) (codes : List Nat) : List Byte :=
  if width = 4 then
    (List.range ((codes.length + 1) / 2)).map fun i => BitVec.ofNat 8 (codes.getD (2 * i) 0 + 16 * codes.getD (2 * i + 1) 0)
  else codes.flatMap (toBytes (width / 8))

/-- One element of packed bytes. -/
def packedCode (width : Nat) (bs : List Byte) (i : Nat) : Nat :=
  if width = 4 then nibble (bs.getD (i / 2) 0) (i % 2 = 1) else field bs (i * (width / 8)) (width / 8)

/-- Element `j` of a slot's contribution, once its tile is here. -/
def collCode (c : Coll) (slot j : Nat) : Option Nat :=
  (c.inbox.find? fun x => x.1 = slot && x.2.1 = j / c.perTile).map fun x => packedCode (widthOf c.hash.fmt) x.2.2 (j % c.perTile)

/-- A value in the accumulator's format (R300): bf16 and f16 widen to f32 exactly. -/
def foldWiden (fmt code : Nat) : Nat := if fmt = 5 || fmt = 6 then (roundTo 4 0 (decodeFloat fmt code)).1 else code

/-- One step of the fold (R300). -/
def foldOp (fmt op acc x : Nat) : Nat :=
  if isFloat fmt then
    let a := decodeFloat 4 acc
    let b := decodeFloat 4 x
    if op = 0 then (addCodes 4 0 a b).1 else (roundTo 4 0 (minMaxVal (op = 1) a b)).1
  else
    let w := widthOf fmt
    let a := if isSigned fmt then sInt w acc else (acc : Int)
    let b := if isSigned fmt then sInt w x else (x : Int)
    toBits w (if op = 0 then a + b else if op = 1 then min a b else max a b)

/-- The fold of a list of codes in slot order (R300); every NaN is canonical. -/
def foldCodes (fmt op : Nat) (xs : List Nat) : Nat :=
  match xs with
  | [] => 0
  | x :: rest =>
    let acc := (rest.map (foldWiden fmt)).foldl (foldOp fmt op) (foldWiden fmt x)
    if isFloat fmt then (roundTo fmt 0 (decodeFloat 4 acc)).1 else acc

/-- Every member of a list that is there, or none when one is not. -/
def allSome {α : Type} : List (Option α) → Option (List α)
  | [] => some []
  | none :: _ => none
  | some x :: xs => (allSome xs).map (x :: ·)

/-- One element of the output of a slot, once what it needs is here (R296, R300). -/
def outCode (c : Coll) (p j : Nat) : Option Nat :=
  let n := c.ranks.length
  match c.hash.kind with
  | 0 => collCode c p j
  | 3 => collCode c (c.ranks.idxOf c.hash.root) j
  | _ =>
    let e := if c.hash.kind = 2 then c.slot * c.slotSize + j else j
    (allSome ((List.range n).map fun q => collCode c q e)).map (foldCodes c.hash.fmt c.hash.op)

/-- The elements of tile `t` of a slot's output, once all are here. -/
def outTile (c : Coll) (p t : Nat) : Option (List Nat) :=
  allSome ((List.range (min c.perTile (c.slotSize - t * c.perTile))).map fun i => outCode c p (t * c.perTile + i))

/-- The number of tiles of a slot already written. -/
def tilesWritten (c : Coll) (p : Nat) : Nat := (c.written.filter (·.1 = p)).length

/-- The next output tile that may be written, with its elements (R302): for an all-gather this rank's own slot first, then the
other slots in arrival order; for the rest in ascending order. -/
def nextOut (c : Coll) : Option (Nat × Nat × List Nat) :=
  if !c.writes then none
  else if c.hash.kind ≠ 0 then
    let t := tilesWritten c 0
    if t < c.slotTiles then (outTile c 0 t).map fun x => (0, t, x) else none
  else
    let own := tilesWritten c c.slot
    if own < c.slotTiles then (outTile c c.slot own).map fun x => (c.slot, own, x)
    else match c.inbox.find? fun x => x.1 ≠ c.slot && x.2.1 = tilesWritten c x.1 with
      | some x => (outTile c x.1 x.2.1).map fun y => (x.1, x.2.1, y)
      | none => none

/-- The local bytes (address, count) of output tile `t` of slot `p` at a local destination (R302). -/
def pieceRange (c : Coll) (p t : Nat) : Nat × Nat :=
  let d := collDesc c.desc
  (d.dst + p * d.dstride + 4096 * t, packedBytes (widthOf c.hash.fmt) (min c.perTile (c.slotSize - t * c.perTile)))

/-- Whether the collective engine may write some tiles of local memory now (R267): each names it and has no readers, but for those that an
early flip has taken from the collective. -/
def pieceOpen (s : State) (c : Coll) (p t : Nat) : Bool :=
  (rangeTiles [pieceRange c p t]).all fun x =>
    c.closed.contains x || ((tileRec s c.core x).owner = 3 && (tileRec s c.core x).readers = 0)

/-- The bytes of some local memory range that lie in one tile, below an address, written. -/
def writePiece (core la : Nat) (bs : List Byte) (stop : Nat) (s : State) (tile : Nat) : State :=
  let lo := max la (4096 * tile)
  let hi := min stop (min (la + bs.length) (4096 * (tile + 1)))
  lmWrite s core lo ((bs.drop (lo - la)).take (hi - lo))

/-- One output tile written to its local destination (R302, R267), but for what an early flip skips; none while it must wait for the owner or
the readers of a tile. -/
def outLocal (s : State) (c : Coll) (p t : Nat) (codes : List Nat) : Option State :=
  let la := (pieceRange c p t).1
  let bs := packCodes (widthOf c.hash.fmt) codes
  if pieceOpen s c p t then
    some (((rangeTiles [pieceRange c p t]).filter (!c.closed.contains ·)).foldl (writePiece c.core la bs (la + bs.length)) s)
  else none

/-- The 64 B sectors that an output tile has in a tile of local memory. -/
def pieceSectors (c : Coll) (tile : Nat) (x : Nat × Nat) : List Nat :=
  let r := pieceRange c x.1 x.2
  if r.2 = 0 then []
  else ((List.range ((r.1 + r.2 - 1) / 64 - r.1 / 64 + 1)).map (r.1 / 64 + ·)).filter fun k => k / 64 = tile

/-- The output tiles of a collective at its rank. -/
def Coll.outTiles (c : Coll) : List (Nat × Nat) := (List.range c.slots).flatMap fun p => (List.range c.slotTiles).map fun t => (p, t)

/-- The bytes of an output tile in sectors that it does not fill, which another one may share, joined to those that the collective has written
already, with what they held before (R267). -/
def pieceUndo (s : State) (c : Coll) (p t : Nat) : List (Nat × Byte) :=
  let r := pieceRange c p t
  let edge (a : Nat) : Bool := decide (a / 64 * 64 < r.1) || decide (r.1 + r.2 < a / 64 * 64 + 64)
  undoBytes s c.core c.tiles ((s.eng.colls.filter fun x => x.id ≠ c.id && x.core = c.core).flatMap (·.tiles))
    (((List.range r.2).map (r.1 + ·)).filter fun a => edge a && !c.closed.contains (tileOf a))

/-- The bytes of an output tile that lie in a sector, written. -/
def writeSector (core la : Nat) (bs : List Byte) (s : State) (sec : Nat) : State :=
  let lo := max la (64 * sec)
  lmWrite s core lo ((bs.drop (lo - la)).take (min (la + bs.length) (64 * sec + 64) - lo))

/-- The output tiles of a collective that are not written yet and have bytes in a tile of local memory. -/
def tileLeft (c : Coll) (tile : Nat) : List (Nat × Nat) :=
  c.outTiles.filter fun x => !c.written.contains x && pieceSectors c tile x ≠ []

/-- The sectors of a tile that a collective still writes whole as the tile flips away (R267): of an output tile that is ready there, any number of
those that no other one still shares. -/
def flipWhole (s : State) (c : Coll) (tile : Nat) : List Nat :=
  match (if c.paused then none else nextOut c) with
  | some (p, t, _) =>
    if pieceOpen s c p t then
      ((pieceSectors c tile (p, t)).filter fun k => !(tileLeft c tile).any fun x => x ≠ (p, t) && (pieceSectors c tile x).contains k).take
        (Config.freePick (draw s (tile % 64)) % 65)
    else []
  | none => []

/-- Whether a tile flips away from a collective that has begun to write it and has not done with it (R267). -/
def flipsFrom (s : State) (core : Nat) (tile : Nat) (c : Coll) : Bool :=
  c.core = core && !c.closed.contains tile && (collDesc c.desc).isLocal && !(tileLeft c tile).isEmpty
    && (!(flipWhole s c tile).isEmpty || c.written.any fun x => pieceSectors c tile x ≠ [])

/-- What such a flip leaves of a collective's bytes in the tile (R267): the sectors that it writes whole, and every other one that is written in
part as it was before. -/
def flipBytes (s : State) (c : Coll) (tile : Nat) : State :=
  let now := flipWhole s c tile
  let s1 := match nextOut c with
    | some (p, t, codes) => now.foldl (writeSector c.core (pieceRange c p t).1 (packCodes (widthOf c.hash.fmt) codes)) s
    | none => s
  undo s1 c.core c.tiles fun k =>
    decide (k / 64 = tile) && !now.contains k && (tileLeft c tile).any fun x => (pieceSectors c tile x).contains k

/-- The early-flip rule for the collectives that write a tile (R267): each writes to the tile no more. -/
def flipColls (s : State) (core tile : Nat) : State :=
  let s1 := (s.eng.colls.filter (flipsFrom s core tile)).foldl (fun s c => flipBytes s c tile) s
  { s1 with eng := { s1.eng with
    colls := s1.eng.colls.map fun c => if flipsFrom s core tile c then { c with closed := tile :: c.closed } else c } }

/-- The offsets of the elements of a tile in a destination record (R296). -/
def outOffsets (c : Coll) (dst : Shape) (p t n : Nat) : List Int :=
  (List.range n).map fun i =>
    offsetAt dst.strides (tupleOf dst.dims ((if c.hash.kind = 0 then p * c.hash.elems else 0) + t * c.perTile + i))

/-- The tile is written: it joins the tiles written, in order. -/
def tileOut (s : State) (c : Coll) (p t : Nat) : State := setColl s { c with written := c.written ++ [(p, t)] }

/-- One output tile written to a destination record, or what it meets (R299). -/
def outRecord (s : State) (c : Coll) (p t : Nat) (codes : List Nat) : State :=
  let dst := shapeOf c.dst
  let w := collWho s c
  let offs := outOffsets c dst p t codes.length
  if halfToGroup s w dst.bits dst.base offs && tagOwed s c.id then s
  else match firstMet (offs.map fun o => engineMeets s w (toBits 56 (elemByte dst.bits dst.base o)) (elemBytes dst) .w) with
  | .fault x kind => collFault s c x kind
  | .wait x => askGate s w x
  | .go => tileOut (engineCells s w (copyTag c.id) (cellsOf s w dst.bits dst.base (offs.zip codes))) c p t

/-- A slot of the output whose tiles are written and performed and whose entries are appended, and that is not counted yet (R303, R121). -/
def slotReady (s : State) (c : Coll) : Option Nat :=
  let d := collDesc c.desc
  if tagOwed s c.id then none
  else (List.range c.slots).find? fun p =>
    !c.slotDone.contains p && tilesWritten c p = c.slotTiles
      && (!d.queued || (c.appended.filter (·.1 = p)).length = c.slotTiles)

/-- An engine's addition of 1 to a counter, or what it meets, and the record after it. -/
def collAdd (s : State) (c : Coll) (va : Nat) (next : State → State) : State :=
  let w := collWho s c
  match engineMeets s w va 8 .rw with
  | .fault x kind => collFault s c x kind
  | .wait x => askGate s w x
  | .go => next (engineAdd s w (copyTag c.id) va 1)

/-- Whether the output is complete at this rank and every read has been made (R299). -/
def collReady (s : State) (c : Coll) : Bool :=
  c.slotDone.length = c.slots && c.sent = c.reads && !tagOwed s c.id

/-- A collective that is complete at its rank leaves it, once the add to its final counter has been performed (R299). -/
def collEnds (s : State) (c : Coll) : State :=
  if tagOwed s c.id then s else { s with eng := { s.eng with colls := s.eng.colls.filter (·.id ≠ c.id) } }

/-- One thing that the engine does at a rank's output: a tile, a slot's counter, or the end. -/
def collAct (s : State) (c : Coll) : State :=
  let d := collDesc c.desc
  if c.done then collEnds s c
  else match slotReady s c with
  | some p =>
    let next (s : State) : State := setColl s { c with slotDone := c.slotDone ++ [p] }
    if d.counted then collAdd s c (d.slotctr + 8 * p) next else next s
  | none =>
    match nextOut c with
    | some (p, t, codes) =>
      if d.isLocal then
        match outLocal s c p t codes with
        | some s1 => tileOut s1 { c with tiles := pieceUndo s c p t } p t
        | none => s
      else outRecord s c p t codes
    | none =>
      if !collReady s c then s
      else if d.donectr = 0 then collEnds s c
      else collAdd s c d.donectr fun s => collEnds (setColl s { c with done := true }) c

/-- The engine goes on at a rank's output as far as it can (R299, R302, R303). -/
def collGo (id : Nat) : Nat → State → State
  | 0, s => s
  | n + 1, s =>
    match collOf s id with
    | none => s
    | some c => if c.paused then s else collGo id n (collAct s c)

/-- The engine's output at a rank after something has arrived. -/
def collProgress (s : State) (c : Coll) : State := collGo c.id (c.inbox.length + c.slots + 2) s

/-- The element offsets of a tile of the contribution (R299). -/
def readOffsets (c : Coll) (src : Shape) : List Int :=
  (List.range (min c.perTile (c.hash.elems - c.sent * c.perTile))).map fun i =>
    offsetAt src.strides (tupleOf src.dims (c.sent * c.perTile + i))

/-- A tile of a contribution put in a rank's inbox. -/
def intoInbox (c : Coll) (slot tile : Nat) (bs : List Byte) : Coll :=
  if c.inbox.any fun x => x.1 = slot && x.2.1 = tile then c else { c with inbox := c.inbox ++ [(slot, tile, bs)] }

/-- The next tile of a contribution read and sent (R299, R301), or what it meets. -/
def readTile (s : State) (c : Coll) : State :=
  let src := shapeOf c.src
  let w := collWho s c
  let offs := readOffsets c src
  match firstMet (offs.map fun o => engineMeets s w (toBits 56 (elemByte src.bits src.base o)) (elemBytes src) .r) with
  | .fault x kind => collFault s c x kind
  | .wait x => askGate s w x
  | .go =>
    let bs := packCodes src.bits (offs.map (readElem s w src.bits src.base))
    let out := ((collDests c.hash).filter (· ≠ c.rank)).map fun r =>
      ({ group := c.group, issue := c.issue, rank := r, slot := c.slot, tile := c.sent, data := bs, hash := c.hash } : CollTile)
    let c1 := if c.writes then intoInbox c c.slot c.sent bs else c
    sendTiles (setColl s { c1 with sent := c.sent + 1 }) out

/-- Whether a rank's next tile goes to another module, which a seal holds back (R414). -/
def goesOut (s : State) (c : Coll) : Bool :=
  match groupOf s c.group with
  | some r => (collDests c.hash).any fun x => x ≠ c.rank && r.rankmap.getD x 0 ≠ s.link.moduleId
  | none => false

/-- CONTRIBUTION_READ (R299): the engine reads the next tile of the rank's contribution and sends it to the peers. -/
def execContributionRead (id : Nat) (s : State) : Out :=
  match collOf s id with
  | none => .next s
  | some c =>
    if c.paused || !clocked s c.core then .next s
    else
      let s1 := if c.reads ≤ c.sent || (sealed s && goesOut s c) then s else readTile s c
      match collOf s1 id with
      | some c1 => .next (collProgress s1 c1)
      | none => .next s1

/-- Two hashes of one issue count differ (R298): the teams with that collective outstanding stop with the mismatch cause, and the
group enters error. -/
def collMismatch (s : State) (t : CollTile) : State :=
  let hit := s.eng.colls.filter fun c => c.group = t.group && c.issue = t.issue
  let s1 := { s with eng := { s.eng with colls := s.eng.colls.filter fun c =>
    !(c.group = t.group && hit.any fun x => x.team = c.team) } }
  let s2 := hit.foldl (fun s c => noteStop s c.team { cause := 0x16, iva := c.descVa, detail := t.group, aux := t.issue }) s1
  groupError s2 t.group

/-- COLLECTIVE_TILE_RECEIVE (R298, R301, R302): a tile of a peer's contribution arrives at the rank whose collective waits for it. A hash that
differs from that of a collective outstanding here under its issue count is a mismatch, whichever rank found it (assumption log 88). -/
def execCollectiveTileReceive (t : CollTile) (s : State) : Out :=
  let mine := s.eng.colls.filter fun c => c.group = t.group && c.issue = t.issue
  let s0 := { s with link := { s.link with sentTiles := s.link.sentTiles.erase t } }
  if mine.any fun c => decide (t.hash ≠ c.hash) then .next (collMismatch s0 t)
  else match mine.find? fun c => c.rank = t.rank with
    | none => .next s
    | some c =>
      if t.data = [] then .next s0
      else
        let c1 := intoInbox c t.slot t.tile t.data
        .next (collProgress (setColl s0 c1) c1)

/-- An arrival queue entry (R302). -/
def arrivalEntry (slot tile la : Nat) : Nat := slot % 1024 * 2 ^ 54 + tile % 4096 * 2 ^ 42 + la % 2 ^ 18

/-- The entry of the next tile appended at tail (R302, R186); none while the queue's tile has another owner, its header is not
valid, or it is full. -/
def appendArrival (s : State) (c : Coll) (p t : Nat) : Option State :=
  let d := collDesc c.desc
  let q := qheader s c.core d.queue
  let open0 (la : Nat) : Bool := (tileRec s c.core (tileOf la)).owner = 0
  let slot := qentry d.queue q q.tail
  if open0 d.queue && q.ok && decide (q.used < 2 ^ q.lcap) && open0 slot then
    let s1 := lmWrite s c.core slot (toBytes 8 (arrivalEntry p t (d.dst + p * d.dstride + 4096 * t)))
    some (setColl (lmWrite s1 c.core (d.queue + 4) (toBytes 4 (q.tail + 1))) { c with appended := c.appended ++ [(p, t)] })
  else none

/-- The tile of a slot whose entry is appended next (R302): the first one written that has none; of a job that Levanter replays, a tile
written that the log names next, however early the others have come (R445). -/
def nextArrival (s : State) (c : Coll) (job slot : Nat) : Option (Nat × Nat) :=
  let left := c.written.filter fun x => !c.appended.contains x
  if levReplays s job then left.find? fun x => x.1 = slot && levMayArrive s job c.group x.1 x.2 c.rank c.issue
  else left.head?.filter (·.1 = slot)

/-- ARRIVAL_APPEND (R302, R303): the entry of the next tile written, when that tile is of the slot. -/
def execArrivalAppend (id slot : Nat) (s : State) : Out :=
  match collOf s id with
  | none => .next s
  | some c =>
    let d := collDesc c.desc
    let job := match teamOf s c.team with
      | some t => t.card.job
      | none => 0
    match nextArrival s c job slot with
    | none => .next (askLog s)
    | some (p, t) =>
      if !d.queued || c.paused || !clocked s c.core then .next s
      else match appendArrival s c p t with
        | none => .next s
        | some s1 =>
          let s2 := levArrive s1 job c.group p t c.rank c.issue
          match collOf s2 id with
          | some c2 => .next (collProgress s2 c2)
          | none => .next s2

end Sys2Proof.Machine
end

