-- ==== Sys2Proof/Machine/Groups.lean ====
section
/-! DEFINITION. Sequenced group requests: the root's stamps and its deduplication windows (R304, R305, R409), stamp replies and
resends (R408, R410), application at a member (R401, R411), and the reports that let the root forget (R411). -/

namespace Sys2Proof.Machine

/-- Whether a module can be reached: it is this one, or its route names a port that is up. -/
def reachable (s : State) (m : Nat) : Bool :=
  m = s.link.moduleId
    || match routePort s m with
      | some p => (portRec s p).up
      | none => false

/-- The other members that a root knows: the ranks' modules, its children, and those that have reported. -/
def groupMembers (s : State) (r : Group) : List Nat :=
  ((r.rankmap ++ r.children ++ r.reports.map (·.1)).eraseDups).filter (· ≠ s.link.moduleId)

/-- The last stamp that a member has reported applied (R411), and the resends made to it since. -/
def reportOf (r : Group) (m : Nat) : Nat × Nat :=
  match r.reports.find? (·.1 = m) with
  | some x => x.2
  | none => (0, 0)

/-- Whether every reachable member is known to have applied a stamp (R411, R413). -/
def caughtUp (s : State) (r : Group) (stamp : Nat) : Bool :=
  let there (m : Nat) : Bool := !reachable s m || decide (stamp ≤ (reportOf r m).1)
  decide (stamp ≤ r.applied) && (groupMembers s r).all there && decide (r.members ≤ ((groupMembers s r).filter there).length + 1)

/-- The stamped requests that the root still keeps (R411). -/
def trimKept (s : State) (g : Nat) : State :=
  match groupOf s g with
  | some r => setGroup s { r with kept := r.kept.filter fun k => !caughtUp s r k.1 }
  | none => s

/-- What a root knows of a source module. -/
def sourceOf (r : Group) (m : Nat) : DedupSource :=
  match r.sources.find? (·.src = m) with
  | some x => x
  | none => { src := m }

/-- A group's record with what its root knows of a source replaced. -/
def setSource (r : Group) (x : DedupSource) : Group := { r with sources := r.sources.filter (·.src ≠ x.src) ++ [x] }

/-- Whether the root may stamp a request now: no stamp is given in error (R295), at most 65,536 are kept (R411), and a replay's log
names it next (R445). -/
def mayStamp (s : State) (r : Group) (q : GroupReq) : Bool :=
  r.state = 0 && decide (r.kept.length < Config.rootKeeps) && levMayStamp s q r.nextStamp

/-- The stamped request sent to members (R410). -/
def sendStamped (s : State) (ms : List Nat) (stamp : Nat) (q : GroupReq) : State :=
  ms.foldl (fun s m => transmit s m (.stamped stamp q)) { s with link := { s.link with stamped := s.link.stamped ++ ms.map fun m => (m, stamp, q) } }

/-- A stamp reply sent to the request's originator (R410). -/
def sendReply (s : State) (q : GroupReq) (stamp : Nat) : State :=
  transmit { s with link := { s.link with replies := s.link.replies ++ [(q.src, q.group, q.number, stamp)] } } q.src
    (.reply q.group q.number stamp)

/-- A member's report to the root of the last stamp that it has applied (R411). -/
def sendReport (s : State) (r : Group) : State :=
  transmit (setGroup s { r with reports := [(r.root, r.applied, 0)], unread := 0 }) r.root (.report r.number r.applied)

/-- A request gets the next stamp (R304, R409, R410): its reply to the originator, and the stamped request to the children and to
the root itself. -/
def giveStamp (s : State) (r : Group) (q : GroupReq) : State :=
  let st := r.nextStamp
  let x := sourceOf r q.src
  let win := x.window ++ [(q.number, st)]
  let x1 := { x with
    high := q.number, window := win.drop (win.length - Config.groupWindow), held := x.held.filter (·.number ≠ q.number) }
  let s1 := setGroup s (setSource { r with nextStamp := st + 1, kept := r.kept ++ [(st, q)] } x1)
  levStamp (sendStamped (sendReply s1 q st) (r.children ++ [s.link.moduleId]) st q) q st

/-- The held requests of a source that follow are stamped in turn (R409). -/
def stampHeld (g src : Nat) : Nat → State → State
  | 0, s => s
  | n + 1, s =>
    match groupOf s g with
    | none => s
    | some r =>
      let x := sourceOf r src
      match x.held.find? fun q => q.number = x.high + 1 with
      | none => s
      | some q => if mayStamp s r q then stampHeld g src n (giveStamp s r q) else s

/-- STAMP (R409, R410): at the root, a request is stamped, held, answered from the window, or dropped; at another member it climbs. -/
def execStamp (q : GroupReq) (s : State) : Out :=
  let mine : Bool := q.src = s.link.moduleId
  match groupOf s q.group with
  | none => .next s
  | some r =>
    if mine && !s.link.requests.contains q then .next s
    else if r.root ≠ s.link.moduleId then
      .next (if mine then s else climb s r q)
    else
      let s1 := { s with link := { s.link with requests := s.link.requests.erase q } }
      let x := sourceOf r q.src
      if q.number = x.high + 1 then
        if mayStamp s r q then .next (stampHeld q.group q.src (x.held.length + 1) (giveStamp s1 r q)) else .next (askLog s)
      else if x.high + 1 < q.number then
        if x.held.any (·.number = q.number) || x.high + Config.groupWindow < q.number then .next s1
        else .next (setGroup s1 (setSource r { x with held := x.held ++ [q] }))
      else match x.window.find? (·.1 = q.number) with
        | some w => .next (sendReply s1 q w.2)
        | none => .next s1

/-- STAMP_REPLY (R408, R410): the request's timer stops, and a waiting request may be numbered. -/
def execStampReply (group number stamp : Nat) (s : State) : Out :=
  match groupOf s group with
  | none => .next s
  | some r =>
    let reply := (s.link.moduleId, group, number, stamp)
    if r.root = s.link.moduleId && !s.link.replies.contains reply then .next s
    else
      let s1 := { s with link := { s.link with replies := s.link.replies.erase reply } }
      let s2 := setGroup s1 { r with outstanding := r.outstanding.filter fun x => x.1.number ≠ number }
      .next (pumpGroup group (r.waiting.length + 1) s2)

/-- The home controller of a window's line as it applies a stamped request (R401). -/
def windowWho (s : State) (r : Group) (va : Nat) : Who :=
  let tag := tagOf r.asid va
  match pageOf s tag va with
  | some p =>
    { core := p.ctrl * 16, domain := if tag = 0 then p.gdom else asidDom s tag, asid := r.asid, sup := true, team := 0 }
  | none => hwWho (asidDom s tag) r.asid

/-- A stamped request's effect on the local replica (R401): the value that an atomic read, and the state. -/
def applyOp (s : State) (r : Group) (op : GroupOp) : Nat × State :=
  match op with
  | .store bytes =>
    let secs := (bytes.map fun b => sectorOf b.1).eraseDups
    let s1 := secs.foldl (fun s x => touchWrite s (windowWho s r x) x) s
    (0, bytes.foldl (fun s b => writeByte s (windowWho s r b.1) b.1 b.2) s1)
  | .atomic va aop kind opnd cmp => amoAct s (windowWho s r va) (kindOfCode kind) aop.toNat va opnd.toNat cmp.toNat

/-- The value that an atomic read goes to the first of a team's atomics under way in its group that has none: they are applied in the order
in which they left (R124, R408). -/
def answerAtom (g : Nat) (old : Word) : List GroupAtom → List GroupAtom
  | [] => []
  | a :: as => if a.group = g && a.value.isNone then { a with value := some old } :: as else a :: answerAtom g old as

/-- The old value of an atomic goes to the team that waits for it (R172, R306), and to Levanter. -/
def giveOld (s : State) (q : GroupReq) (va old : Nat) : State :=
  let s1 := updTeam s q.team fun t => { t with ord := { t.ord with atoms := answerAtom q.group (BitVec.ofNat 64 old) t.ord.atoms } }
  match teamOf s1 q.team with
  | some t => levAtomic s1 t q.asid va old
  | none => s1

/-- The next stamp applied at this member and forwarded to its children (R410, R411), with a report to the root after every 64; a store of this module
has been performed (R87). -/
def applyStamp (s : State) (r : Group) (stamp : Nat) (q : GroupReq) : State :=
  let mine : Bool := q.src = s.link.moduleId
  let e := applyOp s r q.op
  let r1 := { r with
    applied := stamp, unread := r.unread + 1
    unapplied := if mine then r.unapplied.filter fun x => x.1 ≠ q.number else r.unapplied }
  let s1 := setGroup e.2 r1
  let s2 := match q.op with
    | .atomic va _ _ _ _ => if mine then giveOld s1 q va e.1 else s1
    | .store bytes => if mine then groupPerformed s1 q.team q.asid bytes else s1
  let s3 := if r.root = s.link.moduleId then trimKept s2 q.group
    else
      let s3 := sendStamped s2 r.children stamp q
      match groupOf s3 q.group with
      | some r3 => if 64 ≤ r3.unread then sendReport s3 r3 else s3
      | none => s3
  settleBuffer s3

/-- The early stamps that follow are applied in turn (R411). -/
def applyEarly (g : Nat) : Nat → State → State
  | 0, s => s
  | n + 1, s =>
    match groupOf s g with
    | none => s
    | some r =>
      match r.early.find? fun e => e.1 = r.applied + 1 with
      | none => s
      | some e => applyEarly g n (applyStamp s { r with early := r.early.erase e } e.1 e.2)

/-- STAMPED_REQUEST_APPLY (R304, R305, R401, R411): the next stamp is applied, an early one is held, and any other is dropped. -/
def execStampedRequestApply (stamp : Nat) (q : GroupReq) (s : State) : Out :=
  match groupOf s q.group with
  | none => .next s
  | some r =>
    let sent := (s.link.moduleId, stamp, q)
    if r.root = s.link.moduleId && !s.link.stamped.contains sent then .next s
    else
      let s1 := { s with link := { s.link with stamped := s.link.stamped.erase sent } }
      if stamp = r.applied + 1 then .next (applyEarly q.group (r.early.length + 1) (applyStamp s1 r stamp q))
      else if r.applied < stamp && stamp ≤ r.applied + Config.groupWindow && !r.early.any (·.1 = stamp) then
        .next (setGroup s1 { r with early := r.early ++ [(stamp, q)] })
      else .next s1

/-- END_TO_END_RESEND (R408): a request without a reply is sent again; after 16 resends the group enters error. -/
def execEndToEndResend (group number : Nat) (s : State) : Out :=
  match groupOf s group with
  | none => .next s
  | some r =>
    match r.outstanding.find? fun x => x.1.number = number with
    | none => .next s
    | some (q, n) =>
      if sealed s || r.state = 1 then .next s
      else if 16 ≤ n then .next (groupError s group)
      else
        let s1 := setGroup s { r with outstanding := r.outstanding.map fun x => if x.1.number = number then (x.1, x.2 + 1) else x }
        .next (climb s1 r q)

/-- APPLIED_REPORT (R411): a report reaches the root, or this member sends its own. -/
def execAppliedReport (group member applied : Nat) (s : State) : Out :=
  match groupOf s group with
  | none => .next s
  | some r =>
    if r.root = s.link.moduleId then
      if member = s.link.moduleId then .next s
      else
        let rest := r.reports.filter fun x => x.1 ≠ member
        .next (trimKept (setGroup s { r with reports := rest ++ [(member, max applied (reportOf r member).1, 0)] }) group)
    else if member = s.link.moduleId && applied = r.applied then
      .next (sendReport s r)
    else .next s

/-- ROOT_RESEND (R411): the kept stamps that a member has not reported are sent to it again; after 16 resends the group enters
error. -/
def execRootResend (group member : Nat) (s : State) : Out :=
  match groupOf s group with
  | none => .next s
  | some r =>
    let rep := reportOf r member
    let due := r.kept.filter fun k => rep.1 < k.1
    if r.root ≠ s.link.moduleId || !(groupMembers s r).contains member || due.isEmpty || sealed s || r.state = 1 then .next s
    else if 16 ≤ rep.2 then .next (groupError s group)
    else
      let rest := r.reports.filter fun x => x.1 ≠ member
      let s1 := setGroup s { r with reports := rest ++ [(member, rep.1, rep.2 + 1)] }
      .next (due.foldl (fun s k => sendStamped s [member] k.1 k.2) s1)

end Sys2Proof.Machine
end

