-- ==== Sys2Proof/Machine/Nodes.lean ====
section
/-! DEFINITION. Cards as nodes of a job's graphs: their fields (R376), their graph's level, and a node's end (R382, R35). -/

namespace Sys2Proof.Machine

/-- The card of an identifier. -/
def cardOf (s : State) (id : CardId) : Option Card := s.sched.cards.find? (·.id = id)

/-- The state with a card changed. -/
def updCard (s : State) (id : CardId) (f : Card → Card) : State :=
  { s with sched := { s.sched with cards := s.sched.cards.map fun c => if c.id = id then f c else c } }

/-- The state with a node's card at a standing; its successors may become ready (R382). -/
def standNode (s : State) (n : NodeId) (x : Nat) : State :=
  match nodeCard s n with
  | some c => markReady (updCard s c.id fun c => { c with standing := x })
  | none => s

/-- A tile-task or command node ends (R378, R382): completed, it counts in its graph; failed, its graph fails (R35), and the
saved teams of the levels that fail are removed (R38). -/
def nodeEnds (s : State) (n : NodeId) (ok : Bool) : State :=
  let s1 := standNode s n (if ok then 2 else 3)
  match graphLevel s1 n.job n.graph with
  | none => s1
  | some l => if ok then addDone s1 l.id else sweepSaved (failLevel s1 l.id)

end Sys2Proof.Machine
end

