-- ==== Sys2Proof/Machine/Report.lean ====
section
/-! DEFINITION. The module error log (R447), and commands as Tramontane takes them from their cards: operands and reserved
bytes (R381), when a command may run (R371, R380), and its result word (R380). -/

namespace Sys2Proof.Machine

/-- The state with a cluster's record set. -/
def setCluster (s : State) (cl : Nat) (c : Cluster) : State :=
  { s with fw := { s.fw with clusters := sset {} s.fw.clusters cl c } }

/-- The opcode of a command card (R380). -/
def Card.opcode (c : Card) : Nat := field c.bytes 0x38 2

/-- The operands of each command as (offset, bytes, bits) (R381); none for an opcode that no command has. -/
def operandTable (op : Nat) : Option (List (Nat × Nat × Nat)) :=
  match op with
  | 0x01 => some [(0x48, 1, 6), (0x49, 1, 8), (0x4A, 2, 10), (0x4C, 1, 8), (0x4D, 1, 1), (0x4E, 2, 14), (0x50, 8, 64), (0x58, 8, 64),
      (0x60, 4, 32), (0x64, 1, 3)]
  | 0x02 => some [(0x48, 1, 8), (0x4A, 2, 16)]
  | 0x03 => some [(0x48, 1, 8), (0x4A, 2, 16), (0x4C, 1, 8)]
  | 0x04 => some [(0x48, 1, 8), (0x4A, 2, 16)]
  | 0x05 => some [(0x48, 2, 14), (0x4A, 1, 3)]
  | 0x06 => some [(0x48, 2, 14), (0x4A, 1, 1), (0x50, 8, 35), (0x58, 8, 64)]
  | 0x07 => some [(0x48, 2, 14), (0x4A, 1, 1), (0x50, 8, 64), (0x58, 8, 64)]
  | 0x08 => some [(0x48, 2, 14), (0x50, 8, 64)]
  | 0x09 => some [(0x48, 2, 14), (0x4A, 1, 1), (0x50, 8, 64)]
  | 0x0A => some [(0x50, 8, 64)]
  | 0x0B => some [(0x48, 1, 3), (0x50, 8, 64)]
  | 0x20 => some [(0x48, 2, 12), (0x4C, 4, 32), (0x50, 8, 64)]
  | 0x21 => some [(0x48, 2, 16), (0x4C, 4, 32), (0x50, 8, 64), (0x58, 8, 64)]
  | 0x22 => some [(0x50, 8, 64)]
  | 0x23 => some [(0x48, 2, 16)]
  | 0x24 => some [(0x48, 2, 14), (0x4A, 1, 8), (0x50, 8, 56)]
  | 0x25 => some [(0x48, 2, 14), (0x4A, 1, 8), (0x4B, 1, 8), (0x4C, 2, 16), (0x50, 8, 64), (0x58, 8, 64)]
  | 0x26 => some [(0x48, 1, 8), (0x49, 1, 8)]
  | _ => none

/-- Whether a command's opcode is known and every reserved byte and bit of its body is zero (R381, R448): else code 1. -/
def operandsOk (c : Card) : Bool :=
  match operandTable c.opcode with
  | none => false
  | some fs =>
    field c.bytes 0x3A 6 = 0
      && fs.all (fun f => decide (field c.bytes f.1 f.2.1 < 2 ^ f.2.2))
      && (List.range 52).all fun i =>
        field c.bytes (0x48 + i) 1 = 0 || fs.any fun f => decide (f.1 ≤ 0x48 + i) && decide (0x48 + i < f.1 + f.2.1)

/-- Tramontane acting for a queue (R380): the queue's domain, its job's ASID, supervisor authority. -/
def queueWho (s : State) (q : Queue) : Who := hwWho (queueDom s q) q.asid

/-- Whether Tramontane may read some bytes for a queue's command (R380, R448). -/
def cmdReadable (s : State) (q : Queue) (va n : Nat) : Bool :=
  decide (va + n ≤ 2 ^ 56) && (rangeTrap s (queueWho s q) va n .r).isNone && present s (queueWho s q) va n

/-- Whether a result word can be written (R380). -/
def cmdWritable (s : State) (q : Queue) (va : Nat) : Bool :=
  va % 8 = 0 && (addrTrap s (queueWho s q) va 8 .w).isNone && present s (queueWho s q) va 8

/-- The bytes of an operand record. -/
def cmdRead (s : State) (q : Queue) (va n : Nat) : List Byte := hwRead s (queueDom s q) q.asid va n

/-- The VA of a command's result word. -/
def Card.resultVa (c : Card) : Nat := field c.bytes 0x40 8

/-- A command of the device queue leaves it; a command node of a graph ends (R371, R382). -/
def cmdEnds (s : State) (c : Card) (code : Nat) : State :=
  match queueOf s c.id.queue with
  | some q =>
    if q.kind = 2 then { s with sched := { s.sched with cards := s.sched.cards.filter (·.id ≠ c.id) } }
    else nodeEnds s c.nodeId (code = 0)
  | none => s

/-- The result word written, and the command's end (R380). -/
def cmdResult (s : State) (c : Card) (code : Nat) : State :=
  match queueOf s c.id.queue with
  | some q => cmdEnds (hwWrite s (queueDom s q) q.asid c.resultVa (toBytes 8 code)) c code
  | none => s

/-- Whether a command is held by something that will write its result later. -/
def cmdHeld (s : State) (id : CardId) : Bool :=
  s.link.groups.any (fun g => g.card = some id || g.also.contains id) || s.hostp.flips.any (·.card = id)
    || (match s.link.change with
      | some t => t.card = id
      | none => false)

/-- Whether a card's turn has come (R371, R380): on the device queue it is the oldest card left, elsewhere a node that has
started; commands of one queue complete in card order, so no earlier command of its queue that may still run is left; and its result is
not being waited for. -/
def cmdTurn (s : State) (q : Queue) (c : Card) : Bool :=
  let left := s.sched.cards.filter fun x => x.id.queue = c.id.queue && x.kind = 2 && x.id.slot < c.id.slot
    && (q.kind = 2 || cardOpen s x)
  left.isEmpty && (q.kind = 2 || c.standing = 1) && !cmdHeld s c.id

/-- The commands of a queue with no known opcode, or with a reserved bit set, refused with code 1 as their turns come. -/
def refuseUnknown (qid : QueueId) : Nat → State → State
  | 0, s => s
  | n + 1, s =>
    match queueOf s qid with
    | none => s
    | some q =>
      match s.sched.cards.find? fun c => c.id.queue = qid && c.kind = 2 && (operandTable c.opcode).isNone && cmdTurn s q c with
      | some c => refuseUnknown qid n (cmdResult s c 1)
      | none => s

/-- A command's end with its result word, and what then has its turn. -/
def cmdDone (s : State) (c : Card) (code : Nat) : State :=
  refuseUnknown c.id.queue s.sched.cards.length (cmdResult s c code)

/-- The card and queue of a command whose opcode is `op` and whose turn has come. -/
def cmdOf (s : State) (id : CardId) (op : Nat) : Option (Card × Queue) :=
  match cardOf s id, queueOf s id.queue with
  | some c, some q => if c.kind = 2 && c.opcode = op && cmdTurn s q c then some (c, q) else none
  | _, _ => none

/-- What a command comes to: refused with a code, done, or left for a later step to end. -/
inductive Ran where
  | refused (code : Nat)
  | done (s : State)
  | later (s : State)

/-- A command refused with a code where a condition of R448 holds, and else what follows. -/
def refuseIf (p : Bool) (code : Nat) (next : Ran) : Ran := if p then .refused code else next

/-- A command that its card's event runs (R380, R381, R448): reserved bits first, then the link state (R412), then its own
conditions and effect. -/
def runCommand (s : State) (id : CardId) (op : Nat) (linked : Bool) (body : State → Card → Queue → Ran) : Out :=
  match cmdOf s id op with
  | none => .next s
  | some (c, q) =>
    if !operandsOk c then .next (cmdDone s c 1)
    else if linked && 1 ≤ s.link.state.toNat && s.link.state.toNat ≤ 3 then .next (cmdDone s c 8)
    else match body s c q with
      | .refused code => .next (cmdDone s c code)
      | .done s1 => .next (cmdDone s1 c 0)
      | .later s1 => .next s1

/-- An operand of a command. -/
def Card.arg (c : Card) (off n : Nat) : Nat := field c.bytes off n

end Sys2Proof.Machine
end

