-- ==== Sys2Proof/Machine/Links.lean ====
section
/-! DEFINITION. The link block: flits and their retransmission (R403 to R405, R407), training (R406), and the steps of a topology
change (R414, R415). -/

namespace Sys2Proof.Machine

/-- The module ports. -/
def modulePorts (s : State) : List Nat := (List.range 16).filter fun n => (portRec s n).role = 1

/-- The module ports that the routing table names. -/
def routedPorts (s : State) : List Nat :=
  (modulePorts s).filter fun n => s.link.routes.any fun e => bit e.2 15 && e.2 % 16 = n

/-- A port retrains (R407): its up bit is 0 meanwhile. -/
def retrain (r : Port) : Port := { r with up := false, training := true, replays := 0, asked := 0 }

/-- The replay buffer after the peer has acknowledged a hop sequence (R407). -/
def acked (hack : Nat) (fs : List Flit) : List Flit :=
  if fs.any (·.hseq = hack) then (fs.dropWhile fun f => f.hseq ≠ hack).drop 1 else fs

/-- The channels that a port carries: 4 to 7 on a host port (R416), and on a module port those of the links between modules (R403). -/
def takesChan (r : Port) (chan : Nat) : Bool := if r.role = 2 then decide (4 ≤ chan) && decide (chan ≤ 7) else decide (chan ≤ 4)

/-- A packet that has come whole at a port (R404, R416): it is consumed here, where the events of its message say what it does, or it is through
traffic. -/
def packetCame (s : State) (port chan : Nat) (p : Packet) : State :=
  if (portRec s port).role = 2 || p.dst = s.link.moduleId then s else routePacket s port chan p

/-- FLIT_RECEIVE (R403 to R405, R407): the next flit with a correct CRC is accepted, and with the last flit of a packet the packet has come; any other
flit is dropped and a replay is asked for from the sequence expected. -/
def execFlitReceive (port : Nat) (f : Flit) (s : State) : Out :=
  let r := portRec s port
  if 16 ≤ port || r.role = 0 || !r.up then .next s
  else if f.crc = flitCrc f && f.hseq = r.expect then
    let left := acked f.hack r.buffer
    let bytes := (if f.first then [] else sget [] r.parts f.chan) ++ fit 64 f.payload
    let s1 := setPort s port { r with
      expect := (r.expect + 1) % 4096, buffer := left, asked := 0
      replays := if left.length < r.buffer.length then 0 else r.replays
      parts := sset [] r.parts f.chan (if f.last then [] else bytes) }
    let s2 := pumpPort port r.waiting.length s1
    .next (if f.last && takesChan r f.chan then packetCame s2 port f.chan (packetOf bytes) else s2)
  else
    let s1 := { s with link := { s.link with asks := s.link.asks ++ [(port, r.expect)] } }
    .next (setPort s1 port (if 16 ≤ r.asked + 1 then retrain r else { r with asked := r.asked + 1 }))

/-- REPLAY (R407): the flits from a sequence are sent again in order; after 16 replays without progress the port retrains. -/
def execReplay (port seq : Nat) (s : State) : Out :=
  let r := portRec s port
  if 16 ≤ port || r.role = 0 || !r.up then .next s
  else
    let again := (r.buffer.dropWhile fun f => f.hseq ≠ seq).map fun f => (port, f)
    let s1 := setPort s port (if 16 ≤ r.replays + 1 then retrain r else { r with replays := r.replays + 1 })
    .next { s1 with link := { s1.link with outbox := s1.link.outbox ++ again } }

/-- The traffic that a seal held goes on (R414): collective tiles under the routing in force, and waiting group requests. -/
def releaseHeld (s : State) : State := pumpAll (sendTiles { s with link := { s.link with heldOut := [] } } s.link.heldOut)

/-- The result of the topology-change command, which ends the change. -/
def endChange (s : State) (code : Nat) : State :=
  match s.link.change with
  | none => s
  | some t =>
    let s1 := { s with link := { s.link with change := none } }
    match cardOf s1 t.card with
    | some c => cmdDone s1 c code
    | none => s1

/-- Step 6 of a topology change (R414, R415): the state becomes 0 or 4, and the held traffic goes. -/
def releaseChange (s : State) : State :=
  match s.link.change with
  | none => s
  | some t =>
    let down := (routedPorts s).any fun n => !(portRec s n).up
    let s1 := { s with link := { s.link with state := if down then 4 else 0 } }
    endChange (releaseHeld s1) (if t.failed then 4 else 0)

/-- Step 5 of a topology change (R414), once every up bit is final: the generation rises. Step 6 follows in the same step of the module or in a
later one, as a free choice. -/
def finishChange (s : State) : State :=
  match s.link.change with
  | none => s
  | some t =>
    if t.step ≠ 4 || (modulePorts s).any (fun n => (portRec s n).training) then s
    else
      let s1 := { s with link := { s.link with gen := s.link.gen + 1, change := some { t with step := 5 } } }
      if Config.freePick (draw s 0) % 2 = 0 then releaseChange s1 else s1

/-- The groups with a member elsewhere enter error once no module port is left that could carry anything to it: every path to it is lost
(R295; assumption log 90). -/
def pathsLost (s : State) : State :=
  if (modulePorts s).any fun n => (portRec s n).up || (portRec s n).training then s
  else s.link.groups.foldl (fun s r => if r.state = 0 && !(groupMembers s r).isEmpty then groupError s r.number else s) s

/-- The packets that wait at a port that is down are dropped where they stand (R405). -/
def dropWaiting (s : State) (port : Nat) : State :=
  let r := portRec s port
  r.waiting.foldl (fun s x => dropPacket s port x.2) (setPort s port { r with waiting := [] })

/-- PORT_TRAINED (R406, R407, R414): training ends; after 4 failed retrainings the port is down, and a module port that is down makes
the state 4; a topology change that waits for every up bit may go on, and one that has raised the generation ends. -/
def execPortTrained (port : Nat) (ok : Bool) (s : State) : Out :=
  let r := portRec s port
  if (s.link.change.map (·.step)) = some 5 then .next (releaseChange s)
  else if 16 ≤ port || r.role = 0 || !r.training then .next s
  else if ok then
    .next (finishChange (pumpPort port r.waiting.length (setPort s port { r with up := true, training := false, fails := 0 })))
  else if r.fails + 1 < 4 then .next (setPort s port { r with fails := r.fails + 1 })
  else
    let s1 := dropWaiting (setPort s port { r with up := false, training := false, fails := 0 }) port
    let s2 := if r.role = 1 && !sealed s then { s1 with link := { s1.link with state := 4 } } else s1
    .next (pathsLost (finishChange s2))

/-- The outstanding counters of the module ports are zero (R414): no flit unacknowledged or still to be sent, no group request without a stamp
reply. -/
def drained (s : State) : Bool :=
  (modulePorts s).all (fun n => (portRec s n).buffer.isEmpty && (portRec s n).waiting.isEmpty)
    && s.link.groups.all fun r => r.root = s.link.moduleId || r.outstanding.isEmpty

/-- The module ports whose light stops at the switches (R414): which ones is a free choice. -/
def darken (s : State) : State :=
  (modulePorts s).foldl (fun s n =>
    if Config.freePick (draw s n) % 2 = 0 then setPort s n { portRec s n with up := false } else s) s

/-- DRAIN_COMPLETE (R414): step 2 ends and the switch message is sent. -/
def execDrainComplete (s : State) : Out :=
  match s.link.change with
  | none => .next s
  | some t =>
    if t.step ≠ 1 || !drained s then .next s
    else
      let s1 := darken s
      .next { s1 with link := { s1.link with
        state := 2, change := some { t with step := 3 }, switchOut := s1.link.switchOut ++ t.msg } }

/-- The routing table of an 8 KiB image (R405). -/
def routesOf (bs : List Byte) : SMap Nat :=
  (List.range 4096).foldl (fun m k => sset 0 m k (field bs (2 * k) 2)) []

/-- Step 4 of a topology change (R414): the new routing table is loaded and every module port retrains. -/
def loadRoutes (s : State) (t : Topology) (failed : Bool) : State :=
  let s1 := { s with link := { s.link with state := 3, routes := routesOf t.table, change := some { t with step := 4, failed := failed } } }
  finishChange ((modulePorts s1).foldl (fun s n => setPort s n { portRec s n with training := true, fails := 0 }) s1)

/-- SWITCH_STATUS (R402, R414, R415). -/
def execSwitchStatus (s : State) : Out :=
  match s.link.change with
  | none => .next s
  | some t => if t.step = 3 then .next (loadRoutes s t (s.link.switchIn ≠ 0)) else .next s

/-- DRAIN_LIMIT_EXPIRY (R415): in step 2 the change is given up with code 3; in step 3 it goes on and is refused with code 4. -/
def execDrainLimitExpiry (s : State) : Out :=
  match s.link.change with
  | none => .next s
  | some t =>
    if t.step = 1 then .next (endChange (releaseHeld { s with link := { s.link with state := 0 } }) 3)
    else if t.step = 3 then .next (loadRoutes s t true)
    else .next s

end Sys2Proof.Machine
end

