-- ==== Sys2Proof/Machine/Fabric.lean ====
section
/-! DEFINITION. Etesian's messages as every receiver acts on them (R392 to R398, R401, R421, R358), the data that moves after them
(R395), and region walks (R345). -/

namespace Sys2Proof.Machine

/-- The holder that sends a message: its cluster's slice, or the stash of one of the cluster's cores (R393, R394). -/
def msgHolder (m : BusMsg) : Nat :=
  match m.stash with
  | some core => 64 + core
  | none => m.cluster

/-- The bus on which a message goes (R14, R391): each bus has its own measured window (R392), which fixes when the message acts and not
what it does. -/
def msgBus (m : BusMsg) : Nat := busOf m.va

/-- Whether the receivers take a message (R334, R393, R370): its sender lives, and its domain is that of the ASID or of the region. -/
def msgTaken (s : State) (m : BusMsg) : Bool :=
  let c := clusterRec s m.cluster
  !c.lost && (m.stash.map (· / 16)).all (· = m.cluster) && (if m.asid = 0 then eGdom (tableEntry s 0 m.va) = c.domain else asidDomain s m.asid = some c.domain)

/-- The line of a message: 256 B. -/
def msgLine (m : BusMsg) : Nat := m.va / 256 * 256

/-- The sectors that a message's mask names. -/
def msgSecs (m : BusMsg) : List Nat := ((List.range 4).filter fun i => m.sectors.getLsbD i).map fun i => msgLine m + 64 * i

/-- The effect of a message on each of its sectors, of a kind that MOESI messages reach (R391, R394). -/
def onSectors (s : State) (m : BusMsg) (f : State → Nat → State) : Out :=
  .next (if msgTaken s m && snooped (kindAt s m.asid m.va) then (msgSecs m).foldl f s else s)

/-- A request of a sector acted (R394, R395): its data is due from the cluster whose mark withholds the sector, or else from the holder of E, O or
M, or else from the home. A slice asks for no sector that a stash of its cluster holds. -/
def requested (m : BusMsg) (act : State → Nat → Nat → Nat → State) (s : State) (sec : Nat) : State :=
  let h := msgHolder m
  let marked := (s.sb.find? fun e => e.marked && e.asid = m.asid && e.sector = sec && e.core / 16 ≠ m.cluster).map (·.core / 16)
  let owner := (s.fab.copies.find? fun c => c.holder ≠ h && c.asid = m.asid && c.sec = sec && (c.st = .E || c.st = .O || c.st = .M)).map (·.holder)
  if m.stash.isNone && (stashHolder s m.cluster m.asid sec).isSome then s
  else
    let d : DataDue := { holder := h, asid := m.asid, sec := sec, tag := m.tag, supplier := marked.or owner }
    let s1 := act s h m.asid sec
    { s1 with fab := { s1.fab with due := s1.fab.due ++ [d] } }

/-- RD (R394): a read by a cluster that holds no copy. -/
def execRd (m : BusMsg) (s : State) : Out :=
  onSectors s m fun s sec => if copyState s (msgHolder m) m.asid sec = .I then requested m actRd s sec else s

/-- RO (R394): an ownership read; a holder of E or M sends none. -/
def execRo (m : BusMsg) (s : State) : Out :=
  onSectors s m fun s sec =>
    match copyState s (msgHolder m) m.asid sec with
    | .E | .M => s
    | _ => requested m actRo s sec

/-- UP (R394, R396): an upgrade; one whose copy did not survive acts as an RO, and then its data must come. -/
def execUp (m : BusMsg) (s : State) : Out :=
  onSectors s m fun s sec =>
    match copyState s (msgHolder m) m.asid sec with
    | .E | .M => s
    | .I => requested m actRo s sec
    | _ => actUp s (msgHolder m) m.asid sec

/-- EV (R91, R97, R394): an eviction from a slice, or the lazy write-back of a stash; O and M data follow to the home. A handoff sector
leaves its cluster without a message. -/
def execEv (m : BusMsg) (s : State) : Out :=
  if kindAt s m.asid m.va = 3 then
    .next ((msgSecs m).foldl (fun s sec =>
      match whereIs s (clusterRec s m.cluster).domain m.asid sec with
      | .dram p => handEvict s m.cluster (sectorOf p)
      | _ => s) s)
  else onSectors s m fun s sec => evictCopy s (msgHolder m) m.asid sec

/-- The recall of a sector (R351, R394): every copy goes, and O and M data go to the home. -/
def recallSector (s : State) (tag sec : Nat) : State :=
  let s1 := if dirtyCopy s tag sec then sendHome s tag sec else s
  setHome (mapCopies s1 tag sec none fun _ => .I) tag sec false (homeBits s tag sec).2

/-- The effect of a home's message that takes sectors from their holders: none on one that is release-pending, when it is not answered
(R116). -/
def onFreeSectors (s : State) (m : BusMsg) (f : State → Nat → State) : Out :=
  onSectors s m fun s sec => if markedSector s m.asid sec then s else f s sec

/-- The reverse-map name of a line's frame dropped after its recall (R351, R393; assumption log 113). -/
def dropName (m : BusMsg) (s : State) (sec : Nat) : State :=
  match homePlace s m.asid sec with
  | .dram p =>
    if m.flag && !s.xl.unnamed.contains (p / 4096) then { s with xl := { s.xl with unnamed := s.xl.unnamed ++ [p / 4096] } } else s
  | _ => s

/-- RC (R116, R351, R393, R394). -/
def execRc (m : BusMsg) (s : State) : Out := onFreeSectors s m fun s sec => dropName m (recallSector s m.asid sec) sec

/-- DC (R358, R394): every copy is dropped with its data, held entries of the sector are dropped, and its contents are free values. -/
def execDc (m : BusMsg) (s : State) : Out :=
  onFreeSectors s m fun s sec =>
    let dom := (clusterRec s m.cluster).domain
    discardSector (suppressHeld s dom m.asid sec 64) (hwWho dom m.asid) sec (sec / 64 % 4)

/-- The sender of an update as a requester. -/
def msgWho (s : State) (m : BusMsg) : Who :=
  { hwWho (clusterRec s m.cluster).domain m.asid with core := m.cluster * 16 }

/-- UH (R397, R398): the update's bytes are applied at every replica of a broadcast window. -/
def execUh (m : BusMsg) (upd : List (Nat × Byte)) (s : State) : Out :=
  if msgTaken s m && kindAt s m.asid m.va = 1 then
    .next ((upd.filter fun b => b.1 < 256).foldl (fun s b => writeByte s (msgWho s m) (msgLine m + b.1) b.2) s)
  else .next s

/-- The type of an update atomic; the message does not tell signed from unsigned (assumption log 3). -/
def updKind (s : State) (a : UpdAtomic) : AmoKind :=
  let signed : Bool := Config.freePick (draw s 0) % 2 = 0
  if a.f32 then .f32 else if a.wide then (if signed then .w64 else .z64) else if signed then .s32 else .z32

/-- UA (R397, R398): the update atomic acts at every replica. -/
def execUa (m : BusMsg) (a : UpdAtomic) (s : State) : Out :=
  if msgTaken s m && kindAt s m.asid m.va = 1 && a.off < 256 then
    .next (amoAct s (msgWho s m) (updKind s a) a.aop.toNat (msgLine m + a.off) a.operand.toNat a.compare.toNat).2
  else .next s

/-- HR at its acted instant (R421): M and O data go to the home, and every copy is S. -/
def actHr (s : State) (tag sec : Nat) : State :=
  setHome (mapCopies s tag sec none fun x => match x with | .I => .I | _ => .S) tag sec false true

/-- HW at its acted instant (R421): every copy goes. -/
def actHw (s : State) (tag sec : Nat) : State := setHome (mapCopies s tag sec none fun _ => .I) tag sec false false

/-- HR (R116, R421). -/
def execHr (m : BusMsg) (s : State) : Out :=
  onFreeSectors s m fun s sec => actHr (if dirtyCopy s m.asid sec then sendHome s m.asid sec else s) m.asid sec

/-- HW (R116, R421). -/
def execHw (m : BusMsg) (s : State) : Out :=
  onFreeSectors s m fun s sec => actHw (if dirtyCopy s m.asid sec then sendHome s m.asid sec else s) m.asid sec

/-- DATA_SUPPLY (R116, R395): the data that a request of a tag waits for arrives, where its supplier may send it. -/
def execDataSupply (m : BusMsg) (s : State) : Out :=
  .next ((msgSecs m).foldl (fun s sec =>
    match s.fab.due.find? fun d => d.holder = msgHolder m && d.asid = m.asid && d.sec = sec && d.tag = m.tag with
    | some d => if maySupply s d then { s with fab := { s.fab with due := s.fab.due.erase d } } else s
    | none => s) s)

/-- WALK_REQUEST (R345): the table controller answers with the region's entry. -/
def execWalkRequest (core asid rn : Nat) (s : State) : Out :=
  let e := sget 0 s.xl.regions (regionKey asid rn)
  .next { s with xl := { s.xl with walks := s.xl.walks ++ [{ core := core, asid := asid, rn := rn, entry := e }] } }

/-- A region entry cached by a core, which holds 512 (R345); the oldest leaves. -/
def cacheRegion (s : State) (c : CachedRegion) : State :=
  let rest := s.xl.rptc.filter fun x => !(x.core = c.core && x.asid = c.asid && x.rn = c.rn)
  let mine := rest.filter (·.core = c.core)
  let kept := match mine with
    | old :: _ => if 512 ≤ mine.length then rest.erase old else rest
    | [] => rest
  { s with xl := { s.xl with rptc := kept ++ [c] } }

/-- WALK_REPLY (R345): the oldest reply reaches its core, which caches the entry when it is valid. -/
def execWalkReply (s : State) : Out :=
  match s.xl.walks with
  | [] => .next s
  | c :: rest =>
    let s1 := { s with xl := { s.xl with walks := rest } }
    .next (if eValid c.entry.toNat then cacheRegion s1 c else s1)

end Sys2Proof.Machine
end

