-- ==== Sys2Proof/Machine/Hosts.lean ====
section
/-! DEFINITION. The host ports: CXL.mem requests and snoops (R417 to R421), bias flips in progress (R422, R423), and far memory (R419). -/

namespace Sys2Proof.Machine

/-- Whether an adapter is bound to a host port (R416). -/
def attached (s : State) (adapter : Nat) : Bool := s.hostp.adapters.any (·.2 = adapter)

/-- The page that holds a DPA and the VA of the DPA, through the reverse map (R351, R418); none for a frame whose name has been dropped. -/
def reverseMap (s : State) (dpa : Nat) : Option (PageEntry × Nat) :=
  if s.xl.unnamed.contains (dpa / 4096) then none
  else match s.xl.pages.find? fun p =>
      let base := p.ctrl * 2 ^ 35 + p.frame * 4096
      p.far.isNone && decide (base ≤ dpa) && decide (dpa < base + (if p.gidx.isSome then 4096 else 65536)) with
  | some p => some (p, p.vpage * 65536 + p.gidx.getD 0 * 4096 + (dpa - (p.ctrl * 2 ^ 35 + p.frame * 4096)))
  | none => none

/-- The page and VA that a host request reaches (R418): a biased page of a host-coherent region, from an attached adapter. -/
def hostTarget (s : State) (r : HostReq) : Option (PageEntry × Nat) :=
  if !attached s r.adapter then none
  else match reverseMap s r.dpa with
    | some (p, va) => if p.biased && kindAt s p.asid va = 4 then some (p, va) else none
    | none => none

/-- A request that reaches no such page is logged (R418, R447): the port is the adapter's, and a free value for one that is not
attached. -/
def logHost (s : State) (r : HostReq) : State :=
  let port := match s.hostp.adapters.find? (·.2 = r.adapter) with
    | some x => x.1
    | none => Config.freePick (draw s 0) % 16
  logError s 8 0xFF 0 port r.dpa 0

/-- An answer to a host: kind 0 data, 1 ownership, 2 write done, 3 a snoop's answer; and the copy that it grants. -/
def reply (s : State) (r : HostReq) (kind : Nat) (data : List Byte) (grant : Nat := 0) : State :=
  let a : HostReply := { adapter := r.adapter, dpa := r.dpa, kind := kind, data := data, grant := grant }
  hostSend { s with hostp := { s.hostp with replies := s.hostp.replies ++ [a] } } r.adapter (.host a)

/-- What a served request lets a host hold of its line (R420): nothing under device bias; under host bias a read grants it shared and ownership
exclusive, while a write leaves the hosts as they are. -/
def grantOf (s : State) (dpa kind : Nat) : Nat :=
  if s.xl.hostBias.contains (dpa / 4096) then (if kind = 0 then 1 else if kind = 1 then 2 else 0) else 0

/-- A host may hold a copy of a line again (R420). -/
def hostHolds (s : State) (dpa : Nat) : State :=
  if s.xl.hostBias.contains (dpa / 4096) then
    { s with fab := { s.fab with cleared := s.fab.cleared.filter (· ≠ dpa / 256) } }
  else s

/-- A host read served (R420): HR when the home has an owner or a sharer, then the sector's data, with no cached copy under device bias. -/
def serveRead (s : State) (r : HostReq) (p : PageEntry) (va : Nat) : State :=
  let hb := homeBits s p.asid (sectorOf va)
  let s1 := if hb.1 || hb.2 then actHr s p.asid (sectorOf va) else s
  reply (hostHolds s1 r.dpa) r 0 (bytesAt s1.mem (sectorOf r.dpa) 64) (grantOf s1 r.dpa 0)

/-- A host ownership or write served (R420): HW when needed, then the data. -/
def serveWrite (s : State) (r : HostReq) (p : PageEntry) (va : Nat) (kind : Nat) (data : List Byte) : State :=
  let hb := homeBits s p.asid (sectorOf va)
  let s1 := if hb.1 || hb.2 then actHw s p.asid (sectorOf va) else s
  let s2 := if data.isEmpty then s1 else { markDirty s1 p.asid va with mem := setBytes s1.mem r.dpa (data.take (64 - r.dpa % 64)) }
  reply (hostHolds s2 r.dpa) r kind [] (grantOf s2 r.dpa kind)

/-- A held or new host request served: kind 0 read, 1 ownership, 2 write. -/
def serveHost (s : State) (h : HeldHost) : State :=
  match hostTarget s h.req with
  | none => logHost (if h.kind = 0 then reply s h.req 0 (List.replicate 64 0) else s) h.req
  | some (p, va) =>
    if h.kind = 0 then serveRead s h.req p va
    else serveWrite s h.req p va h.kind (if h.kind = 2 then h.data else [])

/-- Whether a flip in progress holds a host request (R422, R423): one to host bias while the sector's write-back is in flight; one to
device bias except a write-back of a host that has not answered yet. -/
def flipHolds (s : State) (f : Flip) (h : HeldHost) (p : PageEntry) (va : Nat) : Bool :=
  if f.toHost then s.fab.evicts.contains (p.asid, sectorOf va)
  else !(h.kind = 2 && f.waiting.contains h.req.adapter)

/-- A host request (R116, R418, R420, R422, R423): served, or held by a flip of its granule; while its sector is release-pending it is not
answered and the adapter makes it again (assumption log 75). -/
def hostRequest (s : State) (h : HeldHost) : Out :=
  match hostTarget s h.req with
  | none => .next (serveHost s h)
  | some (p, va) =>
    if markedSector s p.asid (sectorOf va) then .next s
    else match s.hostp.flips.find? fun f => f.granule = h.req.dpa / 4096 with
    | some f =>
      if flipHolds s f h p va then
        let flips := s.hostp.flips.map fun x => if x = f then { f with held := f.held ++ [h] } else x
        .next { s with hostp := { s.hostp with flips := flips } }
      else .next (serveHost s h)
    | none => .next (serveHost s h)

/-- MEMRD (R417, R420). -/
def execMemrd (r : HostReq) (s : State) : Out := hostRequest s { kind := 0, req := r, data := [] }
/-- MEMRDDATA (R417, R420). -/
def execMemrddata (r : HostReq) (s : State) : Out := hostRequest s { kind := 0, req := r, data := [] }
/-- MEMWR (R417, R420). -/
def execMemwr (r : HostReq) (data : List Byte) (s : State) : Out := hostRequest s { kind := 2, req := r, data := data }
/-- MEMINV (R417, R420): ownership without data. -/
def execMeminv (r : HostReq) (s : State) : Out := hostRequest s { kind := 1, req := r, data := [] }

/-- The far-mapped page that holds an address of an adapter's memory, and its VA (R419). -/
def farTarget (s : State) (r : HostReq) : Option (PageEntry × Nat) :=
  match s.xl.pages.find? fun p =>
      match p.far with
      | some (a, x, _, _) => a = r.adapter && decide (x ≤ r.dpa) && decide (r.dpa < x + 65536)
      | none => false with
  | some p =>
    match p.far with
    | some (_, x, _, _) => some (p, p.vpage * 65536 + (r.dpa - x))
    | none => none
  | none => none

/-- A host snoop of a far-mapped line (R116, R419): the effect on the sector, and the answer with the line's data; none while the sector is
release-pending. -/
def hostSnoop (s : State) (r : HostReq) (act : State → Nat → Nat → State) : Out :=
  if !attached s r.adapter then .next (logHost (reply s r 3 (List.replicate 64 0)) r)
  else match farTarget s r with
    | none => .next (reply s r 3 [])
    | some (p, va) =>
      if markedSector s p.asid (sectorOf va) then .next s
      else .next (reply (act s p.asid (sectorOf va)) r 3 (bytesAt s.hostp.far (farKey r.adapter (sectorOf r.dpa)) 64))

/-- SNPDATA (R419, R421). -/
def execSnpdata (r : HostReq) (s : State) : Out := hostSnoop s r actHr
/-- SNPCUR (R419, R421). -/
def execSnpcur (r : HostReq) (s : State) : Out := hostSnoop s r actHr
/-- SNPINV (R419, R421): the sector must be filled again before the device reads it. -/
def execSnpinv (r : HostReq) (s : State) : Out :=
  hostSnoop s r fun s tag sec =>
    let s1 := actHw s tag sec
    { s1 with fab := { s1.fab with farKnown := s1.fab.farKnown.filter (· ≠ farKey r.adapter (sectorOf r.dpa)) } }

/-- FAR_FILL_REPLY (R419): the data of a far fill returns, and the accesses that waited may go on. -/
def execFarFillReply (asid va : Nat) (data : List Byte) (s : State) : Out :=
  let sec := sectorOf va
  match pageOf s asid va with
  | some p =>
    match p.far with
    | some (a, x, _, _) =>
      if s.hostp.farFills.contains (asid, sec) then
        let k := farKey a (sectorOf ((x + va % 65536) % 2 ^ 64))
        .next (settlePosted { s with
          fab := { s.fab with farKnown := s.fab.farKnown ++ [k] }
          hostp := { s.hostp with far := setBytes s.hostp.far k (fit 64 data), farFills := s.hostp.farFills.filter (· ≠ (asid, sec)) } })
      else .next s
    | none => .next s
  | none => .next s

/-- A flip ends (R422, R423, R429): the granule's bias, the held host requests in the order of their arrival, the hardware's writes that waited, and
the command's result. -/
def endFlip (s : State) (f : Flip) : State :=
  let bias := s.xl.hostBias.filter (· ≠ f.granule)
  let s1 := { s with
    xl := { s.xl with hostBias := if f.toHost then bias ++ [f.granule] else bias }
    fab := { s.fab with cleared := s.fab.cleared.filter fun l => l / 16 ≠ f.granule }
    hostp := { s.hostp with
      flips := s.hostp.flips.filter fun x => x.granule ≠ f.granule
      snoops := s.hostp.snoops.filter fun x => (if x.blk then x.place else x.place / 16) ≠ f.granule } }
  let s2 := settlePosted (f.held.foldl serveHost s1)
  match cardOf s2 f.card with
  | some c => cmdDone s2 c 0
  | none => s2

/-- Whether a write-back of a granule is in flight. -/
def granuleBusy (s : State) (granule : Nat) : Bool :=
  s.fab.evicts.any fun e =>
    match pageOf s e.1 e.2 with
    | some p => p.far.isNone && dpaOf p e.2 / 4096 = granule
    | none => false

/-- The oldest flip to host bias whose write-backs are all written takes effect (R422, R429). -/
def flipDone (s : State) : State :=
  match s.hostp.flips.find? fun f => f.toHost && !granuleBusy s f.granule with
  | some f => endFlip s f
  | none => s

/-- HOST_BIAS_FLIP (R422). -/
def execHostBiasFlip (s : State) : Out := .next (flipDone s)

/-- The write-back of a stash whose home answers that the page is not present is held as a store of the team that has bound the sector, once its
share of the store buffer has room (R350, R352); one that no team has bound any more is dropped. -/
def stashWriteBack (s : State) (core tag sec : Nat) : State :=
  let gone (s : State) : State := { s with fab := { s.fab with evicts := s.fab.evicts.filter (· ≠ (tag, sec)) } }
  let owner := (s.team :: s.others).find? fun t => 1 ≤ t.place.run && t.place.run ≤ 3 && coreOf t = core
    && t.ord.bindings.any fun b => inRange t.card.asid b.va b.len tag sec
  match owner with
  | some t => if roomFor s (whoOf s t) 1 = .ok then holdWriteBack (gone s) t.card.handle tag sec else s
  | none => gone s

/-- The eviction data of a sector arrives (R395): it is written at the home, or met there by a translation fault (R350). -/
def evictArrives (m : BusMsg) (s : State) (sec : Nat) : State :=
  match whereIs s (clusterRec s m.cluster).domain m.asid sec, m.stash with
  | .absent, some core => if s.fab.evicts.contains (m.asid, sec) then stashWriteBack s core m.asid sec else s
  | _, _ => landEvict s m.asid sec

/-- EVICTION_WRITE_BACK (R395, R422): with the last write-back of its granule a flip to host bias takes effect, and only then are the requests that it
held served (R429). -/
def execEvictionWriteBack (m : BusMsg) (s : State) : Out := .next (flipDone ((msgSecs m).foldl (evictArrives m) s))

/-- BIRSP (R420, R423): an adapter's hosts hold no copy of the line or the granule; when every adapter has answered, the waiting accesses or the
flip to device bias go on. -/
def execBirsp (adapter : Nat) (at_ : SnoopPlace) (s : State) : Out :=
  let blk := at_.blk
  let place := at_.place
  let q : Snoop := { toSnoopPlace := at_, adapter := adapter }
  let snoops := s.hostp.snoops.filter (· ≠ q)
  let clear := !blk && s.hostp.snoops.contains q && !snoops.any (fun x => !x.blk && x.place = place)
    && s.xl.hostBias.contains (place / 16) && !s.fab.cleared.contains place
  let flips := s.hostp.flips.map fun f =>
    if blk && f.granule = place && !f.toHost then { f with waiting := f.waiting.filter (· ≠ adapter) } else f
  let s1 := { s with
    fab := { s.fab with cleared := if clear then s.fab.cleared ++ [place] else s.fab.cleared }
    hostp := { s.hostp with snoops := snoops, flips := flips } }
  match flips.find? fun f => blk && f.granule = place && !f.toHost && f.waiting.isEmpty with
  | some f => .next (endFlip s1 f)
  | none => .next (settlePosted s1)

end Sys2Proof.Machine
end

