-- ==== Sys2Proof/Machine/Pages.lean ====
section
/-! DEFINITION. Regions and pages as Tramontane's commands change them: homes (R348), frames and their one name (R349, R351), mapping,
unmapping with its recall (R350, R351), and the invalidation of region entries (R346, R347). -/

namespace Sys2Proof.Machine

/-- Whether an ASID exists (R345, R448): ASID 0 does from bring-up. -/
def asidExists (s : State) (asid : Nat) : Bool := asid = 0 || (asidDomain s asid).isSome

/-- The domain in which a region of an address space is reached. -/
def regionDom (s : State) (tag e : Nat) : Nat := if tag = 0 then eGdom e else asidDom s tag

/-- The hash of a granule (R348). -/
def granuleHash (va : Nat) : Nat :=
  (List.range 7).foldl (fun h k => h ^^^ bits va (12 + 6 * k) 6) (bits va 54 2)

/-- The home cluster of a VA in a region (R348). -/
def homeOf (s : State) (tag e va : Nat) : Nat :=
  if eInter e then
    let cs := clustersIn s (regionDom s tag e)
    cs.getD (granuleHash va % cs.length) 0
  else eHome e
where
  /-- The clusters of a domain in ascending order; the controller of one lost in service stays in service (R370), and one lost at bring-up
  is in no domain (R436). -/
  clustersIn (s : State) (dom : Nat) : List Nat := (List.range 64).filter fun c => (clusterRec s c).domain = dom

/-- Whether some frames of a controller have no name (R351). -/
def framesFree (s : State) (ctrl frame n : Nat) : Bool :=
  s.xl.pages.all fun p => p.far.isSome || p.ctrl ≠ ctrl || !overlap p.frame (if p.gidx.isSome then 1 else 16) frame n

/-- Any free frame (R380): which one is a free choice (assumption log 3). `unit` is 16 for a page and 1 for a granule. -/
def anyFrame (s : State) (ctrl unit k : Nat) : Option Nat :=
  let f0 := Config.freePick (draw s k) % (2 ^ 23 / unit) * unit
  if framesFree s ctrl f0 unit then some f0
  else ((List.range (16 * s.xl.pages.length + 1)).map (· * unit)).find? fun f => decide (f + unit ≤ 2 ^ 23) && framesFree s ctrl f unit

/-- A page table entry put at its controller. -/
def addPage (s : State) (p : PageEntry) : State :=
  let n := if p.gidx.isSome then 1 else 16
  let first := p.ctrl * 2 ^ 23 + p.frame
  { s with
    xl := { s.xl with
      pages := s.xl.pages ++ [p]
      hostBias := s.xl.hostBias.filter fun g => p.far.isSome || g < first || first + n ≤ g }
    fab := { s.fab with cleared := s.fab.cleared.filter fun l => p.far.isSome || l / 16 < first || first + n ≤ l / 16 } }

/-- A page mapped in its region (R348, R349): one frame of 64 KiB, or a granule's frame at each of sixteen controllers; none with no
free frame. -/
def mapPage (s : State) (tag va : Nat) (frame : Option Nat) (biased : Bool) (k : Nat) : Option State :=
  let e := tableEntry s tag va
  let page : PageEntry := {
    ctrl := homeOf s tag e va, asid := tag, vpage := va / 65536, biased := biased, gdom := if tag = 0 then eGdom e else 0 }
  if eInter e then
    (List.range 16).foldl (fun r g =>
      match r with
      | none => none
      | some s =>
        let ctrl := homeOf s tag e (va / 65536 * 65536 + 4096 * g)
        (anyFrame s ctrl 1 (k + g)).map fun f => addPage s { page with ctrl := ctrl, gidx := some g, frame := f }) (some s)
  else match (match frame with | some f => some f | none => anyFrame s page.ctrl 16 k) with
    | some f => some (addPage s { page with frame := f })
    | none => none

/-- Whether a page of an address space is present. -/
def pagePresent (s : State) (tag va : Nat) : Bool := s.xl.pages.any fun p => p.asid = tag && p.vpage = va / 65536

/-- Every handoff copy of a page's frames written home and dropped (R91, R351). -/
def recallHand (s : State) (p : PageEntry) : State :=
  let base := p.ctrl * 2 ^ 35 + p.frame * 4096
  let n := if p.gidx.isSome then 4096 else 65536
  if p.far.isSome then s
  else s.hand.foldl (fun s h => if base ≤ h.dpa && h.dpa < base + n then handEvict s h.cluster h.dpa else s) s

/-- A page recalled from every cache, stash and L1 (R351): modified data is at its home afterwards. -/
def recallPage (s : State) (tag vpage : Nat) : State :=
  let ps := s.xl.pages.filter fun p => p.asid = tag && p.vpage = vpage
  let s1 := ps.foldl recallHand s
  let here (asid sec : Nat) : Bool := asid = tag && sec / 65536 = vpage
  let s1 := (s1.fab.evicts.filter fun e => here e.1 e.2).foldl (fun s e => landEvict s e.1 e.2) (writeCopies s1 fun c => here c.asid c.sec)
  { s1 with fab := { s1.fab with
    copies := s1.fab.copies.filter fun c => !here c.asid c.sec
    l1 := s1.fab.l1.filter fun c => !here c.asid c.sec
    due := s1.fab.due.filter fun d => !here d.asid d.sec
    homes := s1.fab.homes.filter fun h => !here h.asid h.sec
    evicts := s1.fab.evicts.filter fun e => !here e.1 e.2 } }

/-- Whether a page has a release-pending sector, so that a recall of it is not answered yet (R116). -/
def markedPage (s : State) (tag vpage : Nat) : Bool := s.sb.any fun e => e.marked && e.asid = tag && e.sector / 65536 = vpage

/-- The code of some sectors dropped from every instruction cache (R85, R346, R347). -/
def dropCode (s : State) (here : Nat → Nat → Bool) : State :=
  { s with cores := { s.cores with code := s.cores.code.filter fun c => !here c.asid c.sec } }

/-- A page unmapped (R85, R351): recalled, its code dropped from the instruction caches, and then no longer present. -/
def unmapPage (s : State) (tag vpage : Nat) : State :=
  let gone (p : PageEntry) : Bool := p.asid = tag && p.vpage = vpage
  let far (k : Nat) : Bool := s.xl.pages.any fun p =>
    gone p && match p.far with
      | some (a, x, _, _) => decide (farKey a x ≤ k) && decide (k < farKey a x + 65536)
      | none => false
  let s1 := dropCode (recallPage s tag vpage) fun asid sec => asid = tag && sec / 65536 = vpage
  let frame (f : Nat) : Bool := s.xl.pages.any fun p =>
    gone p && p.far.isNone && decide (p.ctrl * 2 ^ 23 + p.frame ≤ f) && decide (f < p.ctrl * 2 ^ 23 + p.frame + (if p.gidx.isSome then 1 else 16))
  { s1 with
    xl := { s1.xl with pages := s1.xl.pages.filter (fun p => !gone p), unnamed := s1.xl.unnamed.filter fun f => !frame f }
    fab := { s1.fab with farKnown := s1.fab.farKnown.filter fun k => !far k } }

/-- The region entries cached for one region dropped in every core of its domain, and those on their way (R346, R347). -/
def invalidateRegion (s : State) (tag rn : Nat) : State :=
  let keep (c : CachedRegion) : Bool := !(c.asid = tag && c.rn = rn)
  dropCode { s with xl := { s.xl with rptc := s.xl.rptc.filter keep, walks := s.xl.walks.filter keep } } fun asid sec =>
    asid = tag && regionNo sec = rn

/-- Whether a region command takes something away (R346): the region, a right, or its kind, home or group. -/
def regionShrinks (old new : Nat) : Bool :=
  eValid old && (!eValid new || (List.range 4).any (fun k => bit old (k + 1) && !bit new (k + 1)) || eKind old ≠ eKind new
    || eHome old ≠ eHome new || eInter old ≠ eInter new || eGroup old ≠ eGroup new || eGdom old ≠ eGdom new || (eSup new && !eSup old))

/-- The VAs of a region's 64 KiB pages. -/
def regionPages (rn : Nat) : List Nat := (List.range 32).map fun i => rn * 2 ^ 21 + i * 65536

/-- The pages of a list mapped where they are not present (R294, R350); none with no free frame. -/
def mapAll (s : State) (tag : Nat) (vas : List Nat) : Option State :=
  (vas.foldl (fun (r : Option State × Nat) va =>
    match r.1 with
    | none => (none, 0)
    | some s => (if pagePresent s tag va then some s else mapPage s tag va none false r.2, r.2 + 16)) (some s, 0)).1

/-- A region's entry written (R344, R346, R350): its cached entries go unless that is deferred; the pages of a broadcast window come
and go with it; none with no free frame. -/
def setRegion (s : State) (tag rn : Nat) (entry : BitVec 64) (deferred : Bool) : Option State :=
  let old := (sget 0 s.xl.regions (regionKey tag rn)).toNat
  let new := entry.toNat
  let wasWindow := eValid old && eKind old = 1
  let isWindow := eValid new && eKind new = 1
  let s0 := if wasWindow && !isWindow then (regionPages rn).foldl (fun s va => unmapPage s tag (va / 65536)) s else s
  let s1 := { s0 with xl := { s0.xl with regions := sset 0 s0.xl.regions (regionKey tag rn) entry } }
  let lessCode := (bit old 3 && !bit new 3) || (bit old 4 && !bit new 4)
  let s2 := if regionShrinks old new && !deferred then invalidateRegion s1 tag rn
    else if lessCode then dropCode s1 fun asid sec => asid = tag && regionNo sec = rn else s1
  if isWindow then mapAll s2 tag (regionPages rn) else some s2

end Sys2Proof.Machine
end

