-- ==== Sys2Proof/Machine/Matrix.lean ====
section
/-! DEFINITION. Matrix engines: owner words and `own` (R263 to R267), the tile task record and its checks (R268 to R275), the tile
scheduler (R276, R277, R281), and the engine's steps (R76, R278, R279, R282). -/

namespace Sys2Proof.Machine

/-- One operand of a tile task: its descriptor (R269), element type, block size (0 unscaled) and base exponent. -/
structure Operand where
  base : Nat
  rpitch : Nat
  tpitch : Nat
  rot : Nat
  sbase : Nat
  spitch : Nat
  ty : Nat
  block : Nat
  exp : Int
  rowBytes : Nat
deriving DecidableEq, Repr

/-- The low word of descriptor `k` of a record (R268). -/
def descLow (r : List Byte) (k : Nat) : Nat := field r (16 * k) 8
/-- The high word of descriptor `k`. -/
def descHigh (r : List Byte) (k : Nat) : Nat := field r (16 * k + 8) 8
/-- The format block (R270). -/
def fmtBlock (r : List Byte) : Nat := field r 0x30 8
/-- The control word (R271). -/
def ctlWord (r : List Byte) : Nat := field r 0x38 8
/-- The element type of A or B. -/
def elemType (r : List Byte) (k : Nat) : Nat := bits (fmtBlock r) (4 * k) 4
/-- Whether A or B is block-scaled. -/
def isScaled (r : List Byte) (k : Nat) : Bool := bit (fmtBlock r) (8 + 2 * k)
/-- The block size of A or B. -/
def blockSize (r : List Byte) (k : Nat) : Nat := if bit (fmtBlock r) (9 + 2 * k) then 32 else 16
/-- The scalar register that holds the base exponent of A or B. -/
def baseReg (r : List Byte) (k : Nat) : Nat := bits (fmtBlock r) (12 + 7 * k) 7
/-- K (R271). -/
def kExtent (r : List Byte) : Nat := bits (ctlWord r) 0 16 + 1
/-- Output row blocks. -/
def outRows (r : List Byte) : Nat := bits (ctlWord r) 36 2 + 1
/-- Output column blocks. -/
def outCols (r : List Byte) : Nat := bits (ctlWord r) 34 2 + 1
/-- Chunks of K (R278). -/
def chunks (r : List Byte) : Nat := (kExtent r + 31) / 32
/-- Whether the initial accumulator is +0. -/
def zeroInit (r : List Byte) : Bool := bit (ctlWord r) 32
/-- Redundant mode. -/
def redundant (r : List Byte) : Bool := bit (ctlWord r) 33

/-- The bytes of a row of operand `k`: 0 A, 1 B, 2 C (R272). -/
def rowBytesOf (r : List Byte) (k : Nat) : Nat := if k = 2 then 256 * outCols r else 4 * widthOf (elemType r k)

/-- The rows of operand `k`. -/
def rowCount (r : List Byte) (k : Nat) : Nat := 64 * (if k = 1 then outCols r else outRows r)

/-- Operand `k` of a record with a base exponent. -/
def operandOf (r : List Byte) (k : Nat) (exp : Int) : Operand :=
  let lo := descLow r k
  let hi := descHigh r k
  { base := bits lo 0 18, rpitch := bits lo 18 14, tpitch := bits lo 32 18, rot := bits lo 50 3
    sbase := bits hi 0 18, spitch := bits hi 18 14
    ty := if k = 2 then 4 else elemType r k
    block := if k ≠ 2 && isScaled r k then blockSize r k else 0
    exp := exp, rowBytes := rowBytesOf r k }

/-- Byte `x` of row `r` of chunk `q` (R272). -/
def operandLa (o : Operand) (r q x : Nat) : Nat :=
  o.base + q * o.tpitch + r * o.rpitch + 16 * ((x / 16 + o.rot * r) % (o.rowBytes / 16)) + x % 16

/-- The record checks (R275): the first reason that applies, reason 7 apart. -/
def taskReason (r : List Byte) : Option Nat :=
  let okTy (k : Nat) : Bool := 5 ≤ elemType r k && elemType r k ≤ 10
  let o (k : Nat) : Operand := operandOf r k 0
  let badReg (k : Nat) : Bool :=
    (96 ≤ baseReg r k && baseReg r k ≤ 126) || (!isScaled r k && baseReg r k ≠ 0)
  let badLayout (k : Nat) : Bool :=
    (o k).base % 16 ≠ 0 || (o k).rpitch % 16 ≠ 0 || (o k).tpitch % 16 ≠ 0 || decide ((o k).rpitch < (o k).rowBytes)
  let badHigh (k : Nat) : Bool := descHigh r k / 2 ^ 32 ≠ 0 || (!isScaled r k && descHigh r k ≠ 0)
  if !okTy 0 || !okTy 1 then some 1
  else if (List.range 3).any (fun k => descLow r k / 2 ^ 53 ≠ 0) || badHigh 0 || badHigh 1 || descHigh r 2 ≠ 0
      || fmtBlock r / 2 ^ 26 ≠ 0 || bits (ctlWord r) 16 16 ≠ 0 || bits (ctlWord r) 38 6 ≠ 0 then some 2
  else if ctlWord r / 2 ^ 44 ≠ 0 then some 3
  else if badReg 0 || badReg 1 then some 4
  else if badLayout 0 || badLayout 1 || badLayout 2 || (o 2).tpitch ≠ 0 then some 5
  else if (List.range 2).any (fun k => isScaled r k && kExtent r % blockSize r k ≠ 0) then some 6
  else none

/-- The ranges (start, bytes) of the rows of operand `k` (R272). -/
def rowRanges (r : List Byte) (k : Nat) : List (Nat × Nat) :=
  let o := operandOf r k 0
  (List.range (if k = 2 then 1 else chunks r)).flatMap fun q =>
    (List.range (rowCount r k)).map fun m => (o.base + q * o.tpitch + m * o.rpitch, o.rowBytes)

/-- The ranges of the scale rows of operand `k` (R273). -/
def scaleRanges (r : List Byte) (k : Nat) : List (Nat × Nat) :=
  let o := operandOf r k 0
  if o.block = 0 then []
  else (List.range (rowCount r k)).map fun m => (o.sbase + m * o.spitch, (kExtent r / o.block + 1) / 2)

/-- The distinct tiles that some ranges touch. -/
def tilesOf (xs : List (Nat × Nat)) : List Nat :=
  (xs.flatMap fun x =>
    if x.2 = 0 then [] else (List.range ((x.1 + x.2 - 1) / 4096 - x.1 / 4096 + 1)).map (x.1 / 4096 + ·)).eraseDups

/-- What a task reads: A, B and the scale rows. -/
def readRanges (r : List Byte) : List (Nat × Nat) :=
  rowRanges r 0 ++ rowRanges r 1 ++ scaleRanges r 0 ++ scaleRanges r 1

/-- The tasks of a core that have not ended, in acceptance order (R276). -/
def coreTaskList (s : State) (core : Nat) : List Task := s.eng.tasks.filter (·.core = core)

/-- A tile is pinned (R263): an accepted task that names it has not ended. -/
def pinned (s : State) (core tile : Nat) : Bool :=
  (coreTaskList s core).any fun k => k.reads.contains tile || k.writes.contains tile

/-- The base exponent in a scalar register of the focus team, captured now (R270). -/
def capturedExp (s : State) (n : Nat) : Int := sInt 8 (readReg s (BitVec.ofNat 7 n)).toNat

/-- A tile-task trap (R275, R362): the reason, and the record's VA in iva. -/
def taskTrap {α : Type} (s : State) (va reason : Nat) : Except Stuck α :=
  .error (.trap { scalarStop s 0x0D va reason with iva := va })

/-- One reader more or less on each of some tiles. -/
def countReaders (s : State) (core : Nat) (tiles : List Nat) (up : Bool) : State :=
  tiles.foldl (fun s x =>
    let o := tileRec s core x
    setTile s core x { o with readers := if up then o.readers + 1 else o.readers - 1 }) s

/-- Whether a queued L-word still writes a register that holds a base exponent of a record (R25, R270). -/
def exponentsWait (s : State) (r : List Byte) : Bool :=
  (List.range 2).any fun k => isScaled r k && laneWrites s.team.lane.queue (baseReg r k)

/-- A tile task of the focus team posted (R274): its record read and checked, its tiles checked, and the task accepted. The address that a
local-bounds or tile-ownership stop names is the model's choice: the start of the first range with a byte outside, in the order A, B, scale
rows, C, and the first byte of the first tile that is not the matrix engines' (assumption log 86). -/
def postTask (s : State) (va : Nat) (node : Option NodeId) : Except Stuck State := do
  let t := s.team
  let core := coreOf t
  checkTrap s (addrTrap s (focusWho s) va 64 .rw) va
  let r ← teamRead s va 64
  match taskReason r with
  | some c => taskTrap s va c
  | none =>
    let reads := tilesOf (readRanges r)
    let writes := tilesOf (rowRanges r 2)
    if reads.any writes.contains then taskTrap s va 7
    else match (readRanges r ++ rowRanges r 2).find? fun x => !inWindow t x.1 || !inWindow t (x.1 + x.2 - 1) with
      | some x => trapping s 0x08 x.1
      | none =>
        match (reads ++ writes).find? fun x => (tileRec s core x).owner ≠ 2 || (tileRec s core x).flip.isSome with
        | some x => trapping s 0x09 (4096 * x)
        | none =>
          if Config.coreTasks ≤ (coreTaskList s core).length || reads.any (fun x => (tileRec s core x).readers = 255)
              || (node.isNone && exponentsWait s r) then
            .error .later
          else
            let s1 := countReaders (touchBytes s va 64) core reads true
            let (id, s2) := newId s1
            let k : Task := {
              id := id, core := core, team := t.card.handle, asid := t.card.asid, recVa := va, desc := r
              expA := capturedExp s (baseReg r 0), expB := capturedExp s (baseReg r 1), reads := reads, writes := writes, node := node
              window := (t.card.lbase, t.card.lcount) }
            .ok { s2 with eng := { s2.eng with tasks := s2.eng.tasks ++ [k] } }

/-- MXPOST (R274). -/
def execMxpost (a : SReg) (s : State) : Out :=
  if inHandler s then .next (takeStop s (scalarStop s 0x02))
  else attempt s ((postTask s (readReg s a).toNat none).map advance)

/-- The local-bounds check of `own` (R264). -/
def ownTile (s : State) (a : SReg) : Except Stuck Nat := do
  let la := (readReg s a).toNat
  require s (inWindow s.team la) 0x08 la
  .ok (tileOf la)

/-- A request for a new owner of a tile of the focus team's core (R265, R267). -/
def requestOwner (s : State) (tile : Nat) (new : BitVec 2) : State :=
  let core := coreOf s.team
  let o := tileRec s core tile
  if new = o.owner then setTile s core tile { o with flip := none }
  else if o.owner = 2 && pinned s core tile then setTile s core tile { o with flip := some new }
  else
    let s1 := if o.owner = 1 then flipCopies s core tile else if o.owner = 3 then flipColls s core tile else s
    setTile s1 core tile { o with owner := new, flip := none }

/-- OWN (R263 to R267): a flip from the lanes to an engine is a release (R121), which a held store stops (R353). -/
def execOwn (new : BitVec 2) (d a : SReg) (s : State) : Out :=
  if inHandler s then .next (takeStop s (scalarStop s 0x02))
  else match ownTile s a with
    | .error k => unstick s k
    | .ok tile =>
      let o := tileRec s (coreOf s.team) tile
      let go (s : State) : Out := .next (finish (requestOwner s tile new) d (BitVec.ofNat 64 (ownerWord o)))
      if o.owner = 0 && new ≠ 0 then afterStores s go else go s

/-- OWN_QUERY (R263, R264). -/
def execOwnQuery (d a : SReg) (s : State) : Out :=
  if inHandler s then .next (takeStop s (scalarStop s 0x02))
  else match ownTile s a with
    | .error k => unstick s k
    | .ok tile => .next (finish s d (BitVec.ofNat 64 (ownerWord (tileRec s (coreOf s.team) tile))))

/-- Two tasks conflict: one writes a tile that the other reads or writes (R276). -/
def conflicts (a b : Task) : Bool :=
  a.writes.any (fun x => b.reads.contains x || b.writes.contains x) || a.reads.any b.writes.contains

/-- The engines that a task takes (R282). -/
def enginesFor (k : Task) : Nat := if redundant k.desc then 2 else 1

/-- The engines of a core that run tasks; a core has four (R12). -/
def busyEngines (s : State) (core : Nat) : Nat :=
  (coreTaskList s core).foldl (fun n k => if k.running then n + enginesFor k else n) 0

/-- Whether an earlier unended task of the core conflicts with a task (R276). -/
def mustWait (s : State) (k : Task) : Bool :=
  ((coreTaskList s k.core).takeWhile (fun x => x.id ≠ k.id)).any (conflicts · k)

/-- Whether a task's team lets its engine work run: it is not saved or halted (R281). -/
def teamRuns (s : State) (h : Nat) : Bool :=
  match teamOf s h with
  | some t => t.place.run ≠ 2 && t.place.run ≠ 3
  | none => true

/-- TILE_TASK_START (R276, R281, R282). -/
def execTileTaskStart (id : Nat) (s : State) : Out :=
  match taskOf s id with
  | none => .next s
  | some k =>
    if !k.running && k.ended.isNone && teamRuns s k.team && clocked s k.core && !mustWait s k && busyEngines s k.core + enginesFor k ≤ 4 then
      .next (updTask s id fun k => { k with running := true })
    else .next s

/-- A pending flip of a tile takes effect once the tile is not pinned (R265, R277). -/
def flipTile (core : Nat) (s : State) (tile : Nat) : State :=
  let o := tileRec s core tile
  match o.flip with
  | some w => if pinned s core tile then s else setTile s core tile { o with owner := w, flip := none }
  | none => s

/-- A task that ends with a status frees its engine, and its final control word is on its way (R277). -/
def endOne (s : State) (k : Task) (status : Nat) : State :=
  putControl (updTask s k.id fun x => { x with running := false, ended := some status }) k status

/-- A task whose final control word has been performed, or dropped, is over (R121, R277, R378): its readers and pins go, pending flips take
effect, and its graph's node ends. -/
def finishTask (s : State) (k : Task) (status : Nat) : State :=
  let s1 := { s with eng := { s.eng with tasks := s.eng.tasks.filter fun x => x.id ≠ k.id } }
  let s2 := (k.reads ++ k.writes).foldl (flipTile k.core) (countReaders s1 k.core k.reads false)
  match k.node with
  | some n => nodeEnds s2 n (status = 2 || status = 3)
  | none => s2

/-- Whether the control words of a task have all left the store buffer. -/
def wordsOut (s : State) (k : Task) : Bool :=
  k.due.isEmpty && !s.sb.any fun e => e.team = k.team && e.source = 4 && e.seq = k.last

/-- The tasks whose final control words have been performed are over, and control words that wait go as far as there is room (R121, R277). -/
def settleTasks (s : State) : State :=
  s.eng.tasks.foldl (fun s k =>
    let s1 := pumpControl k.id k.due.length s
    match taskOf s1 k.id with
    | some x => match x.ended with
      | some st => if wordsOut s1 x then finishTask s1 x st else s1
      | none => s1
    | none => s1) s

/-- The later tasks of a core that a failed task ends: those that conflict with it, and with those in turn (R277). -/
def doomed (k : Task) (later : List Task) : List Task :=
  later.foldl (fun acc x => if conflicts k x || acc.any (conflicts · x) then acc ++ [x] else acc) []

/-- A task ends (R277): status 4 and 6 end the later tasks that conflict with status 5. -/
def endTask (s : State) (k : Task) (status : Nat) : State :=
  let later := (((coreTaskList s k.core).dropWhile (fun x => x.id ≠ k.id)).drop 1).filter (·.ended.isNone)
  let s1 := endOne s k status
  settleTasks (if status = 4 || status = 6 then (doomed k later).foldl (fun s x => endOne s x 5) s1 else s1)

/-- A byte of a core's local memory. -/
def lmByte (s : State) (core la : Nat) : Nat := (byteAt s.lm (lmAddr core la)).toNat

/-- Element `k` of row `m` of an operand as a value, and whether a reserved ts8 term was read (R71, R272, R273, R279). -/
def operandElem (s : State) (core : Nat) (o : Operand) (m k : Nat) : Val × Bool :=
  let w := widthOf o.ty
  let x := k % 32 * w / 8
  let b (i : Nat) : Nat := lmByte s core (operandLa o m (k / 32) (x + i))
  let code := if w = 16 then b 0 + 256 * b 1 else if w = 4 then b 0 / 16 ^ (k % 2) % 16 else b 0
  let v := decodeVal o.ty code
  if o.block = 0 then (v.1, v.2 ≠ 0)
  else
    let n := k / o.block
    let delta := sInt 4 (lmByte s core (o.sbase + m * o.spitch + n / 2) / 16 ^ (n % 2))
    if delta = -8 then (.num false 0 0, false) else (scaleVal v.1 (o.exp + delta), v.2 ≠ 0)

/-- One 64-column row of a step's results (R76, R278): local addresses and f32 codes. -/
def stepRow (s : State) (k : Task) (i j q m : Nat) : List (Nat × Nat) :=
  let a := operandOf k.desc 0 k.expA
  let b := operandOf k.desc 1 k.expB
  let c := operandOf k.desc 2 0
  let ks := (List.range (min 32 (kExtent k.desc - 32 * q))).map (32 * q + ·)
  let row := 64 * i + m
  let xs := ks.map fun e => (operandElem s k.core a row e).1
  (List.range 64).map fun n =>
    let col := 64 * j + n
    let la := operandLa c row 0 (4 * col)
    let old := if q = 0 && zeroInit k.desc then 0 else ofBytes (lmBytes s k.core la 4)
    (la, accumulate old (xs.zip (ks.map fun e => (operandElem s k.core b col e).1)))

/-- Whether a step reads a reserved ts8 term (R279). -/
def stepReserved (s : State) (k : Task) (i j q : Nat) : Bool :=
  let a := operandOf k.desc 0 k.expA
  let b := operandOf k.desc 1 k.expB
  let ks := (List.range (min 32 (kExtent k.desc - 32 * q))).map (32 * q + ·)
  (List.range 64).any fun m =>
    ks.any fun e => (operandElem s k.core a (64 * i + m) e).2 || (operandElem s k.core b (64 * j + m) e).2

/-- The steps of a task (R278). -/
def taskSteps (r : List Byte) : Nat := outRows r * outCols r * chunks r

/-- One step of a task done: C written, progress counted, and the task ended after its last step (R277, R278). -/
def doStep (s : State) (k : Task) : State :=
  let nq := chunks k.desc
  let q := k.progress % nq
  let j := k.progress / nq % outCols k.desc
  let i := k.progress / nq / outCols k.desc
  let res := (List.range 64).flatMap fun m => stepRow s k i j q m
  let s1 := res.foldl (fun s r => lmWrite s k.core r.1 (toBytes 4 r.2)) s
  let k1 := { k with progress := k.progress + 1, ts8 := k.ts8 || stepReserved s k i j q }
  let s2 := updTask s1 k.id fun _ => k1
  if k1.progress = taskSteps k.desc then endTask s2 k1 (if k1.ts8 then 3 else 2) else s2

/-- ENGINE_STEP (R278, R282): one step of a running task; in redundant mode two results that differ end the task with status 4 and
stop its team. -/
def execEngineStep (id : Nat) (agree : Bool) (s : State) : Out :=
  match taskOf s id with
  | none => .next s
  | some k =>
    if !k.running || !clocked s k.core then .next s
    else if redundant k.desc && !agree then
      .next (noteStop (endTask s k 4) k.team { cause := 0x15, va := k.recVa, iva := k.recVa, detail := k.progress })
    else .next (doStep s k)

end Sys2Proof.Machine
end

