-- ==== Sys2Proof/Machine/Schedule.lean ====
section
/-! DEFINITION. The graph scheduler: fetching and checking cards (R375 to R379), graphs and nodes (R382 to R384), and the end of
a destroyed queue (R390). -/

namespace Sys2Proof.Machine

/-- Teams, crew size, cores, the communication team's crk, and the pin of a team (R377). -/
def Card.teams (c : Card) : Nat := field c.bytes 0x4C 4
/-- The crew size. -/
def Card.crewSize (c : Card) : Nat := field c.bytes 0x6D 1 % 4 + 1
/-- The cores of a crew. -/
def Card.crewCores (c : Card) : Nat := field c.bytes 0x6D 1 / 4 % 4 + 1
/-- The communication team's crk. -/
def Card.commCrk (c : Card) : Nat := field c.bytes 0x6D 1 / 16 % 4
/-- The cluster to which a team is pinned. -/
def Card.pin (c : Card) (tix : Nat) : Option Nat :=
  let b := field c.bytes (0x74 + tix) 1
  if tix < 4 && bit b 7 then some (b % 64) else none
/-- The valid pins of a crew. -/
def Card.crewPins (c : Card) (crew : Nat) : List Nat :=
  ((List.range c.crewSize).filterMap fun j => c.pin (crew * c.crewSize + j)).eraseDups

/-- Code 1 (R379): a reserved field is non-zero, or the kind is not one of the four. -/
def cardReserved (c : Card) : Bool :=
  let f (off n : Nat) : Nat := field c.bytes off n
  let preds := (List.range 6).map fun i => f (8 + 2 * i) 2
  3 < c.kind || 8 ≤ f 1 1 || 2 ^ 14 ≤ f 2 2 || 2 ^ 12 ≤ f 6 2 || f 0x14 4 ≠ 0 || preds.any (fun p => p / 4096 % 8 ≠ 0)
    || (match c.kind with
      | 0 => 32 ≤ f 0x6C 1 || 64 ≤ f 0x6D 1 || f 0x73 1 ≠ 0 || (List.range 4).any (fun i => bit (f (0x74 + i) 1) 6)
      | 1 => f 0x48 0x34 ≠ 0
      | 3 => f 6 2 ≠ 0 || preds.any (fun p => bit p 15) || f 0x48 0x34 ≠ 0 || f 0x38 2 = 0 || 4096 < f 0x38 2
      | _ => false)

/-- Codes 5 to 7 of a launch card (R379). -/
def launchRefusal (c : Card) : Option Nat :=
  let f (off n : Nat) : Nat := field c.bytes off n
  let s := c.crewSize
  let p := f 0x6E 1
  if c.teams = 0 || 2 ^ 24 < c.teams || c.teams % s ≠ 0 || f 0x6A 2 = 0 || 1536 < f 0x6A 2 || s < c.crewCores || s ≤ c.commCrk
      || (List.range 4).any (fun k => 1 < (c.crewPins k).length) then some 5
  else if !([0, 8, 16, 24, 32].contains p) || f 0x6F 1 < p || 64 < f 0x6F 1 + f 0x70 1 || (f 0x72 1 ≠ 0 && p < f 0x71 1 + f 0x72 1)
    then some 6
  else if f 0x38 8 % 4 ≠ 0 then some 7
  else none

/-- The level of a phase of a job (R378). -/
def phaseLevel (s : State) (job n : Nat) : Option Level :=
  s.sched.levels.find? fun l => l.kind = 2 && l.number = n && l.parent = job

/-- Code 8 (R378, R379): a header whose graph count or node total disagrees with its phase's first header. -/
def headerDisagrees (s : State) (c : Card) : Bool :=
  match phaseLevel s c.job (field c.bytes 0x3C 4) with
  | none => false
  | some p =>
    p.total ≠ field c.bytes 0x3A 2
      || (match s.sched.levels.find? fun l => l.kind = 1 && l.parent = p.id with
        | some g => g.total ≠ field c.bytes 0x38 2
        | none => false)

/-- The refusal of a card fetched into an ordinary or supervisor queue that stands before the drop of a header (R379), codes 1 to 7. -/
def cardRefusal (s : State) (q : Queue) (c : Card) : Option Nat :=
  let f (off n : Nat) : Nat := field c.bytes off n
  let total := (graphLevel s c.job c.graph).map (·.total)
  if cardReserved c then some 1
  else if f 2 2 ≠ q.asid || f 1 1 ≠ q.prio then some 2
  else if c.kind ≠ 3 && ((match total with | some n => decide (n ≤ c.node) | none => false) || c.preds.any (fun p => c.node ≤ p))
    then some 3
  else if f 0x20 8 % 256 ≠ 0 || f 0x28 8 % 256 ≠ 0 || f 0x30 4 % 256 ≠ 0 || f 0x34 4 % 256 ≠ 0 then some 4
  else if c.kind = 0 then launchRefusal c else none

/-- The refusals with codes 8 and 9 (R378 to R380). -/
def lateRefusal (s : State) (q : Queue) (c : Card) : Option Nat :=
  if c.kind = 3 && headerDisagrees s c then some 8 else if c.kind = 2 && q.kind = 0 then some 9 else none

/-- Code 10 (R379): the node has been filled, the graph has a header, or the node's graph has ended. -/
def cardDropped (s : State) (c : Card) : Bool :=
  let g := graphLevel s c.job c.graph
  if c.kind = 3 then g.isSome
  else (nodeCard s c.nodeId).isSome || (match g with | some l => decide (2 ≤ l.state) | none => false)

/-- A refusal or a drop counted in the queue's status (R372, R379). -/
def countRefusal (s : State) (qid : QueueId) (code : Nat) : State :=
  match queueOf s qid with
  | some q => putQueue s { q with code := code, refused := q.refused + 1 }
  | none => s

/-- A level created (R33, R36, R388): it stands after its parent, its counter word is written, and one of no parts is complete at once and
counts in its parent. -/
def newLevel (s : State) (kind parent number total va asid : Nat) : Nat × State :=
  let id := s.sched.nextId
  let l : Level := {
    kind := kind, id := id, parent := parent, number := number, total := total, va := va, asid := asid
    state := if total = 0 then 2 else 0 }
  let s1 := { s with sched := { s.sched with levels := s.sched.levels ++ [l], nextId := id + 1 } }
  (id, if total = 0 then addDone (putCounter s1 l) parent else putCounter s1 l)

/-- The phase that a header names, created by its first header (R378); a phase of a job that runs no more is cancelled with it (R35). -/
def headerPhase (s : State) (q : Queue) (c : Card) : Nat × State :=
  match phaseLevel s c.job (field c.bytes 0x3C 4) with
  | some p => (p.id, s)
  | none =>
    let r := newLevel s 2 c.job (field c.bytes 0x3C 4) (field c.bytes 0x3A 2) (field c.bytes 0x40 8) q.asid
    match levelRec s c.job with
    | some j => if j.state = 0 then r else (r.1, settleLevels (cancelLevel r.2 r.1))
    | none => r

/-- What a refused card does beside its count (R379): its graph fails, now or with its header; a refused header fails its phase. -/
def cardFails (s : State) (q : Queue) (c : Card) : State :=
  if c.kind = 3 then
    let p := headerPhase s q c
    sweepSaved (failLevel p.2 p.1)
  else match graphLevel s c.job c.graph with
    | some g => sweepSaved (failLevel s g.id)
    | none => { s with sched := { s.sched with failed := s.sched.failed ++ [(c.job, c.graph)] } }

/-- The cards already held for a graph whose node number is not below its total (R379, code 3). -/
def lateRefusals (s : State) (job g total : Nat) : List Card :=
  s.sched.cards.filter fun c => c.job = job && c.graph = g && decide (total ≤ c.node)

/-- A graph header taken (R378, R379): its phase, its graph's level, and what was recorded against the graph before. -/
def takeHeader (s : State) (q : Queue) (c : Card) : State :=
  let p := headerPhase s q c
  let g := newLevel p.2 1 p.1 c.graph (field c.bytes 0x38 2) (field c.bytes 0x18 8) q.asid
  let s1 := g.2
  let late := lateRefusals s1 c.job c.graph (field c.bytes 0x38 2)
  let s2 := late.foldl (fun s x => countRefusal s x.id.queue 3) s1
  let s3 := { s2 with sched := { s2.sched with cards := s2.sched.cards.filter fun x => !late.contains x } }
  if s.sched.failed.contains (c.job, c.graph) || !late.isEmpty then sweepSaved (failLevel s3 g.1)
  else match levelRec s3 p.1 with
    | some ph => if ph.state = 0 then s3 else settleLevels (cancelLevel s3 g.1)
    | none => s3

/-- A card of an ordinary or supervisor queue taken (R376, R379). -/
def takeCard (s : State) (q : Queue) (c : Card) : State :=
  match levelRec s c.job with
  | none => countRefusal s q.id 11
  | some job =>
    if job.state = 1 || job.state = 3 then countRefusal s q.id 11
    else match (match cardRefusal s q c with
      | some code => some code
      | none => if c.kind = 3 && cardDropped s c then none else lateRefusal s q c) with
      | some code => cardFails (countRefusal s q.id code) q c
      | none =>
        if cardDropped s c then countRefusal s q.id 10
        else if c.kind = 2 && !cmdWritable s q c.resultVa then cardFails (countRefusal s q.id 12) q c
        else if c.kind = 3 then takeHeader s q c
        else markReady { s with sched := { s.sched with cards := s.sched.cards ++ [c] } }

/-- A card of the device queue taken (R371, R379). -/
def takeCommand (s : State) (q : Queue) (c : Card) : State :=
  let f (off n : Nat) : Nat := field c.bytes off n
  if c.kind ≠ 2 || 8 ≤ f 1 1 || 2 ^ 14 ≤ f 2 2 || f 4 0x34 ≠ 0 then countRefusal s q.id 1
  else if f 1 1 ≠ q.prio || f 2 2 ≠ q.asid then countRefusal s q.id 2
  else if !cmdWritable s q c.resultVa then countRefusal s q.id 12
  else
    let s1 := { s with sched := { s.sched with cards := s.sched.cards ++ [c] } }
    refuseUnknown q.id s1.sched.cards.length s1

/-- The open cards of a queue. -/
def openCards (s : State) (q : QueueId) : Nat := (s.sched.cards.filter fun c => c.id.queue = q && cardOpen s c).length

/-- A queue stopped by a fetch that failed (R375). -/
def stopQueue (s : State) (q : Queue) (va : Nat) : State := putQueue s { q with status := 2, faultva := va }

/-- CARD_FETCH (R375, R376, R379, R389): the slot at head is taken once its lap is written; a fetch that cannot read it stops the
queue. -/
def execCardFetch (qid : QueueId) (s : State) : Out :=
  match queueOf s qid with
  | none => .next s
  | some q =>
    let w := queueWho s q
    let va := slotVa q q.head
    let line := va / 256 * 256
    let below : Bool := match q.sealat with
      | some x => decide (q.head < x)
      | none => true
    if 2 ≤ q.status || !below || Config.queueCards ≤ openCards s qid then .next s
    else if !levMayCard s q.job qid.cluster qid.index q.head then .next (askLog s)
    else if (rangeTrap s w line 256 .r).isSome || !present s w line 256 then .next (stopQueue s q va)
    else match gateRange s w line 256 with
      | .wait => .next (askGates s w line 256)
      | _ =>
        let bs := readBytes s w va 128
        if field bs 0x7C 4 ≠ (q.head / 2 ^ q.k + 1) % 2 ^ 32 then .next s
        else
          let s1 := levCard (putQueue s { q with head := q.head + 1 }) q.job qid.cluster qid.index q.head bs
          let c : Card := { id := { queue := qid, slot := q.head }, job := q.job, bytes := bs }
          .next (if q.kind = 2 then takeCommand s1 q c else takeCard s1 q c)

/-- Whether a phase is its job's current one (R382): of the phases whose headers have come it is the lowest not yet complete (assumption
log 36). -/
def phaseCurrent (s : State) (p : Level) : Bool :=
  p.state = 0
    && (match levelRec s p.parent with
      | some j => j.state = 0
      | none => false)
    && s.sched.levels.all fun x => !(x.kind = 2 && x.parent = p.parent && decide (x.number < p.number)) || x.state = 2

/-- Whether the headers of all the graphs of a phase have come (R36, R378). -/
def headersAll (s : State) (p : Level) : Bool :=
  decide (p.total ≤ (s.sched.levels.filter fun l => l.kind = 1 && l.parent = p.id).length)

/-- Whether a fetched card names a graph of a lower number whose header has not come, so that the graph before this one in its phase may not
have completed, while a header of the phase is still to come (R382; assumption log 36). -/
def earlierGraphDue (s : State) (job graph : Nat) : Bool :=
  !((graphLevel s job graph).bind fun g => levelRec s g.parent).any (headersAll s)
    && s.sched.cards.any fun c => c.job = job && c.kind ≠ 3 && decide (c.graph < graph) && (graphLevel s job c.graph).isNone

/-- GRAPH_OPEN (R382): the graph's header is fetched, its phase is current, the graphs of lower number have completed, and no other
graph of the phase is open. -/
def execGraphOpen (job graph : Nat) (s : State) : Out :=
  match graphLevel s job graph with
  | none => .next s
  | some g =>
    match levelRec s g.parent with
    | none => .next s
    | some p =>
      let mates := s.sched.levels.filter fun l => l.kind = 1 && l.parent = p.id && l.id ≠ g.id
      if g.state = 0 && !g.opened && phaseCurrent s p && !earlierGraphDue s job graph
          && mates.all (fun l => if l.number < g.number then l.state = 2 else !l.opened || decide (2 ≤ l.state)) then
        .next (markReady (setLevel s { g with opened := true }))
      else .next s

/-- The clusters of a domain. -/
def clustersOf (s : State) (dom : Nat) : List Nat :=
  (List.range 64).filter fun c => (clusterRec s c).domain = dom && !(clusterRec s c).lost

/-- The handoff buffers of a card (R376). -/
def Card.handoffs (c : Card) : List (Nat × Nat) :=
  [(field c.bytes 0x20 8, field c.bytes 0x30 4), (field c.bytes 0x28 8, field c.bytes 0x34 4)].filter fun b => 0 < b.2

/-- Whether a buffer's regions are present and give the right that a flush needs (R384). -/
def handoffOk (s : State) (w : Who) (b : Nat × Nat) : Bool :=
  decide (b.1 + b.2 ≤ 2 ^ 56) && !overlap b.1 b.2 Config.aperture 131072 && (rangeTrap s w b.1 b.2 .r).isNone

/-- The flush of one handoff buffer in every cluster of the job's domain (R384). -/
def flushBuffer (s : State) (dom : Nat) (w : Who) (b : Nat × Nat) : State :=
  (clustersOf s dom).foldl (fun s cl => wbInvAll s cl { w with core := cl * 16 } b.1 b.2) s

/-- A launch node starts (R33, R377): its level is created, and its teams may be placed. -/
def startLaunch (s : State) (q : Queue) (c : Card) (graph : Nat) : State :=
  let l := newLevel s 0 graph c.node c.teams (field c.bytes 0x18 8) q.asid
  updCard l.2 c.id fun c => { c with standing := 1, level := l.1 }

/-- NODE_START (R382, R384): the ready node's handoff buffers are flushed, and it starts; a buffer that may not be flushed fails it. -/
def execNodeStart (n : NodeId) (s : State) : Out :=
  match nodeCard s n, graphLevel s n.job n.graph with
  | some c, some g =>
    match queueOf s c.id.queue with
    | none => .next s
    | some q =>
      let w := queueWho s q
      if !nodeReady s g c then .next s
      else if !c.handoffs.all (handoffOk s w) then .next (nodeEnds s n false)
      else
        let s1 := c.handoffs.foldl (fun s b => flushBuffer s w.domain w b) s
        if c.kind = 0 then .next (startLaunch s1 q c g.id)
        else
          let s2 := updCard s1 c.id fun c => { c with standing := 1 }
          .next (refuseUnknown q.id s2.sched.cards.length s2)
  | _, _ => .next s

/-- Whether a job's counters are final (R37, R390): its level and every level below it has ended. -/
def jobFinal (s : State) (job : Nat) : Bool :=
  (levelRec s job).isSome
    && (belowOf [job] s.sched.levels).all fun id => (levelRec s id).all fun l => decide (2 ≤ l.state)

/-- QUEUE_DESTROY_COMPLETE (R390): no card of the destroyed queue is placed, waiting or running, and its counters are final. -/
def execQueueDestroyComplete (qid : QueueId) (s : State) : Out :=
  match queueOf s qid with
  | none => .next s
  | some q =>
    let cancelled : Bool := match levelRec s q.job with
      | some j => decide (3 ≤ j.state)
      | none => false
    let fetched : Bool := match q.sealat with
      | some x => decide (x ≤ q.head)
      | none => false
    if q.dropping && q.status ≠ 3 && jobFinal s q.job && (fetched || cancelled) && openCards s qid = 0 then .next (putQueue s { q with status := 3 })
    else .next s

end Sys2Proof.Machine
end

