-- ==== Sys2Proof/Machine/System.lean ====
section
/-! DEFINITION. The curve table (R194), the CSRs (R55, R57, R195, R331), traps and breakpoints (R196), the return from a handler
(R356, R357, R364, R365), `rptinv` (R347) and `tstop` (R342). -/

namespace Sys2Proof.Machine

/-- CRVLD (R194): the curve table is replaced whole or not at all. -/
def execCrvld (a : SReg) (s : State) : Out :=
  let va := (readReg s a).toNat
  match fetchTrap s va 1280 64 .r with
  | some c => .next (takeStop s (scalarStop s c va))
  | none =>
    match teamRead s va 1280 with
    | .error k => unstick s k
    | .ok bs =>
      let s1 := touchBytes s va 1280
      let curve : SMap Half := (List.range 320).foldl (fun m k => sset 0 m k (BitVec.ofNat 32 (field bs (4 * k) 4))) []
      .next (advance (setTeam s1 { s1.team with regs := { s1.team.regs with curve := curve } }))

/-- The LINK register (R55, R406). -/
def linkWord (s : State) : Nat :=
  let up := (List.range 16).foldl (fun n k => if (sget {} s.link.ports k).up then n + 2 ^ k else n) 0
  s.link.gen.toNat * 2 ^ 32 + s.link.state.toNat * 2 ^ 28 + up

/-- The PLACE register (R55). -/
def placeWord (t : Team) : Nat :=
  (t.card.crew - 1) % 4 * 2 ^ 12 + t.card.crk % 4 * 2 ^ 10 + t.place.cluster % 64 * 2 ^ 4 + t.place.core % 16

/-- The issue-cycle count of the focus team's partition as it is read now: it has risen by a free number of cycles since it was read last
(R18, R58; assumption log 66). -/
def cycleCount (s : State) : Nat := sget 0 s.cores.cyc (partKey (coreOf s.team) s.team.place.part) + Config.cycles (draw s 0)

/-- The state after the focus team has read its partition's count. -/
def countCycles (s : State) : State :=
  { s with cores := { s.cores with cyc := sset 0 s.cores.cyc (partKey (coreOf s.team) s.team.place.part) (cycleCount s) } }

/-- The value of a user CSR (R55); none for an unassigned number. -/
def userCsr (s : State) (n : Nat) : Option Word :=
  let t := s.team
  let num (x : Nat) : Option Word := some (BitVec.ofNat 64 x)
  match n with
  | 0x000 => num (cycleCount s)
  | 0x001 => some t.sys.resumes
  | 0x002 => num t.card.tix
  | 0x003 => num t.card.tcount
  | 0x004 => num (placeWord t)
  | 0x005 => num t.regs.band.toNat
  | 0x006 => num t.regs.stack.length
  | 0x007 => num t.regs.flags.toNat
  | 0x008 => num (amaxWord t 0)
  | 0x009 => num (amaxWord t 1)
  | 0x00A => num (amaxWord t 2)
  | 0x00B => num (amaxWord t 3)
  | 0x010 => num (linkWord s)
  | _ => none

/-- The value of a supervisor CSR (R331); none for an unassigned number. -/
def supCsr (s : State) (n : Nat) : Option Word :=
  let t := s.team
  let num (x : Nat) : Option Word := some (BitVec.ofNat 64 x)
  match n with
  | 0x080 => num (privWord t)
  | 0x081 => some t.sys.tvec
  | 0x082 => some t.sys.epc
  | 0x083 => some t.sys.scause
  | 0x084 => some t.sys.srec
  | 0x085 => some (sget 0 t.sys.sscr 0)
  | 0x086 => some (sget 0 t.sys.sscr 1)
  | 0x087 => some (sget 0 t.sys.sscr 2)
  | 0x088 => some (sget 0 t.sys.sscr 3)
  | 0x089 => num t.card.asid
  | 0x08A => num (teamDomain s t)
  | 0x08B => num t.card.handle
  | 0x08C => num t.card.fault
  | 0x08D => num t.sys.slice.toNat
  | 0x08E => num t.sys.dbg.toNat
  | _ => none

/-- The value of a CSR, or the trap of its read (R55, R331). -/
def csrValue (s : State) (n : Nat) : Except Stuck Word :=
  if 0x080 ≤ n && levelOf s.team = 0 then trapping s 0x02
  else match (if n < 0x080 then userCsr s n else supCsr s n) with
    | some x => .ok x
    | none => trapping s 0x01

/-- CSRR (R55, R57, R195, R331). -/
def execCsrr (d : SReg) (csr : BitVec 12) (s : State) : Out :=
  match csrValue s csr.toNat with
  | .error k => unstick s k
  | .ok x => .next (finish (if csr = 0 then countCycles s else s) d x)

/-- Whether a band size code is assigned (R52). -/
def bandOk (c : Nat) : Bool := 1 ≤ c && c ≤ 5

/-- The state after a write of a CSR (R52, R53, R55, R195, R331), or its trap; a CSR that is read-only or unassigned is an
illegal instruction. A new EPC leaves the word at which an `lrun` or `lloop` stood: what it had still to append is forgotten (R177, R364). -/
def csrWritten (s : State) (n : Nat) (x : Word) : Except Stuck State :=
  let t := s.team
  if 0x080 ≤ n && levelOf t = 0 then trapping s 0x02
  else match n with
    | 0x005 =>
      if bandOk (x.toNat % 8) then .ok (setRegs s { t.regs with band := x.truncate 3 }) else trapping s 0x03
    | 0x007 => .ok (setRegs s { t.regs with flags := t.regs.flags &&& ~~~(x.truncate 7) })
    | 0x008 | 0x009 | 0x00A | 0x00B =>
      .ok (setRegs s { t.regs with amax := sset 0 t.regs.amax (n - 8) ((x.truncate 33) &&& ~~~(0x80000000#33)) })
    | 0x081 => .ok (setSys s { t.sys with tvec := x &&& ~~~3#64 })
    | 0x082 => .ok (setTeam s { t with
        sys := { t.sys with epc := x }, lane := { t.lane with append := if x = t.sys.epc then t.lane.append else none } })
    | 0x085 | 0x086 | 0x087 | 0x088 => .ok (setSys s { t.sys with sscr := sset 0 t.sys.sscr (n - 0x085) x })
    | 0x08D => .ok (setSys s { t.sys with slice := clampSlice (x.truncate 32) })
    | 0x08E => .ok (setSys s { t.sys with dbg := x.truncate 3 })
    | _ => trapping s 0x01

/-- CSRW (R55, R57, R195, R331). -/
def execCsrw (a : SReg) (csr : BitVec 12) (s : State) : Out :=
  match csrWritten s csr.toNat (readReg s a) with
  | .error k => unstick s k
  | .ok s1 => .next (advance s1)

/-- A stop after the word, with the word's VA and code in it and the PC past it (R196). -/
def stopAfter (s : State) (cause : Nat) (code : BitVec 16) : State :=
  takeStop (advance s) { scalarStop s cause with code := code.toNat }

/-- TRAP (R196). -/
def execTrap (code : BitVec 16) (s : State) : Out := .next (stopAfter s 0x18 code)
/-- BRK (R196). -/
def execBrk (code : BitVec 16) (s : State) : Out := .next (stopAfter s 0x19 code)

/-- The trap of an `sret` that may not run (R364). -/
def sretTrap (s : State) : Option Nat :=
  if levelOf s.team = 0 then some 0x02 else if !s.team.sys.handler then some 0x03 else none

/-- SRET_RESUME (R292, R364): held stores stay held. -/
def execSretResume (s : State) : Out :=
  match sretTrap s with
  | some c => .next (takeStop s (scalarStop s c))
  | none => .next (unpauseCopies (leaveHandler s) s.team.card.handle)

/-- The region check of a held entry as it is re-issued (R356): the region permission table must hold W for it. -/
def replayAllowed (s : State) (e : SbEntry) : Bool :=
  let x := tableEntry s e.asid e.sector
  eValid x && bit x 2 && (e.asid ≠ 0 || eGdom x = (entryWho s e).domain)

/-- One held entry re-issued (R356): dropped with a record of kind 4, or drained again; and whether it was dropped. -/
def replayEntry (s : State) (e : SbEntry) : State × Bool :=
  if !s.sb.contains e then (s, false)
  else if replayAllowed s e then (drainEntry s e, false)
  else
    let s1 := { s with sb := s.sb.erase e }
    (putDefer s1 e.team
      { kind := 4, source := e.source, access := e.access, lane := e.lane, pass := e.pass, lanes := e.lanes.toNat, va := entryVa e
        asid := e.asid, iva := e.iva }, true)

/-- Every held entry of a team re-issued in ascending sequence (R356); and the sequence and VA of the first that was dropped. -/
def replayHeld (s : State) (h : Nat) : State × Option (Nat × Nat) :=
  let es := (s.sb.filter fun e => e.held && e.team = h).map fun e => { e with held := false }
  let s0 := mapSb s fun e => if e.team = h then { e with held := false } else e
  let r := es.foldl (fun r e =>
    let x := replayEntry r.1 e
    (x.1, r.2.or (if x.2 then some (e.seq, entryVa e) else none))) (s0, none)
  (settleBuffer r.1, r.2)

/-- The stores of a team that a replay has begun to re-issue, by sequence, and the first that was dropped, with the state after: those held
are re-issued first, and later ones of it drained as far as they go (R356). -/
def replayBegun (s : State) (h : Nat) : State × List Nat × Option (Nat × Nat) :=
  match s.team.ord.replay with
  | some (seqs, dropped) => (drainTeam s h, seqs, dropped)
  | none =>
    let seqs := (s.sb.filter fun e => e.held && e.team = h).map (·.seq)
    let r := replayHeld (setTeam s { s.team with ord := { s.team.ord with replay := some (seqs, none) } }) h
    (r.1, seqs, r.2)

/-- The VA of the first record that a replay has written, for the stop after it (R356, R362): of the entries dropped and those held again the
one that came first. -/
def replayVa (s : State) (h : Nat) (dropped : Option (Nat × Nat)) : Nat :=
  match dropped, s.sb.find? fun e => e.team = h && e.held with
  | some x, some e => if x.1 ≤ e.seq then x.2 else entryVa e
  | some x, none => x.2
  | none, some e => entryVa e
  | none, none => 0

/-- Whether a store of a team stays pending for as long as another of it is held: it is a release over the held one, or stands behind such a
release in its sector (R104, R117). -/
def behindRelease (s : State) (e : SbEntry) : Bool :=
  s.sb.any fun y => y.held && y.team = e.team && s.sb.any fun z =>
    z.team = e.team && z.asid = e.asid && z.sector = e.sector && decide (z.seq ≤ e.seq) && decide (y.seq < z.covers)

/-- Whether a replay still waits for one of its stores: it is neither performed nor held again nor dropped (R364). -/
def replayWaits (s : State) (h : Nat) (seqs : List Nat) : Bool :=
  s.sb.any fun e => e.team = h && !e.held && seqs.contains e.seq && !behindRelease s e

/-- SRET_REPLAY (R356, R364): it waits until each entry that it re-issues has been performed, held again or dropped; with one held again or
dropped the team stops again at once. -/
def execSretReplay (s : State) : Out :=
  match sretTrap s with
  | some c => .next (takeStop s (scalarStop s c))
  | none =>
    let h := s.team.card.handle
    let r := replayBegun s h
    if replayWaits r.1 h r.2.1 then
      .next (setTeam r.1 { r.1.team with ord := { r.1.team.ord with replay := some r.2 } })
    else
      let s1 := unpauseCopies (leaveHandler r.1) h
      if r.2.2.isSome || hasHeld s1 h then .next (takeStop s1 (scalarStop s1 0x14 (replayVa s1 h r.2.2))) else .next s1

/-- SRET_ABANDON (R357, R364, R365): held and later stores and paused engine work are dropped, the team is removed, and its launch
fails; a communication team puts its groups in error. -/
def execSretAbandon (s : State) : Out :=
  match sretTrap s with
  | some c => .next (takeStop s (scalarStop s c))
  | none =>
    let h := s.team.card.handle
    .next (sweepSaved (removeTeam (failLevel (commLost s h) s.team.card.launch) h))

/-- Whether a region entry is of those that `rptinv` drops (R347). -/
def rptMatch (s : State) (dom va sel : Nat) (asid rn : Nat) : Bool :=
  if bit sel 15 then asidDomain s asid = some dom
  else if bit sel 14 then asid = sel % 2 ^ 14
  else asid = sel % 2 ^ 14 && rn = regionNo va

/-- The matching entries dropped from the region caches, the walks and the instruction caches of every core of a domain (R347). -/
def dropRegions (s : State) (dom va sel : Nat) : State :=
  let inDom (core : Nat) : Bool := (clusterRec s (core / 16)).domain = dom
  let keep (c : CachedRegion) : Bool := !(inDom c.core && rptMatch s dom va sel c.asid c.rn)
  { s with
    xl := { s.xl with rptc := s.xl.rptc.filter keep, walks := s.xl.walks.filter keep }
    cores := { s.cores with code := s.cores.code.filter fun c => !(inDom c.core && rptMatch s dom va sel c.asid (regionNo c.sec)) } }

/-- Whether a buffered store of a domain was checked against an entry that `rptinv` drops, and has not reached its end (R347). -/
def storeChecked (s : State) (dom va sel : Nat) (e : SbEntry) : Bool :=
  !e.held && (entryWho s e).domain = dom && rptMatch s dom va sel e.asid (regionNo e.sector)

/-- Whether a team of a domain has an access under way that was checked against such an entry: the passes of a word, a load that waits for its
reply, or an atomic on its way to a group window (R347). -/
def teamChecked (s : State) (dom va sel : Nat) (t : Team) : Bool :=
  let load : Bool := match t.ord.load with
    | some x => rptMatch s dom va sel (tagOf t.card.asid x) (regionNo x)
    | none => false
  t.place.run = 1 && teamDomain s t = dom && (load || midWord s t.card.handle)

/-- The words that a handler has frozen between their passes make their checks again as they go on (R229, R332, R347). -/
def checkAgain (s : State) (dom : Nat) : State :=
  let one (t : Team) : Team :=
    if teamDomain s t = dom && t.sys.handler then { t with lane := { t.lane with busy := false } } else t
  { s with team := one s.team, others := s.others.map one }

/-- The accesses of a domain that were checked against dropped entries brought on their way (R347): buffered stores drain as far as they go,
and frozen words will check again. -/
def finishChecked (s : State) (dom va sel : Nat) : State :=
  let s1 := checkAgain s dom
  drainFrom (storeChecked s1 dom va sel) s1.sb.length 0 s1

/-- Whether an access that was checked against a dropped entry has not been performed, has not returned and is not held (R347). -/
def checkedLeft (s : State) (dom va sel : Nat) : Bool :=
  s.sb.any (storeChecked s dom va sel) || (s.team :: s.others).any (teamChecked s dom va sel)

/-- RPTINV (R197, R347): it drops the matching entries, and waits until every access that was checked against one has been performed, has
returned or is held in a store buffer. -/
def execRptinv (a b : SReg) (s : State) : Out :=
  let va := (readReg s a).toNat
  let sel := (readReg s b).toNat
  let dom := teamDomain s s.team
  if levelOf s.team = 0 then .next (takeStop s (scalarStop s 0x02))
  else if 2 ^ 16 ≤ sel || (2 ^ 56 ≤ va && !bit sel 15 && !bit sel 14) then .next (takeStop s (scalarStop s 0x03))
  else if !bit sel 15 && (match asidDomain s (sel % 2 ^ 14) with | some d => d ≠ dom | none => false) then
    .next (takeStop s (scalarStop s 0x06))
  else
    let s1 := finishChecked (dropRegions s dom va sel) dom va sel
    .next (if checkedLeft s1 dom va sel then s1 else advance s1)

/-- A halt requested of a team and its crew (R342): a saved crew enters HALTED at once, a resident one as any of its teams reaches its next
stopping point, whatever else it comes to there (R366). -/
def requestHalt (s : State) (t : Team) : State :=
  if t.place.run = 2 then
    (crewOf s t).foldl (fun s h => haltOne s h (stopWord 0x1D 0 0 true false)) s
  else if t.place.run = 1 then
    (crewOf s t).foldl (fun s h => updTeam s h fun x => { x with ord := { x.ord with haltReq := true } }) s
  else s

/-- TSTOP (R197, R342). -/
def execTstop (a : SReg) (s : State) : Out :=
  if levelOf s.team = 0 then .next (takeStop s (scalarStop s 0x02))
  else match teamOf s (readReg s a).toNat with
    | none => .next (takeStop s (scalarStop s 0x03))
    | some t =>
      if !(1 ≤ t.place.run && t.place.run ≤ 3) then .next (takeStop s (scalarStop s 0x03))
      else if teamDomain s t ≠ teamDomain s s.team then .next (takeStop s (scalarStop s 0x06))
      else .next (requestHalt (advance s) t)

end Sys2Proof.Machine
end

