-- ==== Sys2Proof/Machine/Placement.lean ====
section
/-! DEFINITION. Where teams run: placement (R385, R377), resumption (R386), slices and pre-emption (R42, R190, R366), ending (R28),
and the posting of a tile-task node (R378). -/

namespace Sys2Proof.Machine

/-- Every team of the module that is resident, saved or halted. -/
def liveTeams (s : State) : List Team := (s.team :: s.others).filter fun t => 1 ≤ t.place.run && t.place.run ≤ 3

/-- The teams of a list on a core. -/
def onCore (ts : List Team) (cl co : Nat) : List Team := ts.filter fun t => t.place.cluster = cl && t.place.core = co

/-- The teams resident on a partition (R41): at most 8. -/
def partLoad (ts : List Team) (cl co part : Nat) : Nat :=
  ((onCore ts cl co).filter fun t => t.place.run = 1 && t.place.part = part).length

/-- The free team slots of a core's six partitions (R41). -/
def freeSlotsOf (ts : List Team) (cl co : Nat) : Nat :=
  (List.range 6).foldl (fun n p => n + (8 - partLoad ts cl co p)) 0

/-- The first partition of a core with a free slot. -/
def freePart (ts : List Team) (cl co : Nat) : Option Nat := (List.range 6).find? fun p => partLoad ts cl co p < 8

/-- The crew of a team within its launch. -/
def crewNo (t : Team) : Nat := t.card.tix / t.card.crew

/-- Two ranges of tiles share a tile. -/
def tilesMeet (a n b m : Nat) : Bool := overlap a n b m

/-- The local windows of a core's removed teams whose tile tasks have not all ended: their tiles stay allocated (R277). -/
def goneWindows (s : State) (core : Nat) : List (Nat × Nat) :=
  ((coreTaskList s core).filter fun k => !(liveTeams s).any (·.card.handle = k.team)).map (·.window)

/-- The local window of a launch card. -/
def Card.window (c : Card) : Nat × Nat := (field c.bytes 0x6F 1, field c.bytes 0x70 1)
/-- The stash window of a launch card. -/
def Card.stashWindow (c : Card) : Nat × Nat := (field c.bytes 0x71 1, field c.bytes 0x72 1)
/-- The stash prefix of a launch card. -/
def Card.prefixTiles (c : Card) : Nat := field c.bytes 0x6E 1

/-- Whether a core can take `need` teams of a crew beside the teams `ts` (R385). -/
def coreFits (s : State) (ts : List Team) (c : Card) (crew cl co need : Nat) : Bool :=
  let here := onCore ts cl co
  let other (t : Team) : Bool := !(t.card.launch = c.level && crewNo t = crew)
  let win := c.window
  let st := c.stashWindow
  decide (need ≤ freeSlotsOf ts cl co)
    && (here.filter fun t => 0 < t.card.lcount || 0 < t.card.scount).all (fun t => t.card.stash = c.prefixTiles)
    && (win.2 = 0 || (here.all (fun t => !other t || !tilesMeet win.1 win.2 t.card.lbase t.card.lcount)
      && (goneWindows s (cl * 16 + co)).all fun x => !tilesMeet win.1 win.2 x.1 x.2))
    && (st.2 = 0 || here.all fun t => !other t || !tilesMeet st.1 st.2 t.card.sbase t.card.scount)

/-- The number of a crew's teams on its `j`-th core (R385). -/
def crewShare (c : Card) (j : Nat) : Nat := (c.crewSize - j + c.crewCores - 1) / c.crewCores

/-- Whether a cluster is one that a crew may use (R385): of the job's domain, and the one that its pins name. -/
def clusterAllowed (s : State) (c : Card) (crew cl : Nat) : Bool :=
  decide (cl < 64) && !(clusterRec s cl).lost && asidDomain s (field c.bytes 2 2) = some (clusterRec s cl).domain
    && (c.crewPins crew).all (· = cl)

/-- Whether the cores left can take the shares left, the largest first. -/
def sharesFit (s : State) (ts : List Team) (c : Card) (crew cl : Nat) (cores shares : List Nat) : Bool :=
  shares.all fun n =>
    decide ((shares.filter fun m => n ≤ m).length ≤ (cores.filter fun co => coreFits s ts c crew cl co n).length)

/-- Whether a crew can be placed on a cluster beside the teams `ts` (R385). -/
def crewFits (s : State) (ts : List Team) (c : Card) (crew cl : Nat) : Bool :=
  clusterAllowed s c crew cl && sharesFit s ts c crew cl (List.range 16) ((List.range c.crewCores).map (crewShare c))

/-- Whether a crew can be placed on a cluster so that one of its teams is on a given core (R42). -/
def crewFitsOn (s : State) (ts : List Team) (c : Card) (crew cl co : Nat) : Bool :=
  let shares := (List.range c.crewCores).map (crewShare c)
  clusterAllowed s c crew cl && shares.any fun n =>
    coreFits s ts c crew cl co n && sharesFit s ts c crew cl ((List.range 16).filter (· ≠ co)) (shares.erase n)

/-- The launches with teams to place, as cards (R385): started, and neither ended nor cancelled. -/
def readyPool (s : State) : List Card :=
  s.sched.cards.filter fun c => c.kind = 0 && c.standing = 1
    && (match levelRec s c.level with
      | some l => l.state = 0
      | none => false)

/-- The crews of a launch that are not placed yet. -/
def unplaced (c : Card) : List Nat := (List.range (c.teams / c.crewSize)).filter fun k => !c.crews.contains k

/-- The priority of a card's job. -/
def Card.prio (c : Card) : Nat := field c.bytes 1 1 % 8

/-- Whether a crew stands before another in its scheduler's order (R385). -/
def goesBefore (c : Card) (crew : Nat) (c' : Card) (crew' : Nat) : Bool :=
  if c.id = c'.id then decide (crew < crew')
  else c.id.queue.cluster = c'.id.queue.cluster && (c'.prio < c.prio || (c.prio = c'.prio && decide (c.readyAt.getD 0 < c'.readyAt.getD 0)))

/-- Whether a crew that stands before this one can be placed now: it is placed first (R385). -/
def earlierFits (s : State) (c : Card) (crew : Nat) : Bool :=
  (readyPool s).any fun x => (unplaced x).any fun k =>
    goesBefore x k c crew && (List.range 64).any fun cl => crewFits s (liveTeams s) x k cl

/-- Whether a saved crew can be resumed now (R386, R30): every team of it is saved and its core has a slot for it. -/
def crewResumes (s : State) (t : Team) : Bool :=
  let crew := (crewOf s t).filterMap (teamOf s)
  crew.all fun x => x.place.run = 2
    && decide ((onCore crew x.place.cluster x.place.core).length ≤ freeSlotsOf (liveTeams s) x.place.cluster x.place.core)

/-- Whether a saved team of at least a priority waits for one of some cores and can be resumed (R386). -/
def savedFirst (s : State) (prio cl : Nat) (cores : List Nat) : Bool :=
  (liveTeams s).any fun t => t.place.run = 2 && t.place.cluster = cl && cores.contains t.place.core && decide (prio ≤ t.card.prio)
    && crewResumes s t

/-- The bytes of a context image (R335). -/
def imageSize (v w : Nat) : Nat := 0x13000 + padF v w + 128 * (v * w)

/-- Whether a context image lies where R335 lets it, and is no live team's; images of one launch that overlap under a stride below their size (R377)
are let stand (assumption log 115). -/
def imageOk (s : State) (dom va n : Nat) : Bool :=
  va % 4096 = 0 && bits va 52 4 = 15 && decide (va + n ≤ 2 ^ 56)
    && (regionVas va n).all (fun a =>
      let e := tableEntry s 0 a
      eValid e && eKind e = 0 && eGdom e = dom && bit e 1 && bit e 2 && eSup e)
    && !(liveTeams s).any (·.card.handle = va)

/-- The image of team `tix` of a launch card (R377). -/
def Card.image (c : Card) (tix : Nat) : Nat := field c.bytes 0x40 8 + field c.bytes 0x48 4 * tix
/-- The registers of each team. -/
def Card.regs (c : Card) : Nat := field c.bytes 0x6A 2
/-- The mask words of each team. -/
def Card.words (c : Card) : Nat := field c.bytes 0x6C 1 % 32 + 1

/-- Whether the header of a team's context image is as R335 lays it out for the team that its card names (R385; assumption log 89). -/
def headerOk (s : State) (dom : Nat) (q : Queue) (c : Card) (tix : Nat) : Bool :=
  let bs := hwRead s dom 0 (c.image tix) 64
  field bs 0 4 = 1 && field bs 5 1 = c.words && field bs 6 2 = c.regs && field bs 8 2 = q.asid && field bs 0xA 1 = dom
    && field bs 0xB 1 = (c.crewSize - 1) * 16 + tix % c.crewSize && field bs 0xC 4 = 0
    && field bs 0x10 8 = field c.bytes 0x50 8 + 4096 * tix && (bs.drop 0x20).all (· = 0)

/-- A team as its placement starts it (R28, R45, R377): s94 holds its card's slot, the mask every lane. -/
def newTeam (s : State) (q : Queue) (c : Card) (tix cl co part : Nat) : Team where
  pc := BitVec.ofNat 64 (field c.bytes 0x38 8)
  card := {
    handle := c.image tix, fault := field c.bytes 0x50 8 + 4096 * tix, asid := q.asid, prio := q.prio
    level := if q.kind = 1 then 1 else 0, launch := c.level, queue := q.id, tix := tix, tcount := c.teams, crew := c.crewSize
    crk := tix % c.crewSize, comm := c.commCrk, v := c.regs, w := c.words, ttable := field c.bytes 0x60 8
    tmpls := field c.bytes 0x68 2, stash := c.prefixTiles, lbase := c.window.1, lcount := c.window.2, sbase := c.stashWindow.1
    scount := c.stashWindow.2, slot := slotVa q c.id.slot, job := c.job }
  place := { run := 1, cluster := cl, core := co, part := part, savedAt := s.fresh }
  regs := {
    s := sset 0 [] 94 (BitVec.ofNat 64 (slotVa q c.id.slot))
    mask := laneMask c.words }
  sys := {
    tvec := BitVec.ofNat 64 (field c.bytes 0x58 8) &&& ~~~3#64
    slice := if field c.bytes 0x78 4 = 0 then 0x100000 else clampSlice (BitVec.ofNat 32 (field c.bytes 0x78 4)) }

/-- A window as a placement leaves it (R94): every tile has owner 0 and no readers, and its bytes are free values. -/
def freshWindow (s : State) (core : Nat) (w : Nat × Nat) : State :=
  let s1 := (List.range w.2).foldl (fun s i => setTile s core (w.1 + i) {}) s
  lmWrite s1 core (4096 * w.1) ((List.range (4096 * w.2)).map fun i => Config.freeByte (draw s (lmAddr core (4096 * w.1 + i))))

/-- A team put among the module's teams; it has the turn when no live team has it. -/
def addTeam (s : State) (t : Team) : State :=
  if 1 ≤ s.team.place.run && s.team.place.run ≤ 3 then { s with others := s.others ++ [t] } else { s with team := t }

/-- The team `j` of a crew placed on its core (R385). -/
def placeOne (q : Queue) (c : Card) (crew cl : Nat) (cores : List Nat) (s : State) (j : Nat) : State :=
  let co := cores.getD (j % c.crewCores) 0
  let core := cl * 16 + co
  let s1 := if j < c.crewCores && 0 < c.window.2 then freshWindow s core c.window else s
  let t := newTeam s1 q c (crew * c.crewSize + j) cl co ((freePart (liveTeams s1) cl co).getD 0)
  writeHeaderState (addTeam s1 t) t 1

/-- A whole crew placed (R30, R385). -/
def placeCrew (s : State) (q : Queue) (c : Card) (crew cl : Nat) (cores : List Nat) : State :=
  updCard ((List.range c.crewSize).foldl (placeOne q c crew cl cores) s) c.id fun c => { c with crews := c.crews ++ [crew] }

/-- TEAM_PLACEMENT (R385): a crew whose turn it is in the scheduler's order and that its cores can take is placed and started; an
image that breaks R335 fails the launch, and a header that must wait at its home is waited for (R116). -/
def execTeamPlacement (launch crew cluster : Nat) (cores : List Nat) (s : State) : Out :=
  match (readyPool s).find? fun c => c.level = launch with
  | none => .next s
  | some c =>
    match queueOf s c.id.queue with
    | none => .next s
    | some q =>
      let dom := (clusterRec s cluster).domain
      let tixs := (List.range c.crewSize).map (crew * c.crewSize + ·)
      let fits := (unplaced c).contains crew && clusterAllowed s c crew cluster && cores.length = c.crewCores && cores.Nodup
        && cores.all (· < 16)
        && (List.range c.crewCores).all (fun j => coreFits s (liveTeams s) c crew cluster (cores.getD j 0) (crewShare c j))
      let header (x : Nat) : Who × Nat := (hwWho dom 0, c.image x)
      if !fits || earlierFits s c crew || savedFirst s q.prio cluster cores then .next s
      else if tixs.any fun x => gateWaits s (header x).1 (header x).2 64 then
        .next (tixs.foldl (fun s x => askGate s (header x).1 (header x).2) s)
      else if tixs.all fun x => imageOk s dom (c.image x) (imageSize c.regs c.words) && headerOk s dom q c x then
        .next (placeCrew s q c crew cluster cores)
      else .next (sweepSaved (failLevel s launch))

/-- Whether another saved team that waits for one of a crew's cores goes before it (R386): a higher priority, or the same and saved
earlier. -/
def savedBefore (s : State) (t : Team) : Bool :=
  let crew := (crewOf s t).filterMap (teamOf s)
  (liveTeams s).any fun x => x.place.run = 2 && !crew.any (·.card.handle = x.card.handle)
    && crew.any (fun y => y.place.cluster = x.place.cluster && y.place.core = x.place.core)
    && (t.card.prio < x.card.prio || (t.card.prio = x.card.prio && decide (x.place.savedAt < t.place.savedAt)))
    && crewResumes s x

/-- Whether a new crew of a higher priority that can be placed on one of a saved crew's cores goes before it (R385, R386). -/
def newBefore (s : State) (t : Team) : Bool :=
  let crew := (crewOf s t).filterMap (teamOf s)
  (readyPool s).any fun c => t.card.prio < c.prio && (unplaced c).any fun k =>
    crew.any fun y => crewFitsOn s (liveTeams s) c k y.place.cluster y.place.core

/-- TEAM_RESUMPTION (R30, R340, R386): a saved crew is resident again on its own cores; the named team on a partition with a free slot. -/
def execTeamResumption (team partition : Nat) (s : State) : Out :=
  match teamOf s team with
  | none => .next s
  | some t =>
    let free := decide (partition < 6) && decide (partLoad (liveTeams s) t.place.cluster t.place.core partition < 8)
    if t.place.run ≠ 2 || !free || !crewResumes s t || savedBefore s t || newBefore s t then .next s
    else
      let mates := (crewOf s t).filter (· ≠ team)
      .next (settleKept (mates.foldl (fun s h =>
        match teamOf s h with
        | some x => resumeTeam s h ((freePart (liveTeams s) x.place.cluster x.place.core).getD 0)
        | none => s) (resumeTeam s team partition)))

/-- Whether a team that is not resident waits for a core that a crew occupies (R42): a saved one bound to it, or an unplaced crew that
could be placed there once this crew's slots and windows are freed. -/
def waitedFor (s : State) (t : Team) : Bool :=
  let crew := (crewOf s t).filterMap (teamOf s)
  let rest := (liveTeams s).filter fun x => !crew.any (·.card.handle = x.card.handle)
  let near (x : Team) : Bool := crew.any fun y => y.place.cluster = x.place.cluster && y.place.core = x.place.core
  rest.any (fun x => x.place.run = 2 && decide (t.card.prio ≤ x.card.prio) && near x)
    || (readyPool s).any fun c => decide (t.card.prio ≤ c.prio) && (unplaced c).any fun k =>
      crew.any fun y => crewFitsOn s rest c k y.place.cluster y.place.core

/-- Whether the focus team is removed as it reaches a cancellation point: its level is cancelling and it has not executed its final `ret`
(R39). -/
def pointRemoves (s : State) : Bool := cancelled s && !s.team.ord.ending

/-- The end of the focus team's slice (R42, R39, R190): a cancellation point, then pre-emption of its crew, once none of its teams has
accesses under way, or a fresh slice. -/
def sliceEnd (s : State) : State :=
  if pointRemoves s then cancelTeam s else if waitedFor s s.team then preemptCrew s s.team else s

/-- YIELD (R190); the L-word that has begun completes its passes before the team is removed (R39). -/
def execYield (s : State) : Out :=
  if pointRemoves s && midWord s s.team.card.handle then .next s else .next (sliceEnd (advance s))

/-- TIME_SLICE_EXPIRY (R42, R366): an expiry that meets a stop is void. -/
def execTimeSliceExpiry (team : Nat) (s : State) : Out :=
  match teamOf s team with
  | none => .next s
  | some t =>
    let s1 := focus s team
    let fault : Bool := match t.ord.load with
      | some va => gateAt s (whoOf s t) va = .absent
      | none => false
    if t.place.run ≠ 1 || !clocked s (coreOf t) || t.ord.leave.isSome || midWord s team then .next s
    else if pointRemoves s1 then .next (cancelTeam s1)
    else if fault || !t.ord.stops.isEmpty || t.ord.haltReq then
      .next (setTeam s1 { s1.team with ord := { s1.team.ord with expired := true } })
    else .next (sliceEnd s1)

/-- LOAD_REPLY (R164, R231): the reply of a load arrives and its word runs again with it; a translation fault stops the team, once the L-word
that has begun has completed its passes (R199, R261). -/
def execLoadReply (team : Nat) (s : State) : Out :=
  match teamOf s team with
  | none => .next s
  | some t =>
    match t.ord.load with
    | none => .next s
    | some va =>
      let clear (s : State) : State := updTeam s team fun t => { t with ord := { t.ord with load := none } }
      if !clocked s (coreOf t) then .next s
      else match gateAt s (whoOf s t) va with
      | .go => .next (clear s)
      | .wait => .next (askGate s (whoOf s t) va)
      | .absent => if !t.sys.handler && t.laneMid then .next s else .next (readFault (focus (clear s) team) va (sourceFor t va 1) 0)

/-- STORE_BUFFER_DRAIN (R116, R119, R352); a slot of a fault area that the store has freed takes a record that waits for one (R354), and
the hardware's writes whose homes let them through now are made. -/
def execStoreBufferDrain (i : Nat) (s : State) : Out :=
  match s.sb[i]?.filter fun e => clocked s e.core with
  | some e => .next (settleTasks (settleKept (settlePosted (drainEntry s e))))
  | none => .next (settleTasks (settleKept (settlePosted s)))

/-- A line leaves its register cache: written back compressed when it is dirty, and else dropped (R337, R338). -/
def evictLine (s : State) (l : HeldLine) : State :=
  let s1 := match teamOf s l.team with
    | some t => if l.dirty then writeLine s t l.v l.w else s
    | none => s
  setLines s1 fun ls => ls.erase l

/-- The line that leaves a full register cache (R338): one of an evictable team, that is one that is not resident, where the named one is
such or else the first; then the clean line used least recently, then the dirty one. -/
def evictedLine (s : State) (core part : Nat) (victim : Option RegLine) : Option HeldLine :=
  let held := s.cores.lines.filter fun l => l.core = core && l.part = part
  let loose := held.filter fun l => match teamOf s l.team with
    | some t => t.place.run ≠ 1
    | none => true
  let named := victim.bind fun x => loose.find? fun l => l.team = x.team && l.v = x.v && l.w = x.w
  named.or (loose.head?.or ((held.find? (!·.dirty)).or held.head?))

/-- A partition's register cache with room for a line (R59, R338): it holds 3,072. -/
def roomForLine (s : State) (core part : Nat) (victim : Option RegLine) : State :=
  if (s.cores.lines.filter fun l => l.core = core && l.part = part).length < Config.registerLines then s
  else match evictedLine s core part victim with
    | some l => evictLine s l
    | none => s

/-- A line that the image does not give: the team stops with the context-image cause, the passes that are done completed (R339). -/
def failLine (s : State) : State :=
  let t := s.team
  takeStop (setTeam s { t with lane := { t.lane with busy := false } }) (laneStop s 0x1B)

/-- Whether the head L-word of a team needs a register line now (R338): it is one of a register that the running word names, for a mask word
whose pass is left, and the word is not frozen in a handler (R332). -/
def needsLine (t : Team) (l : RegLine) : Bool :=
  match t.lane.queue with
  | [] => false
  | e :: _ => !t.sys.handler && (wordRegisters (runningWord t e.word)).contains l.v && (pendingWords t).contains l.w

/-- REGISTER_MISS_MICRO_TRAP (R338, R339): the missing line is moved from another partition of the core that holds it, or fetched, a line
making room; an image page that is not present or a reserved format byte stops the team with the context-image cause. A line that no word
needs is not fetched, and one that must wait at its home is waited for (R116). -/
def execRegisterMissMicroTrap (line : RegLine) (victim : Option RegLine) (s : State) : Out :=
  match teamOf s line.team with
  | none => .next s
  | some t =>
    let core := coreOf t
    let is (l : HeldLine) : Bool := l.core = core && l.team = line.team && l.v = line.v && l.w = line.w
    if t.place.run ≠ 1 || !clocked s core || t.card.v ≤ line.v || t.card.w ≤ line.w || !needsLine t line then .next s
    else match s.cores.lines.find? is with
      | some l =>
        if l.part = t.place.part then .next s
        else .next (setLines (roomForLine s core t.place.part victim) fun ls => ls.erase l ++ [{ l with part := t.place.part }])
      | none =>
        let s1 := roomForLine s core t.place.part victim
        if lineWaits s1 t line.v line.w then .next s else
        match (if linePresent s1 t line.v line.w then readLine s1 t line.v line.w else none) with
        | some vals =>
          let new : HeldLine := { core := core, part := t.place.part, team := line.team, v := line.v, w := line.w }
          .next (setLines (updTeam s1 line.team fun t => putLine t line.v line.w vals) (· ++ [new]))
        | none => .next (failLine (focus s1 line.team))

/-- HANDLER_ENTRY (R332, R360): the first stop noted for a team is delivered at its boundary. -/
def execHandlerEntry (team : Nat) (s : State) : Out :=
  match teamOf s team with
  | none => .next s
  | some t =>
    if t.place.run ≠ 1 || t.ord.leave.isSome || midWord s team || t.ord.stops.isEmpty then .next s
    else match boundary (focus s team) with
      | some s1 => .next s1
      | none => .next s

/-- HALTED_ENTRY (R342, R343): a team asked to halt stops with its crew at its stopping point. -/
def execHaltedEntry (team : Nat) (s : State) : Out :=
  match teamOf s team with
  | none => .next s
  | some t =>
    if t.place.run ≠ 1 || t.ord.leave.isSome || midWord s team || !t.ord.haltReq then .next s
    else match boundary (focus s team) with
      | some s1 => .next (settleKept s1)
      | none => .next s

/-- A stop taken by a team that is ending: it traps instead, and its `ret` runs again (R28). -/
def stopEnding (s : State) (st : Stop) : State :=
  takeStop (setTeam s { s.team with ord := { s.team.ord with ending := false } }) st

/-- The bindings of a team end as it ends (R98). -/
def endBindings (s : State) (t : Team) : State := t.ord.bindings.foldl (fun s b => dropStash s t b) s

/-- The end of a team whose other work is done (R28, R98): its bindings are written back, each write-back that meets a translation fault into
the store buffer (R350, R352), and its stores performed; then it retires. -/
def retireNow (s : State) (t : Team) : State :=
  let h := t.card.handle
  match t.ord.bindings.findSome? (stashFault s t) with
  | some c =>
    match roomFor s (whoOf s t) 1 with
    | .ok => holdStash s t c
    | .held => stopEnding s (scalarStop s 0x14 (heldVa s h))
    | .wait => drainTeam s h
  | none =>
    match flushTeam (endBindings s t) h with
    | .held s2 => stopEnding s2 (scalarStop s2 0x14 (heldVa s2 h))
    | .wait s2 => s2
    | .done s2 => retireTeam s2 h

/-- TEAM_RETIREMENT (R28, R98): once the team's lane queue is empty, its copies and tasks are complete and its stores are performed, it
retires; a deferred fault met in this wait traps instead. -/
def execTeamRetirement (team : Nat) (s : State) : Out :=
  match teamOf s team with
  | none => .next s
  | some t =>
    if t.place.run ≠ 1 || !t.ord.ending || t.ord.leave.isSome then .next s
    else
      let s1 := focus s team
      match t.ord.stops with
      | st :: rest =>
        if midWord s team then .next s
        else .next (stopEnding (setTeam s1 { s1.team with ord := { s1.team.ord with stops := rest } }) st)
      | [] =>
        if !t.lane.queue.isEmpty || s1.eng.copies.any (·.team = team) || s1.eng.tasks.any (·.team = team) then .next s
        else .next (retireNow s1 t)

/-- The state of a team by its image's header (R335). -/
def headerState (s : State) (dom va : Nat) : Nat := ((hwRead s dom 0 (va + 4) 1).headD 0).toNat

/-- Whether a handle names a team of a launch card (R377). -/
def Card.namesTeam (c : Card) (team : Nat) : Bool :=
  let ctx := field c.bytes 0x40 8
  let stride := field c.bytes 0x48 4
  decide (ctx ≤ team) && (if stride = 0 then ctx = team else (team - ctx) % stride = 0 && decide ((team - ctx) / stride < c.teams))

/-- Whether a launch of a job that would place a team has been cancelled or has failed (R378). -/
def launchGone (s : State) (job team : Nat) : Bool :=
  let ended (l : Option Level) : Bool := match l with
    | some x => decide (x.state ≠ 0) && decide (x.state ≠ 2)
    | none => false
  s.sched.cards.any fun c => c.kind = 0 && c.job = job && c.namesTeam team
    && (c.standing = 3 || ended (levelRec s c.level)
      || (c.standing = 0 && (ended (graphLevel s c.job c.graph) || ended (levelRec s c.job))))

/-- A tile-task node's record posted as the named team (R378). -/
def postNode (s : State) (n : NodeId) (team va : Nat) : State :=
  let was := s.team.card.handle
  let s1 := focus s team
  match postTask s1 va (some n) with
  | .ok s2 => focus s2 was
  | .error .later => s
  | .error (.gate x) => askGate s (focusWho s1) x
  | .error _ => nodeEnds s n false

/-- TILE_TASK_NODE_POSTING (R378): the started node's task is posted as the named team once it is resident, and waits while the team
is unplaced, saved or halted; the node fails when the team or its launch has ended. -/
def execTileTaskNodePosting (n : NodeId) (s : State) : Out :=
  match nodeCard s n with
  | none => .next s
  | some c =>
    match queueOf s c.id.queue with
    | none => .next s
    | some q =>
      let team := field c.bytes 0x40 8
      let w := hwWho (queueDom s q) 0
      let fails := nodeEnds s n false
      if c.kind ≠ 1 || c.standing ≠ 1 || s.eng.tasks.any (·.node = some n) then .next s
      else match (teamOf s team).filter fun t => 1 ≤ t.place.run && t.place.run ≤ 3 with
        | some t =>
          if t.card.job ≠ c.job || launchStopped s t then .next fails
          else if t.place.run = 1 then .next (postNode s n team (field c.bytes 0x38 8))
          else .next s
        | none =>
          if gateWaits s w (team + 4) 1 then .next (askGate s w (team + 4))
          else if 4 ≤ headerState s (queueDom s q) team || launchGone s c.job team then .next fails else .next s

end Sys2Proof.Machine
end

