-- ==== Sys2Proof/Machine/Commands.lean ====
section
/-! DEFINITION. Tramontane's commands, each with its refusals in the order of R448: queues (R371, R390), address spaces and pages
(R344 to R351), halted teams (R343), domains (R334), links (R412, R414), groups (R413), bias (R422, R423) and far memory (R419). -/

namespace Sys2Proof.Machine

/-- A new queue's record, with the job that it makes (R371); software's words of the control block are left as they are. -/
def createQueue (s : State) (q : Queue) (counter total : Nat) : State :=
  let r := newLevel s 3 0 0 total counter q.asid
  let s1 := r.2
  let queues := s1.sched.queues.filter (·.id ≠ q.id) ++ [{ q with job := r.1 }]
  let cards := s1.sched.cards.filter (·.id.queue ≠ q.id)
  putQueue { s1 with sched := { s1.sched with queues := queues, cards := cards } } { q with job := r.1 }

/-- QUEUE_CREATE (R371, R380, R448). -/
def execQueueCreate (id : CardId) (s : State) : Out :=
  runCommand s id 0x01 false fun s c _ =>
    let cl := c.arg 0x48 1
    let k := c.arg 0x4C 1
    let asid := c.arg 0x4E 2
    let qid : QueueId := { cluster := cl, index := c.arg 0x4A 2 }
    let taken : Bool := match queueOf s qid with
      | some q => q.status ≠ 3
      | none => false
    refuseIf (1 < c.arg 0x49 1 || k = 0 || 16 < k || c.arg 0x50 8 % 256 ≠ 0 || c.arg 0x58 8 % 8 ≠ 0 || (clusterRec s cl).lost) 2 <|
    refuseIf ((asidDomain s asid).isNone || taken) 6 <|
    refuseIf (asidDomain s asid ≠ some (clusterRec s cl).domain) 7 <|
    .done (createQueue s {
      id := qid, kind := c.arg 0x49 1, openPost := bit (c.arg 0x4D 1) 0, job := 0, asid := asid, prio := c.arg 0x64 1
      ring := c.arg 0x50 8, k := k } (c.arg 0x58 8) (c.arg 0x60 4))

/-- The queue that a command names (R448): code 6 when it was never created or is destroyed, code 7 for the device queue. -/
def onQueue (s : State) (c : Card) (run : Queue → Ran) : Ran :=
  match queueOf s { cluster := c.arg 0x48 1, index := c.arg 0x4A 2 } with
  | none => .refused 6
  | some q => refuseIf (q.status = 3) 6 (refuseIf (q.kind = 2) 7 (run q))

/-- A queue sealed (R390): sealat takes reserve as it is, and status is 1; a sealed queue stays as it is. -/
def sealQueue (s : State) (q : Queue) : State :=
  if q.sealat.isSome then s
  else putQueue s { q with sealat := some (field (hwRead s (queueDom s q) q.asid q.ring 8) 0 8), status := 1 }

/-- A command that reads some bytes waits for them at their home (R116, R420, R422, R423). -/
def afterGates (s : State) (q : Queue) (va n : Nat) (run : Ran) : Ran :=
  if gateWaits s (queueWho s q) va n then .later (askGates s (queueWho s q) va n) else run

/-- QUEUE_SEAL (R390, R448). -/
def execQueueSeal (id : CardId) (s : State) : Out :=
  runCommand s id 0x02 false fun s c _ => onQueue s c fun q => afterGates s q q.ring 8 (.done (sealQueue s q))

/-- A queue to be destroyed (R390): sealed, and its job cancelled with option 1. -/
def destroyQueue (s : State) (q : Queue) (cancels : Bool) : State :=
  let s1 := sealQueue s q
  match queueOf s1 q.id with
  | none => s1
  | some q1 =>
    let s2 := setQueue s1 { q1 with dropping := true }
    if cancels then settleLevels (sweepSaved (cancelLevel s2 q1.job)) else s2

/-- QUEUE_DESTROY (R390, R448); QUEUE_DESTROY_COMPLETE ends it. -/
def execQueueDestroy (id : CardId) (s : State) : Out :=
  runCommand s id 0x03 false fun s c _ =>
    refuseIf (1 < c.arg 0x4C 1) 2 (onQueue s c fun q => afterGates s q q.ring 8 (.done (destroyQueue s q (c.arg 0x4C 1 = 1))))

/-- QUEUE_RESTART (R375, R448): a queue stopped by a fetch fetches again. -/
def execQueueRestart (id : CardId) (s : State) : Out :=
  runCommand s id 0x04 false fun s c _ => onQueue s c fun q =>
    .done (if q.status = 2 then putQueue s { q with status := if q.sealat.isSome then 1 else 0 } else s)

/-- ASID_CREATE (R345, R448): which cluster of the domain is the table controller is a free choice (assumption log 3). -/
def execAsidCreate (id : CardId) (s : State) : Out :=
  runCommand s id 0x05 false fun s c _ =>
    let asid := c.arg 0x48 2
    let dom := c.arg 0x4A 1
    let cs := clustersOf s dom
    refuseIf cs.isEmpty 2 <|
    refuseIf (asidExists s asid) 6 <|
    .done { s with xl := { s.xl with
      asids := s.xl.asids ++ [(asid, dom, cs.getD (Config.freePick (draw s 0) % cs.length) 0)] } }

/-- Code 1 of region-set (R344, R448): a reserved field or kind, or a field that this address space or kind holds zero. -/
def entryReserved (asid e : Nat) : Bool :=
  2 ^ 36 ≤ e || bit e 15 || 4 < eKind e || (asid ≠ 0 && (eSup e || eGdom e ≠ 0)) || (eKind e ≠ 2 && eGroup e ≠ 0)

/-- Code 2 of region-set (R448, R344): the aperture's region, a gdom without a live cluster, or a home that is lost or outside the
domain; of an entry that is not valid too. -/
def entryMisplaced (s : State) (asid rn e : Nat) : Bool :=
  let cs := clustersOf s (regionDom s asid e)
  rn = Config.apertureRegion || (asid = 0 && cs.isEmpty)
    || (!eInter e && ((clusterRec s (eHome e)).lost || (asidExists s asid && !cs.contains (eHome e))))

/-- Whether an entry would give a page of its region that is present another home (R346, R348); an absent region has no home. -/
def homesMove (s : State) (asid rn e : Nat) : Bool :=
  eValid e && s.xl.pages.any fun p => p.asid = asid && regionNo (p.vpage * 65536) = rn
    && (p.gidx.isSome ≠ eInter e || p.ctrl ≠ homeOf s asid e (p.vpage * 65536 + 4096 * p.gidx.getD 0))

/-- Code 7 of region-set (R85, R348, R89, R346). -/
def entryForbidden (s : State) (asid rn e : Nat) : Bool :=
  let windows := (windowRegions s).filter (· ≠ regionKey asid rn)
  (bit e 2 && (bit e 3 || bit e 4)) || ((bit e 3 || bit e 4) && eKind e ≠ 0)
    || (eInter e && !([16, 32, 64] : List Nat).contains (homeOf.clustersIn s (regionDom s asid e)).length)
    || (eValid e && eKind e = 1 && 24 ≤ windows.length)
    || homesMove s asid rn e

/-- A region's entry written, and the invalidation that the command asks for (R346, R347): it is complete once every access checked against
the region has come to its end. -/
def regionRan (s : State) (asid rn e : Nat) (deferred : Bool) : Ran :=
  let key := regionKey asid rn
  let dom := match s.xl.leaving.find? fun x => x.1 = key with
    | some x => x.2
    | none => regionDom s asid (sget 0 s.xl.regions key).toNat
  let rest := s.xl.leaving.filter fun x => x.1 ≠ key
  match setRegion s asid rn (BitVec.ofNat 64 e) deferred with
  | none => .refused 7
  | some s1 =>
    if deferred then .done { s1 with xl := { s1.xl with leaving := rest } }
    else
      let s2 := finishChecked s1 dom (rn * 2 ^ 21) asid
      if checkedLeft s2 dom (rn * 2 ^ 21) asid then .later { s2 with xl := { s2.xl with leaving := rest ++ [(key, dom)] } }
      else .done { s2 with xl := { s2.xl with leaving := rest } }

/-- REGION_SET (R344, R346, R347, R448). -/
def execRegionSet (id : CardId) (s : State) : Out :=
  runCommand s id 0x06 false fun s c _ =>
    let asid := c.arg 0x48 2
    let rn := c.arg 0x50 8
    let e := c.arg 0x58 8
    refuseIf (entryReserved asid e) 1 <|
    refuseIf (entryMisplaced s asid rn e) 2 <|
    refuseIf (!asidExists s asid) 6 <|
    refuseIf (entryForbidden s asid rn e) 7 <|
    regionRan s asid rn e (bit (c.arg 0x4A 1) 0)

/-- The entry of the region of a VA, 0 for a VA that has none. -/
def entryAt (s : State) (asid va : Nat) : Nat := if 2 ^ 56 ≤ va then 0 else tableEntry s asid va

/-- PAGE_MAP (R349, R351, R448). -/
def execPageMap (id : CardId) (s : State) : Out :=
  runCommand s id 0x07 false fun s c _ =>
    let asid := c.arg 0x48 2
    let va := c.arg 0x50 8
    let frame := c.arg 0x58 8
    let biased := bit (c.arg 0x4A 1) 0
    let named : Bool := frame ≠ 2 ^ 64 - 1
    let e := entryAt s asid va
    refuseIf (named && (frame % 16 ≠ 0 || 2 ^ 23 ≤ frame || (eValid e && eInter e))) 2 <|
    refuseIf (!asidExists s asid || pagePresent s asid va || (named && eValid e && !framesFree s (homeOf s asid e va) frame 16)) 6 <|
    refuseIf (!eValid e || eKind e = 1 || eKind e = 2 || (biased && eKind e ≠ 4)) 7 <|
    match mapPage s asid va (if named then some frame else none) biased 0 with
    | some s1 => .done s1
    | none => .refused 7

/-- PAGE_UNMAP (R351, R448): its recall waits for a sector of the page that is release-pending (R116). -/
def execPageUnmap (id : CardId) (s : State) : Out :=
  runCommand s id 0x08 false fun s c _ =>
    let asid := c.arg 0x48 2
    let va := c.arg 0x50 8
    let e := entryAt s asid va
    refuseIf (!asidExists s asid) 6 <|
    refuseIf (!pagePresent s asid va || (eValid e && (eKind e = 1 || (eKind e = 2 && groupBound s (eGroup e))))) 7 <|
    if markedPage s asid (va / 65536) then .later s else .done (unmapPage s asid (va / 65536))

/-- A page table entry (R349); the frame of a far page's entry is a free value (R419; assumption log 3). -/
def pageWord (s : State) (p : PageEntry) : Nat :=
  2 ^ 63 + b2n p.dirty * 2 ^ 62 + b2n p.biased * 2 ^ 61 + b2n p.gidx.isSome * 2 ^ 60 + p.gdom % 8 * 2 ^ 56
    + (if p.far.isSome then Config.freePick (draw s 0) else p.frame) % 2 ^ 23

/-- PAGE_QUERY (R349, R381, R448): the entry after the result word, and the dirty bit cleared when asked. -/
def execPageQuery (id : CardId) (s : State) : Out :=
  runCommand s id 0x09 false fun s c q =>
    let asid := c.arg 0x48 2
    let put (s : State) (x : Nat) : State :=
      if cmdWritable s q (c.resultVa + 8) then hwWrite s (queueDom s q) q.asid (c.resultVa + 8) (toBytes 8 x) else s
    refuseIf (!asidExists s asid) 6 <|
    match pageOf s asid (c.arg 0x50 8) with
    | none => .done (put s 0)
    | some p =>
      let pages := if bit (c.arg 0x4A 1) 0 then s.xl.pages.map fun x => if x = p then { x with dirty := false } else x else s.xl.pages
      .done (put { s with xl := { s.xl with pages := pages } } (pageWord s p))

/-- One halted team read back from its image, with a recorded trap about to enter the handler (R340, R341, R361, R366): it is saved then, after
the teams that were saved before it (R386). One whose level is cancelled already stops at its next cancellation point only (R38). -/
def wakeOne (s : State) (h : Nat) : State :=
  match teamOf s h with
  | none => s
  | some t =>
    let t1 := readImage s t
    let t2 := if t1.place.halt.getLsbD 8 then enterHandler t1 t1.place.halt t1.place.srec else t1
    let s1 := updTeam (readPositions s t) h fun _ => { t2 with
      place := { t2.place with run := 2, savedAt := s.fresh, spared := cancelling s t2 } }
    writeHeaderState s1 t2 2

/-- A halted team that cannot be read back halts again with the context-image cause (R339) and its stop record, which names the team's PC and
no word (R362; assumption log 103); where no slot is free the record is kept and the cause is that of a full fault area (R354). Its image is
left as software wrote it. -/
def haltAgain (s : State) (h : Nat) : State :=
  match teamOf s h with
  | none => s
  | some t =>
    let bs := stopBytes { cause := 0x1B, va := h, iva := t.pc.toNat } 0x1B 0
    let cause := stopWord (if (freeSlots s t 1).isSome then 0x1B else 0x1C) 0 0 true false
    let s1 := match freeSlots s t 1 with
      | some k => putSlots s t k bs
      | none => setKept s h (t.ord.kept ++ [bs])
    let s2 := updTeam s1 h fun t => { t with place := { t.place with halt := cause } }
    match teamOf s2 h with
    | some t => reportHalt (teamWrite s2 t (h + 0x18) (toBytes 8 cause.toNat)) t
    | none => s2

/-- TEAM_RESUME (R343, R386, R448): the whole halted crew leaves HALTED and waits, saved, for its cores as pre-empted teams do; a crew
of which an image page is not present halts again with the context-image cause (R339), and what must wait at its home is waited for (R116). -/
def execTeamResume (id : CardId) (s : State) : Out :=
  runCommand s id 0x0A false fun s c _ =>
    let h := c.arg 0x50 8
    refuseIf ((teamOf s h).isNone && !s.sched.ended.contains h) 6 <|
    match teamOf s h with
    | none => .refused 7
    | some t =>
      refuseIf (t.place.run ≠ 3) 7 <|
      let crew := (crewOf s t).filter fun x => ((teamOf s x).map (·.place.run)) = some 3
      match crew.find? fun x => !present s (hwWho (teamDomain s t) 0) x 0x13000 with
      | some x => .done (haltAgain s x)
      | none =>
        if crew.any fun x => gateWaits s (hwWho (teamDomain s t) 0 x) x 0x13000 then
          .later (crew.foldl (fun s x => askGates s (hwWho (teamDomain s t) 0 x) x 0x13000) s)
        else .done (settleKept (crew.foldl wakeOne s))

/-- Whether a cluster holds a placed, saved or halted team, or accepted engine work (R334, R448). -/
def clusterBusy (s : State) (cl : Nat) : Bool :=
  (liveTeams s).any (·.place.cluster = cl) || s.eng.tasks.any (·.core / 16 = cl) || s.eng.copies.any (·.cluster = cl)
    || s.eng.colls.any (·.cluster = cl)

/-- DOMAIN_ASSIGN (R334, R448): it waits until every cluster that it names is drained. -/
def execDomainAssign (id : CardId) (s : State) : Out :=
  runCommand s id 0x0B false fun s c _ =>
    let cs := (List.range 64).filter (bit (c.arg 0x50 8) ·)
    refuseIf (cs.any fun k => (clusterRec s k).lost) 2 <|
    if cs.any (clusterBusy s) then .later s
    else .done (cs.foldl (fun s k => setCluster s k { clusterRec s k with domain := c.arg 0x48 1 }) s)

/-- A port under a new role (R402, R406): a port that changes its role trains, one that is off carries nothing. -/
def rolePort (roles : Nat) (s : State) (n : Nat) : State :=
  let r := bits roles (2 * n) 2
  if (portRec s n).role = r then s else setPort s n { role := r, training := decide (r ≠ 0) }

/-- LINK_CONFIGURE (R402, R404, R405, R412, R448): an adapter stays bound to a port only while the port is a host port. -/
def execLinkConfigure (id : CardId) (s : State) : Out :=
  runCommand s id 0x20 true fun s c q =>
    let roles := c.arg 0x4C 4
    let role (n : Nat) : Nat := bits roles (2 * n) 2
    refuseIf (s.link.groups.any (·.state ≠ 2)) 8 <|
    refuseIf ((List.range 16).any (role · = 3) || 4 < ((List.range 16).filter (role · = 2)).length) 2 <|
    refuseIf (!cmdReadable s q (c.arg 0x50 8) 8192) 7 <|
    afterGates s q (c.arg 0x50 8) 8192 <|
    let s1 := (List.range 16).foldl (rolePort roles) s
    .done { s1 with
      link := { s1.link with moduleId := c.arg 0x48 2, routes := routesOf (cmdRead s q (c.arg 0x50 8) 8192) }
      hostp := { s1.hostp with adapters := s1.hostp.adapters.filter fun a => role a.1 = 2 } }

/-- TOPOLOGY_CHANGE (R414, R448): step 1; later steps end it. -/
def execTopologyChange (id : CardId) (s : State) : Out :=
  runCommand s id 0x21 true fun s c q =>
    let n := c.arg 0x48 2
    refuseIf (n = 0 || 4096 < n) 2 <|
    refuseIf (!cmdReadable s q (c.arg 0x50 8) n || !cmdReadable s q (c.arg 0x58 8) 8192) 7 <|
    afterGates s q (c.arg 0x50 8) n <|
    afterGates s q (c.arg 0x58 8) 8192 <|
    .later { s with link := { s.link with
      state := 1
      change := some {
        step := 1, limit := c.arg 0x4C 4, card := id, msg := cmdRead s q (c.arg 0x50 8) n
        table := cmdRead s q (c.arg 0x58 8) 8192 } } }

/-- The 2 MiB regions of a group's window. -/
def windowStarts (d : List Byte) : List Nat := (List.range (field d 0x18 8 / 2 ^ 21)).map fun i => field d 0x10 8 + i * 2 ^ 21

/-- Code 2 of group-bind (R448), and a window that is not of whole regions (R413). -/
def groupMisformed (d : List Byte) : Bool :=
  field d 2 2 = 0 || 1024 < field d 2 2 || field d 4 2 = 0 || 1024 < field d 4 2 || 16 < field d 0x2A 2
    || field d 0x10 8 % 2 ^ 21 ≠ 0 || field d 0x18 8 % 2 ^ 21 ≠ 0 || 2 ^ 56 < field d 0x10 8 + field d 0x18 8

/-- What the hash of a binding covers (R413): the fields 0x00 to 0x27 of the descriptor, and the contents of the rank map. -/
def bindingBytes (d ranks : List Byte) : List Byte := fit 40 d ++ fit (2 * field d 2 2) ranks

/-- The group of a descriptor, its rank map and its local list, waiting for the announcement (R413). -/
def groupOfDesc (d ranks locals : List Byte) (id : CardId) : Group where
  number := field d 0 2
  state := 2
  asid := field d 8 2 % 2 ^ 14
  window := field d 0x10 8
  wlen := field d 0x18 8
  root := field d 6 2
  parent := field d 0x28 2
  children := (List.range (field d 0x2A 2)).map fun k => field d (0x30 + 2 * k) 2
  members := field d 4 2
  rankmap := (List.range (field d 2 2)).map fun k => field ranks (2 * k) 2
  locals := (List.range (field d 0x58 2)).map fun k =>
    (field locals (16 * k) 2, field locals (16 * k + 2) 2, field locals (16 * k + 8) 8)
  card := some id
  hash := Config.bindingHash (bindingBytes d ranks)

/-- Whether a number has a group that is bound and not in error, or one that waits to be bound (R448). -/
def groupTaken (s : State) (g : Nat) : Bool := s.link.groups.any fun r => r.number = g && r.state ≠ 1

/-- GROUP_BIND (R413, R448): checked here, and then the announcement is awaited. -/
def execGroupBind (id : CardId) (s : State) : Out :=
  runCommand s id 0x22 true fun s c q =>
    let va := c.arg 0x50 8
    let d := cmdRead s q va 128
    let ranks := (field d 0x20 8, 2 * field d 2 2)
    let locals := (field d 0x50 8, 16 * field d 0x58 2)
    let own (x : Nat) : Bool :=
      let e := tableEntry s (tagOf (field d 8 2 % 2 ^ 14) x) x
      eValid e && eKind e = 2 && eGroup e = field d 0 2
    refuseIf (!cmdReadable s q va 128) 7 <|
    afterGates s q va 128 <|
    refuseIf (groupMisformed d) 2 <|
    refuseIf (groupTaken s (field d 0 2)) 6 <|
    refuseIf (!(windowStarts d).all own) 7 <|
    refuseIf (!cmdReadable s q ranks.1 ranks.2 || !cmdReadable s q locals.1 locals.2) 7 <|
    afterGates s q ranks.1 ranks.2 <|
    afterGates s q locals.1 locals.2 <|
    .later { s with link := { s.link with
      groups := s.link.groups ++ [groupOfDesc d (cmdRead s q ranks.1 ranks.2) (cmdRead s q locals.1 locals.2) id] } }

/-- GROUP_DISSOLVE (R413, R448): the announcement ends it, and with it any other that waits for the group to be unbound. -/
def execGroupDissolve (id : CardId) (s : State) : Out :=
  runCommand s id 0x23 true fun s c _ =>
    match groupOf s (c.arg 0x48 2) with
    | none => .refused 6
    | some r => .later (setGroup s (if r.card.isSome then { r with also := r.also ++ [id] } else { r with card := some id }))

/-- The result of a command that waited, written now. -/
def endHeld (s : State) (card : Option CardId) (code : Nat) : State :=
  match card.bind (cardOf s) with
  | some c => cmdDone s c code
  | none => s

/-- The results of the group-dissolve commands that wait for a group to be unbound, written now. -/
def endDissolves (s : State) (r : Group) : State := r.also.foldl (fun s id => endHeld s (some id) 0) (endHeld s r.card 0)

/-- The teams that wait for an atomic of an old binding that has not been applied stop with the group-error cause (R295). -/
def dropWaiters (s : State) (old : Group) : State :=
  let under (a : GroupAtom) : Bool := a.group = old.number && a.value.isNone
  (s.team :: s.others).foldl (fun s t =>
    if t.ord.atoms.any under then
      noteStop (updTeam s t.card.handle fun t => { t with
        ord := { t.ord with atoms := t.ord.atoms.filter (!under ·) }, lane := { t.lane with busy := false } }) t.card.handle
        { cause := 0x12, iva := t.pc.toNat, detail := old.number }
    else s) s

/-- The copies and collectives whose requests a group's record holds when it goes never have them performed (R291, R295). -/
def loseTags (s : State) (old : Group) : State :=
  let tags := (old.waiting.map (·.team) ++ old.unapplied.map (·.2)).filter fun x => 2 ^ 64 ≤ x
  { s with eng := { s.eng with lost := s.eng.lost ++ tags.eraseDups } }

/-- 4 KiB of a page made zero, in DRAM or by write-backs behind an adapter (R324, R419). -/
def clearGranule (s : State) (p : PageEntry) (va : Nat) : State :=
  match pagePlace p va with
  | .dram x => { s with mem := clearBytes s.mem x 4096 }
  | .far a x =>
    let s1 := { s with hostp := { s.hostp with far := clearBytes s.hostp.far (farKey a x) 4096 } }
    (List.range 64).foldl (fun s i => farWrite s a (x + 64 * i)) s1
  | .absent => s

/-- Every byte of a group's window is 0 at binding (R324). -/
def clearWindow (s : State) (r : Group) : State :=
  let tag := tagOf r.asid r.window
  (List.range (r.wlen / 4096)).foldl (fun s i =>
    match pageOf s tag (r.window + 4096 * i) with
    | some p => clearGranule s p (r.window + 4096 * i)
    | none => s) s

/-- The group's records but those bound or in error. -/
def withoutGroup (s : State) (g : Nat) (bound : Bool) : State :=
  { s with link := { s.link with groups := s.link.groups.filter fun r => !(r.number = g && (decide (r.state ≠ 2) = bound)) } }

/-- A binding announced (R413): the new group takes the place of one in error, its stamps and issue counts start afresh, and every
page of its window is mapped and zero (R294, R324). -/
def bindGroup (s : State) (r : Group) : State :=
  let g := r.number
  let old := groupOf s g
  let s0 := match old with
    | some o => loseTags (dropWaiters s o) o
    | none => s
  let ends (s : State) : State := match old with
    | some o => endDissolves s o
    | none => s
  let vas := (List.range (r.wlen / 65536)).map fun i => r.window + i * 65536
  match mapAll s0 (tagOf r.asid r.window) vas with
  | some s1 =>
    let s2 := withoutGroup (withoutGroup s1 g true) g false
    let s3 := { s2 with link := { s2.link with groups := s2.link.groups ++ [{ r with state := 0, card := none }] } }
    endHeld (ends (clearWindow s3 r)) r.card 0
  | none => endHeld (withoutGroup s g false) r.card 7

/-- Whether an unbinding may be announced here (R413, R411): this module's requests have all been applied, and at the root every stamp
given has been applied at every reachable member; a group in error waits only for its stamps. -/
def mayUnbind (s : State) (r : Group) : Bool :=
  (r.state = 1 || (r.waiting.isEmpty && r.outstanding.isEmpty && r.unapplied.isEmpty))
    && (r.root ≠ s.link.moduleId || caughtUp s r (r.nextStamp - 1))

/-- The hash that a waiting member sends up the tree (R413): its own when every child has sent the same, none within where one of them differs,
and nothing while one is still to come. -/
def hashUp (s : State) (r : Group) : Option (Option (List Byte)) :=
  let come := r.children.map fun m => s.link.hashesIn.find? fun h => h.group = r.number && h.module = m
  if come.any (·.isNone) then none
  else some (if come.all (fun h => h.bind (·.hash) = some r.hash) then some r.hash else none)

/-- The hashes of a group's binding forgotten, as it is bound or refused. -/
def dropHashes (s : State) (g : Nat) : State :=
  { s with link := { s.link with
      hashesIn := s.link.hashesIn.filter (·.group ≠ g), hashesOut := s.link.hashesOut.filter (·.group ≠ g) } }

/-- A waiting group as the announcement comes to its turn (R413): a member below the root sends its hash up once, and then does as the root
announces; the root announces the binding where every hash agrees with its own, and the refusal with code 5 where one does not. -/
def announceWaiting (s : State) (r : Group) (bind : Bool) : State :=
  let told := r.children.foldl (fun s m => transmit s m (.announce r.number bind)) (dropHashes s r.number)
  let ends : State := if bind then bindGroup told r else endHeld (withoutGroup told r.number false) r.card 5
  match hashUp s r with
  | none => s
  | some up =>
    if r.root = s.link.moduleId then (if bind = up.isSome then ends else s)
    else if !s.link.hashesOut.any fun h => h.group = r.number then
      let h : BindingHash := { group := r.number, module := r.parent, hash := up }
      transmit { s with link := { s.link with hashesOut := s.link.hashesOut ++ [h] } } r.parent (.hash h)
    else if bind && up.isNone then s else ends

/-- BINDING_ANNOUNCEMENT (R413): a group that waits is bound, or is refused with code 5 where the members' hashes disagree, which the one
member of a group cannot; a bound group whose dissolving waits is unbound. One that no command here waits for brings the word that the group
is in error at another member (R295; assumption log 88). -/
def execBindingAnnouncement (group : Nat) (bind : Bool) (s : State) : Out :=
  match s.link.groups.find? fun r => r.number = group && r.state = 2 with
  | some r => .next (announceWaiting s r bind)
  | none =>
    match groupOf s group with
    | none => .next s
    | some r =>
      if bind then .next s
      else if r.card.isNone then .next (if r.members = 1 then s else groupError s group)
      else if !mayUnbind s r then .next s
      else
        let told := r.children.foldl (fun s m => transmit s m (.announce group false)) s
        .next (endDissolves (withoutGroup (loseTags told r) group true) r)

/-- The granule of a DPA page and VA, and its bias now. -/
def granuleAt (p : PageEntry) (va : Nat) : Nat := dpaOf p va / 4096

/-- A flip to host bias begun (R422): every line of the granule is recalled, and with no write-back in flight the flip ends at once (R429). -/
def flipToHost (s : State) (tag va : Nat) (f : Flip) : State :=
  let s1 := (List.range 64).foldl (fun s i => recallSector s tag (va + 64 * i)) s
  let s2 := { s1 with hostp := { s1.hostp with flips := s1.hostp.flips ++ [f] } }
  if granuleBusy s2 f.granule then s2 else endFlip s2 f

/-- A flip to device bias begun (R423): BISnpInvBlk of the granule to every adapter, and with none the flip ends at once. -/
def flipToDevice (s : State) (f : Flip) : State :=
  let s1 := askHosts { s with hostp := { s.hostp with flips := s.hostp.flips ++ [f] } } true f.granule f.waiting
  if f.waiting.isEmpty then endFlip s1 f else s1

/-- BIAS_SET (R422, R423, R448): a bias already in force is done at once; a flip of the granule in progress is waited for, and a
release-pending sector of it (R116). It is no link or group command, and the link's state does not refuse it (R412). -/
def execBiasSet (id : CardId) (s : State) : Out :=
  runCommand s id 0x24 false fun s c _ =>
    let asid := c.arg 0x48 2
    let va := c.arg 0x50 8
    let toHost : Bool := c.arg 0x4A 1 = 1
    refuseIf (1 < c.arg 0x4A 1) 1 <|
    refuseIf (va % 4096 ≠ 0) 2 <|
    refuseIf (!asidExists s asid) 6 <|
    match pageOf s asid va with
    | none => .refused 7
    | some p =>
      let g := granuleAt p va
      refuseIf (!p.biased) 7 <|
      if s.hostp.flips.any (·.granule = g) || s.sb.any (fun e => e.marked && e.asid = asid && e.sector / 4096 = va / 4096) then .later s
      else if s.xl.hostBias.contains g = toHost then .done s
      else if toHost then .later (flipToHost s asid va { granule := g, toHost := true, card := id, waiting := [] })
      else .later (flipToDevice s { granule := g, toHost := false, card := id, waiting := (s.hostp.adapters.map (·.2)).eraseDups })

/-- FAR_MAP (R419, R448): pool memory is a place of its own beside the host memory of the same adapter. -/
def execFarMap (id : CardId) (s : State) : Out :=
  runCommand s id 0x25 false fun s c _ =>
    let asid := c.arg 0x48 2
    let adapter := c.arg 0x4A 1
    let target := c.arg 0x4B 1
    let pool := c.arg 0x4C 2
    let va := c.arg 0x50 8
    let addr := c.arg 0x58 8
    let e := entryAt s asid va
    refuseIf (3 < adapter || 1 < target || addr % 65536 ≠ 0) 2 <|
    refuseIf (!asidExists s asid || pagePresent s asid va) 6 <|
    refuseIf (!eValid e || (eKind e ≠ 0 && eKind e ≠ 4) || !attached s adapter) 7 <|
    .done (farPages s asid va e (adapter + (if target = 1 then 4 + 8 * pool else 0), addr, target, pool))
where
  /-- The far entry of a page at its home, and at each of sixteen in an interleaved region. -/
  farPages (s : State) (asid va e : Nat) (far : Nat × Nat × Nat × Nat) : State :=
    let gdom := if asid = 0 then eGdom e else 0
    let page (v : Nat) (g : Option Nat) : PageEntry := {
      ctrl := homeOf s asid e v, asid := asid, vpage := va / 65536, gidx := g, gdom := gdom, far := some far }
    if eInter e then (List.range 16).foldl (fun s g => addPage s (page (va / 65536 * 65536 + 4096 * g) (some g))) s
    else addPage s (page va none)

/-- ADAPTER_ATTACH (R402, R416, R448): a host port joins one adapter. -/
def execAdapterAttach (id : CardId) (s : State) : Out :=
  runCommand s id 0x26 false fun s c _ =>
    let port := c.arg 0x48 1
    let adapter := c.arg 0x49 1
    refuseIf (15 < port || 3 < adapter) 2 <|
    refuseIf (s.hostp.adapters.any fun a => a.2 = adapter && a.1 ≠ port) 6 <|
    refuseIf ((portRec s port).role ≠ 2) 7 <|
    .done { s with hostp := { s.hostp with adapters := s.hostp.adapters.filter (fun a => a.2 ≠ adapter && a.1 ≠ port) ++ [(port, adapter)] } }

end Sys2Proof.Machine
end

