-- ==== Sys2Proof/Machine/Control.lean ====
section
/-! DEFINITION. Branches, calls and returns (R139, R173), the cancellation point of a backward branch (R39, R174), and the end
of a team (R28). -/

namespace Sys2Proof.Machine

/-- A taken branch, from the word's own state to the one past it: a backward one is a cancellation point (R39, R174), which waits for an L-word
that has begun. -/
def branchPast (s s1 : State) (back : Bool) : Out :=
  .next (if !back then s1 else if cancelled s && midWord s s.team.card.handle then s else cancelPoint s1)

/-- A taken branch by an offset in words, after a change to the registers: a negative offset is backward (R139, R174). -/
def branchBy (s : State) (off : Int) (link : State → State) : Out :=
  branchPast s (setPc (link s) (s.team.pc + BitVec.ofInt 64 (off * 4))) (decide (off < 0))

/-- The trap of a target in a register (R173). -/
def targetTrap (target : Word) : Option Nat :=
  if 2 ^ 56 ≤ target.toNat then some 0x04 else if target.toNat % 4 ≠ 0 then some 0x07 else none

/-- The VA of the next S-word written to s95 (R139). -/
def linkReg (s : State) : State := writeReg s 95 (s.team.pc + 4)

/-- A jump to a target in a register, after a change that is made only when the target is good (R173): one below the word's own VA is
backward (R174). -/
def jumpTo (s : State) (target : Word) (link : State → State) : Out :=
  match targetTrap target with
  | some c => .next (takeStop s (scalarStop s c target.toNat))
  | none => branchPast s (setPc (link s) target) (decide (target.toNat < s.team.pc.toNat))

/-- B (R173). -/
def execB (off : BitVec 26) (s : State) : Out := branchBy s off.toInt id

/-- CALL (R173). -/
def execCall (off : BitVec 26) (s : State) : Out := branchBy s off.toInt linkReg

/-- The condition of `bc` on a value read as .s64 (R173). -/
def condHolds (cond : BitVec 3) (x : Word) : Bool :=
  match cond.toNat with
  | 0 => x = 0
  | 1 => x ≠ 0
  | 2 => decide (x.toInt < 0)
  | 3 => decide (0 ≤ x.toInt)
  | 4 => decide (0 < x.toInt)
  | _ => decide (x.toInt ≤ 0)

/-- BC (R173). -/
def execBc (cond : BitVec 3) (a : SReg) (off : BitVec 16) (s : State) : Out :=
  if condHolds cond (readReg s a) then branchBy s off.toInt id else .next (advance s)

/-- JR (R173). -/
def execJr (a : SReg) (s : State) : Out := jumpTo s (readReg s a) id

/-- CALLR (R161, R173). -/
def execCallr (a : SReg) (s : State) : Out := jumpTo s (readReg s a) linkReg

/-- The batch that is open once a team is ending (R181): an open batch that holds a copy is closed. -/
def endingBatch (s : State) : Nat :=
  let t := s.team
  t.ord.batch + b2n (s.eng.copies.any fun c => c.team = t.card.handle && c.batch = t.ord.batch)

/-- RET (R173): with s95 zero the team ends (R28). -/
def execRet (s : State) : Out :=
  if readReg s 95 = 0 then .next (setTeam s { s.team with ord := { s.team.ord with ending := true, batch := endingBatch s } })
  else jumpTo s (readReg s 95) id

end Sys2Proof.Machine
end

