-- ==== Sys2Proof/Machine/Operands.lean ====
section
/-! DEFINITION. Operand forms of the L-words: participation and guards (R22, R144, R199), reading operands (R47, R48, R50, R200),
and writing results to vector registers, predicates and scalar registers (R47, R49). -/

namespace Sys2Proof.Machine

/-- The lanes of the widest team. -/
def allLanes : Lanes := BitVec.allOnes 1024

/-- A predicate register's lane set; p15 reads 1 (R45). -/
def predSet (t : Team) (k : Nat) : Lanes := if k = 15 then allLanes else sget 0 t.regs.p k

/-- The lanes for which a guard passes (R144): bit 4 negates. -/
def guardSet (t : Team) (g : BitVec 5) : Lanes :=
  if g.toNat / 16 = 1 then ~~~ predSet t (g.toNat % 16) else predSet t (g.toNat % 16)

/-- The active mask of the passes of the running L-word that are not left out (R22, R257, R338). -/
def activeMask (t : Team) : Lanes := wholeMask t &&& ~~~ wordLanes t.lane.skip

/-- The lanes that take part in an L-word: active, with both guards passing (R22, R199). -/
def takers (t : Team) (f : LaneFields) : Lanes := activeMask t &&& guardSet t f.g1 &&& guardSet t f.g2

/-- The lanes of a team (R20). -/
def teamLanes (t : Team) : Nat := 32 * t.card.w

/-- The lanes of a set in ascending order. -/
def laneList (t : Team) (m : Lanes) : List Nat := (List.range (teamLanes t)).filter fun l => m.getLsbD l

/-- The lanes that take part, in ascending order. -/
def takerList (t : Team) (f : LaneFields) : List Nat := laneList t (takers t f)

/-- A set of lanes from a list. -/
def laneSet (ls : List Nat) : Lanes := ls.foldl (fun m l => m ||| (1#1024 <<< l)) 0

/-- The key of a lane of a vector register. -/
def vkey (r l : Nat) : Nat := r * 1024 + l

/-- One lane of a vector register. -/
def vreg (t : Team) (r l : Nat) : Nat := (sget 0 t.regs.v (vkey r l)).toNat

/-- The number of lanes of a band (R32, R52). -/
def bandSize (t : Team) : Nat := 2 ^ t.regs.band.toNat

/-- A special lane value (R50). -/
def specialVal (t : Team) (code l : Nat) : Nat :=
  match code with
  | 1648 => l
  | 1649 => l % bandSize t
  | 1650 => l / 32
  | 1651 => t.card.tix
  | 1652 => t.card.crk
  | 1653 => l % 32 / bandSize t
  | 1654 => l % 32
  | 1655 => teamLanes t
  | 1656 => bandSize t
  | 1657 => t.place.cluster
  | 1658 => t.place.core
  | 1659 => t.card.tcount
  | _ => 0

/-- An integer taken from a predicate, special or constant code, in a type: sign-extended or wrapped into an integer type and b32,
converted with control 0 into a float type or ts8, with no flag (R48). -/
def intCode (ty : Nat) (x : Int) : Nat := if isInt ty || ty = 15 then toBits (widthOf ty) x else (roundTo ty 0 (ofIntExp x 0)).1

/-- The scalar operand of a field: the value captured at enqueue (R25); the register's own for a word supplied to an `xiss`
(R258) and with no word at the head of the queue. -/
def scalarOperand (t : Team) (f : LaneFields) (slot : Nat) : Word :=
  match t.lane.xiss1, t.lane.queue with
  | none, e :: _ => capFor e slot
  | _, _ => captureCode t (codeFor f slot)

/-- An operand of a lane as the bit pattern of a type (R47, R48, R200). -/
def readOp (t : Team) (f : LaneFields) (slot ty l : Nat) : Nat :=
  let c := codeFor f slot
  if c < 1536 then
    (if ty64 ty then vreg t c l + 2 ^ 32 * vreg t (c + 1) l else vreg t c l % 2 ^ widthOf ty)
  else if scaCode c then (scalarOperand t f slot).toNat % 2 ^ widthOf ty
  else if preCode c then intCode ty (b2n ((predSet t (c - 1632)).getLsbD l))
  else if c < 1664 then intCode ty (specialVal t c l)
  else intCode ty ((c : Int) - 1792)

/-- An operand's 32 bits, whatever the type: the pattern that the entries of R216, R223 and R200 (b32) read. -/
def readRaw (t : Team) (f : LaneFields) (slot l : Nat) : Nat := readOp t f slot 15 l

/-- A bit pattern of an integer type as a number (R60, R200). -/
def intOf (ty c : Nat) : Int := if isSigned ty then sInt (widthOf ty) c else ((c % 2 ^ widthOf ty : Nat) : Int)

/-- A value written to a lane of a vector register under R47: a pair for a 64-bit type, else extended to 32 bits. -/
def putLane (ty r : Nat) (m : SMap Half) (p : Nat × Nat) : SMap Half :=
  if ty64 ty then
    sset 0 (sset 0 m (vkey r p.1) (BitVec.ofNat 32 p.2)) (vkey (r + 1) p.1) (BitVec.ofNat 32 (p.2 / 2 ^ 32))
  else sset 0 m (vkey r p.1) (BitVec.ofNat 32 (extendR47 ty p.2))

/-- The state with values written to lanes of a vector register (R47). -/
def writeVec (s : State) (ty r : Nat) (xs : List (Nat × Nat)) : State :=
  setRegs s { s.team.regs with v := xs.foldl (putLane ty r) s.team.regs.v }

/-- The state with a predicate's bits in some lanes replaced; a write to p15 is discarded (R45, R209). -/
def writePred (s : State) (k : Nat) (at_ : Lanes) (x : Lanes) : State :=
  if k = 15 then s
  else setRegs s { s.team.regs with p := sset 0 s.team.regs.p k ((sget 0 s.team.regs.p k &&& ~~~ at_) ||| (x &&& at_)) }

/-- The state with a scalar register written by an L-word (R49). -/
def writeScalar (s : State) (code : Nat) (x : Nat) : State :=
  setRegs s { s.team.regs with s := sset 0 s.team.regs.s (code - 1536) (BitVec.ofNat 64 x) }

/-- An `xiss` block past its current word; none once every word has run. -/
def nextWord (b : XissBlock) : Option XissBlock :=
  if b.next + 1 < b.words.length then some { b with next := b.next + 1 } else none

/-- The lane stream past the word that runs: the next distinct word of an `xiss` at either depth (R256, R260), and after the last
one, or with no `xiss` running, the next entry of the queue (R26). -/
def pastWord (l : LaneState) : LaneState :=
  let l1 := { l with passes := 0, again := none, busy := false, skip := 0, drawn := none, flags := 0, amax := [] }
  let out : LaneState := { l1 with queue := l1.queue.tail, xiss1 := none, xiss2 := none }
  let outer (b : XissBlock) : LaneState :=
    match nextWord b with
    | some b1 => { l1 with xiss1 := some b1, xiss2 := none }
    | none => out
  match l.xiss1, l.xiss2 with
  | none, _ => out
  | some b, none => outer b
  | some b, some c =>
    match nextWord c with
    | some c1 => { l1 with xiss2 := some c1 }
    | none => outer b

/-- The L-word that runs completes (R26, R261). -/
def popWord (s : State) : State := setTeam s { s.team with lane := pastWord s.team.lane }

/-- The common form of an L-word: decode checks against the team's registers (R149), then its effect; it leaves the queue when the
effect answers, and stays at the head after a trap or a wait. -/
def laneWord (op : Nat) (f : LaneFields) (s : State) (k : State → Out) : Out :=
  if laneLegal s.team.card.v op f then k s else .next (takeStop s (laneStop s 0x01))

/-- An L-word whose effect is a state: it completes all its passes (R199). -/
def laneDone (op : Nat) (f : LaneFields) (s : State) (k : State → State) : Out :=
  laneWord op f s fun s => .next (popWord (k s))

end Sys2Proof.Machine
end

