-- ==== Sys2Proof/Machine/Flags.lean ====
section
/-! DEFINITION. FLAGS and the amax accumulators as an L-word leaves them (R55, R74, R75, R202), and the two shapes of a
register-to-register L-word. -/

namespace Sys2Proof.Machine

/-- The state with sticky flags raised (R55). -/
def raise (s : State) (fl : Flags) : State := setRegs s { s.team.regs with flags := s.team.regs.flags ||| fl }

/-- The flags of all lanes together (R202). -/
def allFlags (xs : List (Nat × Nat × Flags)) : Flags := xs.foldl (fun a x => a ||| x.2.2) 0

/-- An amax accumulator updated once by the f32 codes of the lanes that take part (R74); none of them, no update (R202). -/
def foldAmax (s : State) (n : Nat) (codes : List Nat) (nanprop : Bool) : State :=
  if codes.isEmpty then s
  else setRegs s { s.team.regs with amax := sset 0 s.team.regs.amax n (amaxUpdate (sget 0 s.team.regs.amax n) codes nanprop) }

/-- One result for each lane that takes part, from the state before any is written (R199): lane, pattern and flags. -/
def laneResults (t : Team) (f : LaneFields) (one : Nat → Nat × Flags) : List (Nat × Nat × Flags) :=
  (takerList t f).map fun l => (l, one l)

/-- Results of a type written to the vector register in field D, and the flags raised (R47, R202). -/
def vecResults (ty : Nat) (f : LaneFields) (s : State) (one : Team → Nat → Nat × Flags) : State :=
  let xs := laneResults s.team f (one s.team)
  raise (writeVec s ty f.d.toNat (xs.map fun x => (x.1, x.2.1))) (allFlags xs)

/-- An L-word of these classes that writes a vector register. -/
def vecWord (op ty : Nat) (f : LaneFields) (s : State) (one : Team → Nat → Nat × Flags) : Out :=
  laneDone op f s fun s => vecResults ty f s one

/-- An L-word that compares: it writes each lane's bit of the predicate in field D (R209, R215). -/
def predWord (op : Nat) (f : LaneFields) (s : State) (one : Team → Nat → Bool) : Out :=
  laneDone op f s fun s =>
    writePred s (f.d.toNat - 1632) (takers s.team f) (laneSet ((takerList s.team f).filter (one s.team)))

end Sys2Proof.Machine
end

