-- ==== Sys2Proof/Machine/LaneInt.lean ====
section
/-! DEFINITION. The integer class of L-words (R203 to R211). -/

namespace Sys2Proof.Machine

/-- The pattern that an integer arithmetic form writes for an exact value (R204). -/
def intResult (ty : Nat) (sat : Bool) (x : Int) : Nat := toBits (widthOf ty) (if sat then clampInt ty x else x)

/-- The sat modifier (R203). -/
def satOf (f : LaneFields) : Bool := bit f.md.toNat 0

/-- A two-operand arithmetic form (R204). -/
def arith2 (op : Nat) (g : Int → Int → Int) (f : LaneFields) (s : State) : Out :=
  let ty := f.ty.toNat
  vecWord op ty f s fun t l =>
    (intResult ty (satOf f) (g (intOf ty (readOp t f 1 ty l)) (intOf ty (readOp t f 2 ty l))), 0)

/-- A one-operand arithmetic form (R204). -/
def arith1 (op : Nat) (g : Int → Int) (f : LaneFields) (s : State) : Out :=
  let ty := f.ty.toNat
  vecWord op ty f s fun t l => (intResult ty (satOf f) (g (intOf ty (readOp t f 1 ty l))), 0)

/-- A division form (R205): a zero divisor sets dz. -/
def divide (op : Nat) (g : Int → Int → Int) (f : LaneFields) (s : State) : Out :=
  let ty := f.ty.toNat
  vecWord op ty f s fun t l =>
    let y := intOf ty (readOp t f 2 ty l)
    (toBits (widthOf ty) (g (intOf ty (readOp t f 1 ty l)) y), if y = 0 then fDz else 0)

/-- A bitwise form of two patterns, with the width of the type (R206). -/
def bits2 (op : Nat) (g : Nat → Nat → Nat → Nat) (f : LaneFields) (s : State) : Out :=
  let ty := f.ty.toNat
  vecWord op ty f s fun t l => (g (widthOf ty) (readOp t f 1 ty l) (readOp t f 2 ty l) % 2 ^ widthOf ty, 0)

/-- A bitwise or counting form of one pattern, with the width of the type (R206). -/
def bits1 (op : Nat) (g : Nat → Nat → Nat) (f : LaneFields) (s : State) : Out :=
  let ty := f.ty.toNat
  vecWord op ty f s fun t l => (g (widthOf ty) (readOp t f 1 ty l) % 2 ^ widthOf ty, 0)

/-- An arithmetic right shift of a `w`-bit pattern (R206). -/
def sraBits (w x n : Nat) : Nat := toBits w (sInt w x / (2 ^ n : Nat))

/-- A left rotation of a `w`-bit pattern (R206). -/
def rotBits (w x n : Nat) : Nat := (x * 2 ^ n) % 2 ^ w + x / 2 ^ (w - n)

/-- The conditions of `vcmp`, and the first six of `vfcmp`, from the results of = and < (R209, R215). -/
def condOf (cond : Nat) (eq lt gt : Bool) : Bool :=
  match cond with
  | 0 => eq | 1 => !eq | 2 => lt | 3 => lt || eq | 4 => gt | _ => gt || eq

/-- The field position and length of `vbext` and `vbins` (R207). -/
def fieldSpan (w b c : Nat) : Nat × Nat :=
  let pos := b % w
  (pos, min (c % 128) (w - pos))

/-- The result of `vbext` (R207). -/
def bextBits (ty a b c : Nat) : Nat :=
  let w := widthOf ty
  let (pos, len) := fieldSpan w b c
  let x := bits a pos len
  if 0 < len && isSigned ty then toBits w (sInt len x) else x

/-- The result of `vbins` (R207). -/
def binsBits (ty d a b c : Nat) : Nat :=
  let w := widthOf ty
  let (pos, len) := fieldSpan w b c
  d - bits d pos len * 2 ^ pos + a % 2 ^ len * 2 ^ pos

/-- The immediate of `vli` (R210). -/
def vliImm (f : LaneFields) : Nat := f.a.toNat * 2 ^ 21 + f.b.toNat * 2 ^ 10 + f.c.toNat % 1024

/-- The index that `vlane` multiplies by (R211). -/
def laneIndex (t : Team) (kind l : Nat) : Nat :=
  match kind with
  | 0 => l | 1 => l % bandSize t | 2 => l % 32 | _ => l / 32

/-- The first lane of a lane's band (R32). -/
def bandBase (t : Team) (l : Nat) : Nat := l / bandSize t * bandSize t

/-- The lanes of a lane's band, in ascending order. -/
def bandLanes (t : Team) (l : Nat) : List Nat := (List.range (bandSize t)).map (bandBase t l + ·)

/-- The source lane of `vbcast` in a lane's band (R211); the band position is read as an integer under every type (assumption log 13). -/
def bcastLane (t : Team) (f : LaneFields) (l : Nat) : Nat :=
  if bit f.md.toNat 0 then bandBase t l + readRaw t f 2 l % bandSize t
  else ((bandLanes t l).find? fun j => (takers t f).getLsbD j).getD l

/-- VADD (R204). -/
def execVadd (f : LaneFields) (s : State) : Out := arith2 0x001 (· + ·) f s
/-- VSUB (R204). -/
def execVsub (f : LaneFields) (s : State) : Out := arith2 0x002 (· - ·) f s
/-- VMUL (R204). -/
def execVmul (f : LaneFields) (s : State) : Out := arith2 0x003 (· * ·) f s
/-- VMULH (R204): the upper half of the product. -/
def execVmulh (f : LaneFields) (s : State) : Out :=
  arith2 0x004 (fun x y => x * y / (2 ^ widthOf f.ty.toNat : Nat)) f s
/-- VMAD (R204). -/
def execVmad (f : LaneFields) (s : State) : Out :=
  let ty := f.ty.toNat
  vecWord 0x005 ty f s fun t l =>
    (intResult ty (satOf f)
      (intOf ty (readOp t f 1 ty l) * intOf ty (readOp t f 2 ty l) + intOf ty (readOp t f 3 ty l)), 0)
/-- VDIV (R205). -/
def execVdiv (f : LaneFields) (s : State) : Out := divide 0x006 (fun x y => if y = 0 then -1 else x.tdiv y) f s
/-- VREM (R205). -/
def execVrem (f : LaneFields) (s : State) : Out := divide 0x007 (fun x y => if y = 0 then x else x.tmod y) f s
/-- VABS (R204). -/
def execVabs (f : LaneFields) (s : State) : Out := arith1 0x008 (fun x => if x < 0 then -x else x) f s
/-- VNEG (R204). -/
def execVneg (f : LaneFields) (s : State) : Out := arith1 0x009 (fun x => -x) f s
/-- VMIN (R204). -/
def execVmin (f : LaneFields) (s : State) : Out := arith2 0x00A (fun x y => if x ≤ y then x else y) f s
/-- VMAX (R204). -/
def execVmax (f : LaneFields) (s : State) : Out := arith2 0x00B (fun x y => if x ≤ y then y else x) f s
/-- VAND (R206). -/
def execVand (f : LaneFields) (s : State) : Out := bits2 0x00C (fun _ x y => x &&& y) f s
/-- VOR (R206). -/
def execVor (f : LaneFields) (s : State) : Out := bits2 0x00D (fun _ x y => x ||| y) f s
/-- VXOR (R206). -/
def execVxor (f : LaneFields) (s : State) : Out := bits2 0x00E (fun _ x y => x ^^^ y) f s
/-- VNOT (R206). -/
def execVnot (f : LaneFields) (s : State) : Out := bits1 0x00F (fun w x => 2 ^ w - 1 - x) f s
/-- VSHL (R206). -/
def execVshl (f : LaneFields) (s : State) : Out := bits2 0x010 (fun w x y => x * 2 ^ (y % w)) f s
/-- VSHR (R206). -/
def execVshr (f : LaneFields) (s : State) : Out := bits2 0x011 (fun w x y => x / 2 ^ (y % w)) f s
/-- VSRA (R206). -/
def execVsra (f : LaneFields) (s : State) : Out := bits2 0x012 (fun w x y => sraBits w x (y % w)) f s
/-- VROT (R206). -/
def execVrot (f : LaneFields) (s : State) : Out := bits2 0x013 (fun w x y => rotBits w x (y % w)) f s
/-- VCLZ (R206). -/
def execVclz (f : LaneFields) (s : State) : Out := bits1 0x014 (fun w x => clzBits w x) f s
/-- VPOPC (R206). -/
def execVpopc (f : LaneFields) (s : State) : Out := bits1 0x015 (fun w x => popBits w x) f s
/-- VBREV (R206). -/
def execVbrev (f : LaneFields) (s : State) : Out := bits1 0x016 (fun w x => revBits w x) f s
/-- VBEXT (R207). -/
def execVbext (f : LaneFields) (s : State) : Out :=
  let ty := f.ty.toNat
  vecWord 0x017 ty f s fun t l => (bextBits ty (readOp t f 1 ty l) (readOp t f 2 ty l) (readOp t f 3 ty l), 0)
/-- VBINS (R207): the old destination is a source. -/
def execVbins (f : LaneFields) (s : State) : Out :=
  let ty := f.ty.toNat
  vecWord 0x018 ty f s fun t l =>
    (binsBits ty (readOp t f 0 ty l) (readOp t f 1 ty l) (readOp t f 2 ty l) (readOp t f 3 ty l), 0)
/-- VSEL (R208): the third operand's pattern selects. -/
def execVsel (f : LaneFields) (s : State) : Out :=
  let ty := f.ty.toNat
  vecWord 0x019 ty f s fun t l => (if readOp t f 3 ty l ≠ 0 then readOp t f 1 ty l else readOp t f 2 ty l, 0)
/-- VCMP (R209). -/
def execVcmp (f : LaneFields) (s : State) : Out :=
  let ty := f.ty.toNat
  predWord 0x01A f s fun t l =>
    let x := intOf ty (readOp t f 1 ty l)
    let y := intOf ty (readOp t f 2 ty l)
    condOf f.md.toNat (decide (x = y)) (decide (x < y)) (decide (y < x))
/-- VMOV (R210). -/
def execVmov (f : LaneFields) (s : State) : Out :=
  let ty := f.ty.toNat
  vecWord 0x01B ty f s fun t l => (readOp t f 1 ty l, 0)
/-- VLI (R210). -/
def execVli (f : LaneFields) (s : State) : Out :=
  let ty := f.ty.toNat
  vecWord 0x01C ty f s fun _ _ => (if ty = 2 then toBits 64 (sInt 32 (vliImm f)) else vliImm f, 0)
/-- VLANE (R211). -/
def execVlane (f : LaneFields) (s : State) : Out :=
  let ty := f.ty.toNat
  vecWord 0x01D ty f s fun t l =>
    ((readOp t f 1 ty l + readOp t f 2 ty l * laneIndex t (f.md.toNat % 4) l) % 2 ^ widthOf ty, 0)
/-- VBCAST (R211). -/
def execVbcast (f : LaneFields) (s : State) : Out :=
  let ty := f.ty.toNat
  vecWord 0x01E ty f s fun t l => (readOp t f 1 ty (bcastLane t f l), 0)

end Sys2Proof.Machine
end

