-- ==== Sys2Proof/Machine/LaneFloat.lean ====
section
/-! DEFINITION. The float class of L-words (R212 to R216). -/

namespace Sys2Proof.Machine

/-- The rounding control of an L-word (R65, R212). -/
def rcOf (f : LaneFields) : Nat := f.md.toNat % 4

/-- An operand as a value of a float type (R200). -/
def floatOp (t : Team) (f : LaneFields) (slot ty l : Nat) : Val := decodeFloat ty (readOp t f slot ty l)

/-- A rounded form of two values (R213). -/
def float2 (op : Nat) (g : Nat → Nat → Val → Val → Nat × Flags) (f : LaneFields) (s : State) : Out :=
  let ty := f.ty.toNat
  vecWord op ty f s fun t l => g ty (rcOf f) (floatOp t f 1 ty l) (floatOp t f 2 ty l)

/-- A fused form of three values, the first with its sign changed when asked (R213). -/
def fused (op : Nat) (g : Nat → Nat → Val → Val → Val → Nat × Flags) (negProduct : Bool) (f : LaneFields) (s : State) : Out :=
  let ty := f.ty.toNat
  vecWord op ty f s fun t l =>
    let x := floatOp t f 1 ty l
    g ty (rcOf f) (if negProduct then x.flip else x) (floatOp t f 2 ty l) (floatOp t f 3 ty l)

/-- The code of a value that is not rounded: its own, canonical for a NaN (R62, R214). -/
def plainCode (ty : Nat) (v : Val) : Nat := (roundTo ty 0 v).1

/-- The value of a float with its sign set (R214). -/
def Val.withSign (neg : Bool) : Val → Val
  | .nan => .nan
  | .inf _ => .inf neg
  | .num _ m e => .num neg m e

/-- A condition of `vfcmp` (R215). -/
def floatCond (cond : Nat) (x y : Val) : Bool :=
  let un := x.isNan || y.isNan
  if cond = 6 then un
  else if cond = 7 then !un
  else if un then decide (cond = 1)
  else condOf cond (eqVal x y) (ltVal x y) (ltVal y x)

/-- Element `i` of `n` bits of a packed pattern as a value, with fmtx for a reserved ts8 term (R216). -/
def packedVal (ty n x i : Nat) : Val × Flags := decodeVal ty (bits x (n * i) n)

/-- A dot product of `k` packed elements of `n` bits (R216). -/
def dotWord (op n k : Nat) (fmtB : Nat) (f : LaneFields) (s : State) : Out :=
  let ty := f.ty.toNat
  vecWord op 4 f s fun t l =>
    let one (i : Nat) : (Val × Val) × Flags :=
      let a := packedVal ty n (readRaw t f 1 l) i
      let b := packedVal fmtB n (readRaw t f 2 l) i
      ((a.1, b.1), a.2 ||| b.2)
    let ps := (List.range k).map one
    let r := dotCodes (rcOf f) (ps.map (·.1)) (floatOp t f 3 4 l)
    (r.1, ps.foldl (fun a p => a ||| p.2) r.2)

/-- VFADD (R213). -/
def execVfadd (f : LaneFields) (s : State) : Out := float2 0x081 addCodes f s
/-- VFSUB (R213). -/
def execVfsub (f : LaneFields) (s : State) : Out := float2 0x082 subCodes f s
/-- VFMUL (R213). -/
def execVfmul (f : LaneFields) (s : State) : Out := float2 0x083 mulCodes f s
/-- VFMA (R213). -/
def execVfma (f : LaneFields) (s : State) : Out := fused 0x084 fmaCodes false f s
/-- VFMS (R213). -/
def execVfms (f : LaneFields) (s : State) : Out := fused 0x085 fmsCodes false f s
/-- VFNMA (R213). -/
def execVfnma (f : LaneFields) (s : State) : Out := fused 0x086 fmaCodes true f s
/-- VFMIN (R214). -/
def execVfmin (f : LaneFields) (s : State) : Out :=
  float2 0x087 (fun ty _ x y => (plainCode ty (minMaxVal true x y), 0)) f s
/-- VFMAX (R214). -/
def execVfmax (f : LaneFields) (s : State) : Out :=
  float2 0x088 (fun ty _ x y => (plainCode ty (minMaxVal false x y), 0)) f s
/-- VFABS (R214). -/
def execVfabs (f : LaneFields) (s : State) : Out :=
  let ty := f.ty.toNat
  vecWord 0x089 ty f s fun t l => (plainCode ty ((floatOp t f 1 ty l).withSign false), 0)
/-- VFNEG (R214). -/
def execVfneg (f : LaneFields) (s : State) : Out :=
  let ty := f.ty.toNat
  vecWord 0x08A ty f s fun t l => (plainCode ty (floatOp t f 1 ty l).flip, 0)
/-- VFCMP (R215). -/
def execVfcmp (f : LaneFields) (s : State) : Out :=
  let ty := f.ty.toNat
  predWord 0x08B f s fun t l => floatCond (f.md.toNat % 8) (floatOp t f 1 ty l) (floatOp t f 2 ty l)
/-- VFCLASS (R215): it writes a .z32 value. -/
def execVfclass (f : LaneFields) (s : State) : Out :=
  let ty := f.ty.toNat
  vecWord 0x08C 1 f s fun t l => (classWord ty (readOp t f 1 ty l), 0)
/-- VFDIV (R213). -/
def execVfdiv (f : LaneFields) (s : State) : Out := float2 0x08D divCodes f s
/-- VFSQRT (R213). -/
def execVfsqrt (f : LaneFields) (s : State) : Out :=
  let ty := f.ty.toNat
  vecWord 0x08E ty f s fun t l => sqrtCodes ty (rcOf f) (floatOp t f 1 ty l)
/-- VDOT2 (R216). -/
def execVdot2 (f : LaneFields) (s : State) : Out := dotWord 0x08F 16 2 f.ty.toNat f s
/-- VDOT4 (R216): modifier[3:2] gives B a format of its own. -/
def execVdot4 (f : LaneFields) (s : State) : Out :=
  let fmtB := match f.md.toNat / 4 with
    | 0 => f.ty.toNat
    | 1 => 7
    | 2 => 8
    | _ => 10
  dotWord 0x090 8 4 fmtB f s
/-- VDOT8 (R216). -/
def execVdot8 (f : LaneFields) (s : State) : Out := dotWord 0x091 4 8 f.ty.toNat f s

end Sys2Proof.Machine
end

