-- ==== Sys2Proof/Machine/LaneConv.lean ====
section
/-! DEFINITION. The conversion class of L-words, block scales, packing, and the curve unit (R217 to R225). -/

namespace Sys2Proof.Machine

/-- A base exponent: bits [7:0] of a uniform operand as .s8 (R71, R217). -/
def baseOf (t : Team) (f : LaneFields) (slot l : Nat) : Int := sInt 8 (readRaw t f slot l)

/-- The nanprop modifier (R221, R222). -/
def nanprop (f : LaneFields) : Bool := bit f.md.toNat 2

/-- An element of a type as an f32 code: exact from a float format or ts8, rounded from an integer (R74), with fmtx. -/
def toF32 (ty c : Nat) : Nat × Flags :=
  let v := decodeVal ty c
  ((roundTo 4 0 v.1).1, v.2)

/-- The source of amax: an f32 pattern as it is, any other type converted (R74). -/
def amaxSource (ty c : Nat) : Nat × Flags := if ty = 4 then (c, 0) else toF32 ty c

/-- One lane of `vcvts` (R221). -/
def encodeScaled (dt rc a : Nat) (base : Int) (code : Nat) : Nat × Flags :=
  let delta := sInt 4 code
  if delta = -8 then (0, 0) else roundTo dt rc (scaleVal (decodeFloat 4 a) (-(base + delta)))

/-- One lane of `vround` (R219). -/
def roundGrid (ty rc a : Nat) : Nat × Flags :=
  if ty = 4 then roundIntegral rc (decodeFloat 4 a)
  else
    let r := roundTo ty rc (decodeFloat 4 a)
    ((toF32 ty r.1).1, r.2)

/-- The number of elements of a packed register (R224). -/
def perReg (ty : Nat) : Nat := 32 / widthOf ty

/-- One lane of `vunpk` (R224). -/
def unpackLane (t : Team) (f : LaneFields) (l : Nat) : Nat × Flags :=
  let ty := f.ty.toNat
  let k := f.md.toNat % 8
  let g := l % 32 * perReg ty + k
  let b := g / (if bit f.md.toNat 3 then 32 else 16)
  let src := l / 32 * 32 + b / 8
  let delta := sInt 4 (bits (readRaw t f 2 src) (4 * (b % 8)) 4)
  if delta = -8 then (0, 0)
  else
    let v := packedVal ty (widthOf ty) (readRaw t f 1 l) k
    let r := roundTo 4 0 (scaleVal v.1 (baseOf t f 3 l + delta))
    (r.1, v.2 ||| r.2)

/-- One lane of `vpack` (R223): the old destination keeps the other half of an f4 pack. -/
def packLane (t : Team) (f : LaneFields) (l : Nat) : Nat :=
  let ty := f.ty.toNat
  let x (slot : Nat) : Nat := readRaw t f slot l
  match widthOf ty with
  | 8 => x 1 % 256 + x 2 % 256 * 2 ^ 8 + x 3 % 256 * 2 ^ 16 + x 4 % 256 * 2 ^ 24
  | 16 => x 1 % 65536 + x 2 % 65536 * 2 ^ 16
  | _ =>
    let h := b2n (bit f.md.toNat 0) * 16
    let new := x 1 % 16 + x 2 % 16 * 2 ^ 4 + x 3 % 16 * 2 ^ 8 + x 4 % 16 * 2 ^ 12
    x 0 - bits (x 0) h 16 * 2 ^ h + new * 2 ^ h

/-- Word `j` of segment `k` of the curve table: 0 the breakpoint, 1 to 4 the coefficients c0 to c3 (R54). -/
def curveWord (t : Team) (k j : Nat) : Val := decodeFloat 4 (sget 0 t.regs.curve (5 * k + j)).toNat

/-- The segment for a value (R225): the largest k whose breakpoint does not exceed it, else 0. -/
def curveSegment (t : Team) (x : Val) : Nat :=
  ((List.range 64).filter fun k => let p := curveWord t k 0; ltVal p x || eqVal p x).getLastD 0

/-- One step of Horner's rule in the curve unit: h × t + c, rounded once (R225). -/
def hornerStep (t : Val) (h : Nat × Flags) (c : Val) : Nat × Flags :=
  let r := fmaCodes 4 0 (decodeFloat 4 h.1) t c
  (r.1, h.2 ||| r.2)

/-- The curve table evaluated at an f32 code (R225). -/
def curveAt (tm : Team) (a : Nat) : Nat × Flags :=
  let x := decodeFloat 4 a
  if x.isNan then (nanCode 4, 0)
  else
    let k := curveSegment tm x
    let d := subCodes 4 0 x (curveWord tm k 0)
    let h0 : Nat × Flags := ((sget 0 tm.regs.curve (5 * k + 4)).toNat, d.2)
    let go := hornerStep (decodeFloat 4 d.1)
    go (go (go h0 (curveWord tm k 3)) (curveWord tm k 2)) (curveWord tm k 1)

/-- VCVT (R218): the source type is the raw number in field B. -/
def execVcvt (f : LaneFields) (s : State) : Out :=
  let st := f.b.toNat
  vecWord 0x101 f.ty.toNat f s fun t l => convert f.ty.toNat st (rcOf f) (readOp t f 1 st l)
/-- VCVTS (R221): the accumulator named in field E is updated once, from the sources of every lane that takes part. -/
def execVcvts (f : LaneFields) (s : State) : Out :=
  let ty := f.ty.toNat
  laneDone 0x102 f s fun s =>
    let codes := (takerList s.team f).map fun l => readOp s.team f 1 4 l
    foldAmax
      (vecResults ty f s fun t l => encodeScaled ty (rcOf f) (readOp t f 1 4 l) (baseOf t f 2 l) (readRaw t f 3 l))
      f.e.toNat codes (nanprop f)
/-- VSCL (R220): |A| and the base give the 4-bit delta. -/
def execVscl (f : LaneFields) (s : State) : Out :=
  vecWord 0x103 1 f s fun t l =>
    let r := scaleDelta ((floatOp t f 1 4 l).withSign false) (baseOf t f 2 l) f.ty.toNat
    (toBits 4 r.1, r.2)
/-- VPACK (R223). -/
def execVpack (f : LaneFields) (s : State) : Out := vecWord 0x104 1 f s fun t l => (packLane t f l, 0)
/-- VUNPK (R224). -/
def execVunpk (f : LaneFields) (s : State) : Out := vecWord 0x105 4 f s fun t l => unpackLane t f l
/-- VROUND (R219). -/
def execVround (f : LaneFields) (s : State) : Out :=
  vecWord 0x106 4 f s fun t l => roundGrid f.ty.toNat (rcOf f) (readOp t f 1 4 l)
/-- VCRV (R225). -/
def execVcrv (f : LaneFields) (s : State) : Out := vecWord 0x107 4 f s fun t l => curveAt t (readOp t f 1 4 l)
/-- VAMAX (R222). -/
def execVamax (f : LaneFields) (s : State) : Out :=
  let ty := f.ty.toNat
  laneDone 0x108 f s fun s =>
    let xs := (takerList s.team f).map fun l => amaxSource ty (readOp s.team f 1 ty l)
    raise (foldAmax s f.e.toNat (xs.map (·.1)) (nanprop f)) (xs.foldl (fun a x => a ||| x.2) 0)

end Sys2Proof.Machine
end

