-- ==== Sys2Proof/Machine/LaneCross.lean ====
section
/-! DEFINITION. Cross-lane operations (R238 to R244, R78, R79), masks (R245 to R248) and predicates (R250). -/

namespace Sys2Proof.Machine

/-- A lane's position in its band (R32, bid). -/
def bandPos (t : Team) (l : Nat) : Nat := l % bandSize t

/-- The lane whose value a shuffle gives a lane: position `s` of its band, or the lane itself outside the band (R239). -/
def shuffleLane (t : Team) (l : Nat) (s : Int) : Nat :=
  if 0 ≤ s && s < (bandSize t : Int) then bandBase t l + s.toNat else l

/-- A shuffle, its source position from the lane's own position, the offset and the band size (R239). -/
def shuffle (op : Nat) (pos : Nat → Nat → Nat → Int) (f : LaneFields) (s : State) : Out :=
  let ty := f.ty.toNat
  vecWord op ty f s fun t l =>
    (readOp t f 1 ty (shuffleLane t l (pos (bandPos t l) (readRaw t f 2 l) (bandSize t))), 0)

/-- A value of a band position that may be absent, with the flags raised so far (R78). -/
abbrev Node := Option Nat × Flags

/-- Two nodes combined, an absent one left out (R78). -/
def joinNodes (op : Nat → Nat → Nat × Flags) (a b : Node) : Node :=
  match a.1, b.1 with
  | none, _ => (b.1, a.2 ||| b.2)
  | _, none => (a.1, a.2 ||| b.2)
  | some x, some y =>
    let r := op x y
    (some r.1, a.2 ||| b.2 ||| r.2)

/-- The reduction tree over 2^d band positions from `lo` up (R78). -/
def treeNode (x : Nat → Option Nat) (op : Nat → Nat → Nat × Flags) : Nat → Nat → Node
  | 0, lo => (x lo, 0)
  | d + 1, lo => joinNodes op (treeNode x op d lo) (treeNode x op d (lo + 2 ^ d))

/-- The first `n` positions from `lo` up, split into aligned power-of-two spans and combined from the left (R79). -/
def spanNodes (x : Nat → Option Nat) (op : Nat → Nat → Nat × Flags) : Nat → Nat → Nat → Node → Node
  | 0, _, _, acc => acc
  | d + 1, lo, n, acc =>
    if 2 ^ d ≤ n then spanNodes x op d (lo + 2 ^ d) (n - 2 ^ d) (joinNodes op acc (treeNode x op d lo))
    else spanNodes x op d lo n acc

/-- The operation of `vred` and `vscan` on two patterns of a type (R241). -/
def redOp (ty op : Nat) (x y : Nat) : Nat × Flags :=
  let w := widthOf ty
  if ty = 4 then
    match op with
    | 0 => addCodes 4 0 (decodeFloat 4 x) (decodeFloat 4 y)
    | 1 => (plainCode 4 (minMaxVal true (decodeFloat 4 x) (decodeFloat 4 y)), 0)
    | _ => (plainCode 4 (minMaxVal false (decodeFloat 4 x) (decodeFloat 4 y)), 0)
  else
    match op with
    | 0 => ((x + y) % 2 ^ w, 0)
    | 1 => (if intOf ty x ≤ intOf ty y then x else y, 0)
    | 2 => (if intOf ty x ≤ intOf ty y then y else x, 0)
    | 3 => (x &&& y, 0)
    | 4 => (x ||| y, 0)
    | _ => (x ^^^ y, 0)

/-- The identity of a reduction (R241). -/
def redIdentity (ty op : Nat) : Nat :=
  if ty = 4 then (match op with | 0 => 0 | 1 => 0x7F800000 | _ => 0xFF800000)
  else
    match op with
    | 1 => toBits (widthOf ty) (intMax ty)
    | 2 => toBits (widthOf ty) (intMin ty)
    | 3 => 2 ^ widthOf ty - 1
    | _ => 0

/-- The operand of each position of a lane's band, absent where the position does not take part (R78). -/
def bandVals (t : Team) (f : LaneFields) (l j : Nat) : Option Nat :=
  let k := bandBase t l + j
  if (takers t f).getLsbD k then some (readOp t f 1 f.ty.toNat k) else none

/-- The result of a node, the identity for an absent one; a NaN of one operand alone is made canonical too (R62). -/
def nodeValue (ty op : Nat) (n : Node) : Nat × Flags :=
  let x := n.1.getD (redIdentity ty op)
  (if ty = 4 && isNanCode x then nanCode 4 else x, n.2)

/-- The reduction of a lane's band (R241). -/
def bandReduce (t : Team) (f : LaneFields) (l : Nat) : Nat × Flags :=
  let ty := f.ty.toNat
  let op := f.md.toNat % 8
  nodeValue ty op (treeNode (bandVals t f l) (redOp ty op) t.regs.band.toNat 0)

/-- The inclusive or exclusive scan at a lane's position (R79, R241). -/
def bandScan (t : Team) (f : LaneFields) (l : Nat) : Nat × Flags :=
  let ty := f.ty.toNat
  let op := f.md.toNat % 8
  let n := bandPos t l + (if bit f.md.toNat 3 then 0 else 1)
  nodeValue ty op (spanNodes (bandVals t f l) (redOp ty op) 8 0 n (none, 0))

/-- The positions of a lane's band that take part with a non-zero operand, as a number with bit `j` for position `j` (R240). -/
def ballot (t : Team) (f : LaneFields) (l : Nat) : Nat :=
  (List.range (bandSize t)).foldl (fun a j =>
    let k := bandBase t l + j
    if (takers t f).getLsbD k && readRaw t f 1 k ≠ 0 then a + 2 ^ j else a) 0

/-- The positions of a lane's band that take part, as a number. -/
def bandTakers (t : Team) (f : LaneFields) (l : Nat) : Nat :=
  (List.range (bandSize t)).foldl (fun a j => if (takers t f).getLsbD (bandBase t l + j) then a + 2 ^ j else a) 0

/-- The value of a vote (R240). -/
def voteValue (t : Team) (f : LaneFields) (l : Nat) : Nat :=
  let c := ballot t f l
  match f.md.toNat % 4 with
  | 0 => b2n (c ≠ 0)
  | 1 => b2n (c = bandTakers t f l)
  | 2 => c
  | _ => popBits 32 c

/-- The lane that gives position `i` of a lane's band its compacted value: the `i`-th that takes part (R243). -/
def extSource (t : Team) (f : LaneFields) (l : Nat) : Option Nat :=
  ((bandLanes t l).filter fun k => (takers t f).getLsbD k)[bandPos t l]?

/-- The writes of `vext` (R243): to lanes of the team whether or not they take part. -/
def extWrites (t : Team) (f : LaneFields) : List (Nat × Nat) :=
  (List.range (teamLanes t)).filterMap fun l => (extSource t f l).map fun k => (l, readOp t f 1 f.ty.toNat k)

/-- The lanes of a team as a set (R20). -/
def wholeTeam (t : Team) : Lanes := BitVec.ofNat 1024 (2 ^ teamLanes t - 1)

/-- The active mask replaced; lanes beyond the team stay clear (R20, R21). -/
def setMask (s : State) (m : Lanes) : State := setRegs s { s.team.regs with mask := m &&& wholeTeam s.team }

/-- Entry `e` of a mask stack, 0 the oldest. -/
def stackEntry (st : List (Bool × Lanes)) (e : Nat) : Option (Bool × Lanes) := if e < st.length then st[st.length - 1 - e]? else none

/-- The mask stack replaced, its top first (R51): an entry below the top 32 is in the context image from the moment it is pushed or changed
there (R335), and the one that comes back among the top 32 is the one that was put there. -/
def setStack (s : State) (st : List (Bool × Lanes)) : State :=
  let old := s.team.regs.stack
  let t := s.team
  let s1 := setRegs s { t.regs with stack := st }
  ((List.range (st.length - Config.stackNear)).filter fun e =>
    !(decide (e + Config.stackNear < old.length) && stackEntry old e = stackEntry st e)).foldl (fun s e =>
      match stackEntry st e with
      | some x => teamWrite s t (t.card.handle + 0x1000 + 128 * e) (lanesBytes x.2)
      | none => s) s1

/-- A push of the active mask (R246): the overflow trap at the depth limit. -/
def pushMask (s : State) (loop : Bool) (k : State → State) : Out :=
  if Config.stackDepth ≤ s.team.regs.stack.length then .next (takeStop s (laneStop s 0x0A))
  else .next (popWord (k (setStack s ((loop, s.team.regs.mask) :: s.team.regs.stack))))

/-- The condition of `mif` and `mbrk` (R246). -/
def maskCond (t : Team) (f : LaneFields) : Lanes :=
  let p := predSet t (f.a.toNat - 1632)
  takers t f &&& (if bit f.md.toNat 0 then ~~~ p else p)

/-- Stack entries above the innermost loop entry with lanes cleared (R246); none without a loop entry. -/
def clearInner (c : Lanes) : List (Bool × Lanes) → Option (List (Bool × Lanes))
  | [] => none
  | (true, m) :: st => some ((true, m) :: st)
  | (false, m) :: st => (clearInner c st).map fun r => (false, m &&& ~~~ c) :: r

/-- A uniform operand read in 64 bits (R244, R247). -/
def uniWord (t : Team) (f : LaneFields) (slot : Nat) : Nat := readOp t f slot 3 0

/-- A mask word of a lane set. -/
def maskWord (m : Lanes) (b : Nat) : Nat := bits m.toNat (32 * b) 32

/-- A lane set with a mask word replaced. -/
def withMaskWord (m : Lanes) (b x : Nat) : Lanes :=
  BitVec.ofNat 1024 (m.toNat - maskWord m b * 2 ^ (32 * b) + x % 2 ^ 32 * 2 ^ (32 * b))

/-- The summary of the active mask (R21). -/
def summary (t : Team) : Nat :=
  (List.range 32).foldl (fun a w => if maskWord t.regs.mask w ≠ 0 then a + 2 ^ w else a) 0

/-- A predicate combination (R250): the inversions of the modifier, then the operation. -/
def predOp (op : Nat) (g : Lanes → Lanes → Lanes) (f : LaneFields) (s : State) : Out :=
  laneDone op f s fun s =>
    let x := predSet s.team (f.a.toNat - 1632)
    let y := predSet s.team (f.b.toNat - 1632)
    let x1 := if bit f.md.toNat 0 then ~~~ x else x
    let y1 := if bit f.md.toNat 1 then ~~~ y else y
    writePred s (f.d.toNat - 1632) (takers s.team f) (g x1 y1)

/-- VBAND (R244): an unassigned size is the illegal-value trap. -/
def execVband (f : LaneFields) (s : State) : Out :=
  laneWord 0x181 f s fun s =>
    let x := uniWord s.team f 1
    if x = 2 || x = 4 || x = 8 || x = 16 || x = 32 then
      .next (popWord (setRegs s { s.team.regs with band := BitVec.ofNat 3 (ilog2 x) }))
    else .next (takeStop s (laneStop s 0x03))
/-- VSHF (R239). -/
def execVshf (f : LaneFields) (s : State) : Out := shuffle 0x182 (fun _ y n => ((y % n : Nat) : Int)) f s
/-- VSHFX (R239). -/
def execVshfx (f : LaneFields) (s : State) : Out := shuffle 0x183 (fun p y n => ((p ^^^ (y % n) : Nat) : Int)) f s
/-- VSHFU (R239). -/
def execVshfu (f : LaneFields) (s : State) : Out := shuffle 0x184 (fun p y _ => (p : Int) - (y : Int)) f s
/-- VSHFD (R239). -/
def execVshfd (f : LaneFields) (s : State) : Out := shuffle 0x185 (fun p y _ => (p : Int) + (y : Int)) f s
/-- VVOTE (R240): any and all may write a predicate. -/
def execVvote (f : LaneFields) (s : State) : Out :=
  if preCode f.d.toNat then predWord 0x186 f s fun t l => voteValue t f l ≠ 0
  else vecWord 0x186 1 f s fun t l => (voteValue t f l, 0)
/-- VSCAN (R79, R241). -/
def execVscan (f : LaneFields) (s : State) : Out := vecWord 0x187 f.ty.toNat f s fun t l => bandScan t f l
/-- VRED (R78, R241, R242): a scalar destination takes the result of the band of the lowest lane that takes part, and the
flags are those of every band's nodes. -/
def execVred (f : LaneFields) (s : State) : Out :=
  let ty := f.ty.toNat
  if scaCode f.d.toNat then
    laneDone 0x188 f s fun s =>
      match takerList s.team f with
      | [] => s
      | l :: _ =>
        let r := bandReduce s.team f l
        raise (writeScalar s f.d.toNat (if ty = 0 then toBits 64 (sInt 32 r.1) else r.1))
          ((takerList s.team f).foldl (fun a l => a ||| (bandReduce s.team f l).2) 0)
  else vecWord 0x188 ty f s fun t l => bandReduce t f l
/-- VEXT (R243). -/
def execVext (f : LaneFields) (s : State) : Out :=
  laneDone 0x189 f s fun s => writeVec s f.ty.toNat f.d.toNat (extWrites s.team f)

/-- MIF (R246). -/
def execMif (f : LaneFields) (s : State) : Out :=
  laneWord 0x18A f s fun s =>
    let c := maskCond s.team f
    pushMask s false fun s => setMask s c
/-- MELSE (R246). -/
def execMelse (f : LaneFields) (s : State) : Out :=
  laneWord 0x18B f s fun s =>
    match s.team.regs.stack with
    | [] => .next (takeStop s (laneStop s 0x0B))
    | e :: _ => .next (popWord (setMask s (e.2 &&& ~~~ s.team.regs.mask)))
/-- MEND (R246). -/
def execMend (f : LaneFields) (s : State) : Out :=
  laneWord 0x18C f s fun s =>
    match s.team.regs.stack with
    | [] => .next (takeStop s (laneStop s 0x0B))
    | e :: st => .next (popWord (setMask (setStack s st) e.2))
/-- MBRK (R246). -/
def execMbrk (f : LaneFields) (s : State) : Out :=
  laneWord 0x18D f s fun s =>
    let c := maskCond s.team f
    match clearInner c s.team.regs.stack with
    | none => .next (takeStop s (laneStop s 0x0B))
    | some st => .next (popWord (setMask (setStack s st) (s.team.regs.mask &&& ~~~ c)))
/-- MLOOP (R246). -/
def execMloop (f : LaneFields) (s : State) : Out := laneWord 0x18E f s fun s => pushMask s true fun s => s
/-- MSET_PRED (R247). -/
def execMsetPred (f : LaneFields) (s : State) : Out :=
  laneDone 0x18F f s fun s =>
    let p := predSet s.team (f.a.toNat - 1632)
    setMask s (if bit f.md.toNat 2 then ~~~ p else p)
/-- MSET_WORD (R247): a mask word the team has not is the illegal-value trap. -/
def execMsetWord (f : LaneFields) (s : State) : Out :=
  laneWord 0x18F f s fun s =>
    let b := uniWord s.team f 2
    if s.team.card.w ≤ b then .next (takeStop s (laneStop s 0x03))
    else .next (popWord (setMask s (withMaskWord s.team.regs.mask b (uniWord s.team f 1))))
/-- MSET_ALL (R247). -/
def execMsetAll (f : LaneFields) (s : State) : Out := laneDone 0x18F f s fun s => setMask s allLanes
/-- MGET_PRED (R248). -/
def execMgetPred (f : LaneFields) (s : State) : Out :=
  laneDone 0x190 f s fun s => writePred s (f.d.toNat - 1632) (wholeTeam s.team) s.team.regs.mask
/-- MGET_SUM (R248). -/
def execMgetSum (f : LaneFields) (s : State) : Out :=
  laneDone 0x190 f s fun s => writeScalar s f.d.toNat (summary s.team)
/-- MGET_WORD (R248): a mask word the team has not reads 0. -/
def execMgetWord (f : LaneFields) (s : State) : Out :=
  laneDone 0x190 f s fun s =>
    let b := uniWord s.team f 2
    writeScalar s f.d.toNat (if s.team.card.w ≤ b then 0 else maskWord s.team.regs.mask b)

/-- PAND (R250). -/
def execPand (f : LaneFields) (s : State) : Out := predOp 0x191 (· &&& ·) f s
/-- POR (R250). -/
def execPor (f : LaneFields) (s : State) : Out := predOp 0x192 (· ||| ·) f s
/-- PXOR (R250). -/
def execPxor (f : LaneFields) (s : State) : Out := predOp 0x193 (· ^^^ ·) f s
/-- PNOT (R250). -/
def execPnot (f : LaneFields) (s : State) : Out :=
  laneDone 0x194 f s fun s =>
    writePred s (f.d.toNat - 1632) (takers s.team f) (~~~ predSet s.team (f.a.toNat - 1632))
/-- PMOV (R250). -/
def execPmov (f : LaneFields) (s : State) : Out := predWord 0x195 f s fun t l => readOp t f 1 f.ty.toNat l ≠ 0

end Sys2Proof.Machine
end

