-- ==== Sys2Proof/Machine/LaneMem.lean ====
section
/-! DEFINITION. The memory class of L-words (R226 to R237): addresses, checks over every lane, loads, stores, local memory,
atomics and prefetch. -/

namespace Sys2Proof.Machine

/-- The low `n` bits sign-extended to 64. -/
def sext64 (n x : Nat) : Nat := toBits 64 (sInt n x)

/-- An address operand of a lane in 64 bits (R227): a vector code is a pair, a zero-extended register or a sign-extended one. -/
def addrOp (t : Team) (f : LaneFields) (slot l : Nat) (pair zx : Bool) : Nat :=
  let c := codeFor f slot
  if c < 1536 then
    (if pair then vreg t c l + 2 ^ 32 * vreg t (c + 1) l else if zx then vreg t c l else sext64 32 (vreg t c l))
  else if scaCode c then (scalarOperand t f slot).toNat
  else if c < 1664 then specialVal t c l
  else toBits 64 ((c : Int) - 1792)

/-- The index of `vldx` and `vstx` (R227): 32 bits, signed, or unsigned under zx. -/
def indexOp (t : Team) (f : LaneFields) (l : Nat) : Nat :=
  let c := codeFor f 3
  let zx := bit f.md.toNat 2
  let ext (x : Nat) : Nat := if zx then x % 2 ^ 32 else sext64 32 x
  if c < 1536 then ext (vreg t c l)
  else if scaCode c then ext (scalarOperand t f 3).toNat
  else addrOp t f 3 l false false

/-- The address that a memory-class word gives a lane (R228), modulo 2^64. -/
def laneAddr (t : Team) (op : Nat) (f : LaneFields) (l : Nat) : Nat :=
  let w := widthOf f.ty.toNat / 8
  let n := laneIndex t (f.md.toNat % 4) l
  let b := addrOp t f 2 l false false
  let x := match op with
    | 0x203 | 0x204 => addrOp t f 1 l false false + b + addrOp t f 3 l false false * n
    | 0x205 | 0x206 => addrOp t f 1 l false false + b + indexOp t f l * 2 ^ (f.md.toNat % 4)
    | 0x207 | 0x208 => addrOp t f 1 l false true + b + (if bit f.md.toNat 2 then w * n else 0)
    | _ => addrOp t f 1 l true false + b
  x % 2 ^ 64

/-- The element width in bytes (R226). -/
def elemWidth (f : LaneFields) : Nat := widthOf f.ty.toNat / 8

/-- The lanes that take part in a word in any of its passes, those that come later among them (R22). -/
def allTakers (t : Team) (f : LaneFields) : Lanes := wholeMask t &&& guardSet t f.g1 &&& guardSet t f.g2

/-- The lanes that the word still has to serve: those saved after a fault or under way (R231), else those that take part in the passes
that are left. -/
def openLanes (t : Team) (f : LaneFields) : List Nat :=
  match t.lane.again with
  | some m => laneList t m
  | none => laneList t (allTakers t f &&& ~~~ wordLanes t.lane.passes)

/-- The open lanes with their addresses. -/
def laneAddrs (t : Team) (op : Nat) (f : LaneFields) : List (Nat × Nat) := (openLanes t f).map fun l => (l, laneAddr t op f l)

/-- Of some lanes those whose passes run now, and those whose passes come later, their register lines not held yet (R338). -/
def laneParts (t : Team) (xs : List (Nat × Nat)) : List (Nat × Nat) × List (Nat × Nat) :=
  xs.partition fun x => !t.lane.skip.getLsbD (x.1 / 32)

/-- The lanes that fail a check (R229): the first cause of the list that any lane raises, with the lanes that raise it. -/
def firstFailure (xs : List (Nat × Nat)) (check : Nat → Option Nat) : List Nat → Option (Nat × List (Nat × Nat))
  | [] => none
  | c :: cs =>
    match xs.filter fun x => check x.2 = some c with
    | [] => firstFailure xs check cs
    | hits => some (c, hits)

/-- The stop for lanes that fail a check (R229, R362); of the addresses of several it names that of the lowest (assumption log 85). -/
def checkStop (s : State) (c : Nat) (hits : List (Nat × Nat)) : Stop :=
  laneStop s c (hits.headD (0, 0)).2 (laneSet (hits.map (·.1)))

/-- The checks of a virtual form over its lanes (R229); a store or atomic then meets a group in error (R295). -/
def virtualCheck (s : State) (xs : List (Nat × Nat)) (w : Nat) (need : Right) : Option Stop :=
  match firstFailure xs (fun va => addrTrap s (focusWho s) va w need) [0x04, 0x05, 0x06, 0x07] with
  | some r => some (checkStop s r.1 r.2)
  | none =>
    if need = .r then none
    else match xs.find? fun x => (groupTrap s x.2).isSome with
      | some x => some { laneStop s 0x12 x.2 with detail := groupAt s (tagOf s.team.card.asid x.2) x.2 }
      | none => none

/-- The check of one local access (R93, R86, R94): bounds of the address and its tile, alignment, then the tile's owner. -/
def localTrap (s : State) (w la : Nat) : Option Nat :=
  if !inWindow s.team la then some 0x08
  else if la % w ≠ 0 then some 0x07
  else if (tileRec s (coreOf s.team) (tileOf la)).owner ≠ 0 then some 0x09
  else none

/-- The checks of a local form over its lanes (R229). -/
def localCheck (s : State) (xs : List (Nat × Nat)) (w : Nat) : Option Stop :=
  (firstFailure xs (localTrap s w) [0x08, 0x07, 0x09]).map fun r => checkStop s r.1 r.2

/-- Elements in an order the manual leaves open (R105): each next one is a free choice. -/
def anyOrder {α : Type} (s : State) : Nat → List α → List α
  | 0, xs => xs
  | n + 1, xs =>
    match xs[Config.freePick (draw s n) % xs.length]? with
    | some x => x :: anyOrder s n (xs.eraseIdx (Config.freePick (draw s n) % xs.length))
    | none => xs

/-- The lanes of one instruction in the order in which they act: a free choice when two of them name one location (R105), made once, as the
instruction begins. -/
def actOrder (s : State) (xs : List (Nat × Nat)) : List (Nat × Nat) :=
  if (xs.map (·.2)).eraseDups.length = xs.length then xs
  else anyOrder { s with fresh := s.team.lane.drawn.getD s.fresh } xs.length xs

/-- The state with the lanes of the head word that are still open, and whether its accesses are under way. -/
def setOpen (s : State) (xs : List (Nat × Nat)) (busy : Bool) : State :=
  setTeam s { s.team with lane := { s.team.lane with again := some (laneSet (xs.map (·.1))), busy := busy } }

/-- The least address among the lanes of one pass and 64 KiB page. -/
def faultVa (xs : List (Nat × Nat)) (k : Nat × Nat) : Nat :=
  let mine := xs.filter fun x => x.1 / 32 = k.1 && x.2 / 65536 = k.2
  (mine.map (·.2)).foldl min (mine.headD (0, 0)).2

/-- The records of lanes whose access met a translation fault (R231, R354, R355), one for each pass and 64 KiB page, and the stop
with the first of them and their number; the faulted lanes are left to be issued again. -/
def laneFault (s : State) (xs : List (Nat × Nat)) (source access : Nat) : State :=
  let t := s.team
  let e := t.lane.queue.headD { word := 0 }
  let keys := (xs.map fun x => (x.1 / 32, x.2 / 65536)).eraseDups
  let one (s : State) (k : Nat × Nat) : State :=
    let mine := xs.filter fun x => x.1 / 32 = k.1 && x.2 / 65536 = k.2
    let va := faultVa xs k
    putDefer s t.card.handle {
      kind := 1, source := sourceFor t va source, access := access, lane := true, pass := k.1
      lanes := (mine.map fun x => 2 ^ (x.1 % 32)).foldl (· + ·) 0
      va := va, asid := tagOf t.card.asid va, detail := wordDetail t e, iva := e.va }
  let s1 := keys.foldl one s
  let s2 := setTeam s1 { s1.team with
    lane := { s1.team.lane with again := some (laneSet (xs.map (·.1))), busy := false } }
  takeStop s2 { laneStop s2 0x13 (faultVa xs (keys.headD (0, 0))) with aux := keys.length }

/-- A load of virtual memory by the lanes of one word (R230, R231): every lane whose page is present reads and writes its
destination; it waits whole while a lane's access waits at its home. -/
def laneLoad (op : Nat) (f : LaneFields) (s : State) : Out :=
  laneWord op f s fun s =>
    let w := elemWidth f
    let who := focusWho s
    let all := laneAddrs s.team op f
    match (if s.team.lane.busy then none else virtualCheck s all w .r) with
    | some st => .next (takeStop s st)
    | none =>
      let xs := laneParts s.team all
      let got := xs.1.map fun x => (x, loadGot s who x.2 w)
      match got.find? fun g => g.2 = .held with
      | some g => .next (takeStop s (laneStop s 0x14 g.1.2))
      | none =>
        if got.any fun g => g.2 = .wait then
          .next ((got.filter fun g => g.2 = .wait).foldl (fun s g => askGate s who g.1.2) s)
        else
          let vals := got.filterMap fun g => match g.2 with
            | .value v => some (g.1.1, v)
            | _ => none
          let s1 := (got.filter fun g => g.2 ≠ .absent).foldl (fun s g => afterLoad s who g.1.2 f.hint.toNat) s
          let s2 := writeVec s1 f.ty.toNat f.d.toNat vals
          match (got.filter fun g => g.2 = .absent).map (·.1) with
          | [] => .next (popWord s2)
          | faulted => if xs.2.isEmpty then .next (laneFault s2 faulted 1 0) else .next (setOpen s2 (faulted ++ xs.2) true)

/-- The bytes that one lane writes. -/
structure LaneWrite where
  lane : Nat
  va : Nat
  data : Nat
deriving DecidableEq, Repr

/-- Of writes in their order, the last to each address. -/
def lastWriters : List LaneWrite → List LaneWrite
  | [] => []
  | a :: as => if as.any (fun b => b.va = a.va) then lastWriters as else a :: lastWriters as

/-- The writes of some lanes in their order, with one writer for each address, the last (R105). -/
def laneWrites1 (s : State) (f : LaneFields) (slot : Nat) (xs : List (Nat × Nat)) : List LaneWrite :=
  lastWriters (xs.map fun x => { lane := x.1, va := x.2, data := readOp s.team f slot f.ty.toNat x.1 })

/-- The buffer entries of one pass (R232, R352), whose lanes act in the order `xs`: one for each sector that they touch, all with the pass's
store sequence number; the lane mask is that of every lane of the pass on the sector's page (R355). -/
def passEntries (s : State) (f : LaneFields) (slot covers base pass : Nat) (xs : List (Nat × Nat)) : List SbEntry :=
  let t := s.team
  let w := elemWidth f
  let e := t.lane.queue.headD { word := 0 }
  let ws := laneWrites1 s f slot xs
  (xs.map fun x => sectorOf x.2).eraseDups.map fun sec =>
    let mine := ws.filter fun x => sectorOf x.va = sec
    let page := xs.filter fun x => x.2 / 65536 = sec / 65536
    { core := coreOf t, team := t.card.handle, asid := tagOf t.card.asid sec, sector := sec
      bytes := mine.flatMap fun x => (List.range w).map fun i => (x.va % 64 + i, BitVec.ofNat 8 (x.data / 256 ^ i))
      seq := t.ord.seq + 1, iva := e.va, source := sourceFor t sec 0, lane := true, pass := pass
      lanes := BitVec.ofNat 32 ((page.map fun x => 2 ^ (x.1 % 32)).foldl (· + ·) 0), covers := covers
      detail := wordDetail t e, word := base, code := e.word.toNat, strm := f.hint = 1 }

/-- The state with a pass of the head word marked as completed. -/
def markPass (s : State) (p : Nat) : State :=
  setTeam s { s.team with lane := { s.team.lane with passes := s.team.lane.passes ||| (1#32 <<< p) } }

/-- The passes of a store that are left, in ascending order (R232), its lanes acting in the order `xs`: each takes a store sequence number,
with writes or without, waits for room for its sectors (R352), and stops the team when its share is full with a held entry in it (R353). -/
def storePasses (f : LaneFields) (slot covers base : Nat) (xs : List (Nat × Nat)) : List Nat → State → Out
  | [], s => .next (popWord s)
  | p :: ps, s =>
    let es := passEntries s f slot covers base p (xs.filter fun x => x.1 / 32 = p)
    match (if es.isEmpty then .ok else roomFor s (focusWho s) es.length) with
    | .ok => storePasses f slot covers base xs ps (markPass (pushEntries (takeSeq s) es) p)
    | .held =>
      let s1 := setTeam s { s.team with lane := { s.team.lane with busy := false } }
      .next (takeStop s1 (laneStop s1 0x14 (heldVa s1 s1.team.card.handle)))
    | .wait =>
      .next (drainTeam (setTeam s { s.team with lane := { s.team.lane with busy := s.team.lane.passes ≠ 0 } }) s.team.card.handle)

/-- The passes of a word that are left to run now, in ascending order (R22). -/
def passesLeft (t : Team) : List Nat :=
  (List.range 32).filter fun p => hasWord (wholeMask t) p && !t.lane.passes.getLsbD p && !t.lane.skip.getLsbD p

/-- A store to virtual memory by the lanes of one word (R232, R233), its data in an operand field: its checks (R229) are made as it begins,
and again for the lanes that are left where it goes on after a stop between two passes (R347; assumption log 17). -/
def laneStore (op slot : Nat) (rel : Bool) (f : LaneFields) (s : State) : Out :=
  laneWord op f s fun s =>
    let w := elemWidth f
    let t := s.team
    let xs := laneAddrs t op f
    match (if t.lane.busy then none else virtualCheck s xs w .w) with
    | some st => .next (takeStop s st)
    | none =>
      if rel && !t.lane.busy && !xs.isEmpty && hasHeld s t.card.handle then
        .next (takeStop s (laneStop s 0x14 (heldVa s t.card.handle)))
      else
        let base := t.ord.seq + 1 - popBits 32 t.lane.passes.toNat
        storePasses f slot (if rel then base else t.ord.cover) base (actOrder s xs) (passesLeft t) s

/-- A load from local memory (R229, R230): at once, from the core on which the team stands. -/
def localLoad (op : Nat) (f : LaneFields) (s : State) : Out :=
  laneWord op f s fun s =>
    let w := elemWidth f
    let all := laneAddrs s.team op f
    match (if s.team.lane.busy then none else localCheck s all w) with
    | some st => .next (takeStop s st)
    | none =>
      .next (popWord (writeVec s f.ty.toNat f.d.toNat
        ((laneParts s.team all).1.map fun x => (x.1, ofBytes (lmBytes s (coreOf s.team) x.2 w)))))

/-- A store to local memory (R229, R232): at once, and never deferred, behind the stores that a release fence covers for its crew. -/
def localStore (op slot : Nat) (f : LaneFields) (s : State) : Out :=
  laneWord op f s fun s =>
    let w := elemWidth f
    let all := laneAddrs s.team op f
    match (if s.team.lane.busy then none else localCheck s all w) with
    | some st => .next (takeStop s st)
    | none =>
      match (if all.isEmpty then .ok else crewCover s) with
      | .held => .next (takeStop s (laneStop s 0x14 (heldVa s s.team.card.handle)))
      | .wait => .next (drainTeam s s.team.card.handle)
      | .ok =>
        let now := (laneParts s.team all).1.map (·.1)
        .next (popWord (((laneWrites1 s f slot (actOrder s all)).filter fun x => now.contains x.lane).foldl
          (fun s x => lmWrite s (coreOf s.team) x.va (toBytes w x.data)) s))

/-- The atomic type of a lane type code (R235). -/
def laneAmoKind (ty : Nat) : AmoKind :=
  match ty with
  | 0 => .s32 | 1 => .z32 | 2 => .w64 | 3 => .z64 | _ => .f32

/-- What the lanes of a `vamo` have come to: the lanes that wait, the lanes that met a translation fault, and a stop. -/
structure AmoRun where
  waits : List (Nat × Nat) := []
  faults : List (Nat × Nat) := []
  stop : Option Stop := none
deriving DecidableEq, Repr

/-- One lane's atomic (R235): its old value goes to its destination. -/
def amoLane (f : LaneFields) (r : State × AmoRun) (x : Nat × Nat) : State × AmoRun :=
  let s := r.1
  let t := s.team
  let ty := f.ty.toNat
  let iva := match t.lane.queue with
    | e :: _ => e.va
    | [] => 0
  if r.2.stop.isSome then (s, { r.2 with waits := r.2.waits ++ [x] })
  else
    let opnd := readOp t f 3 ty x.1
    let cmp := readOp t f 0 ty x.1
    match teamAtomic s x.1 (laneAmoKind ty) (BitVec.ofNat 3 f.e.toNat) (bit f.md.toNat 1) x.2 opnd cmp iva with
    | .done s1 old =>
      let s2 := if kindAt s (tagOf t.card.asid x.2) x.2 = 2 then s1 else hintLine s1 (focusWho s) x.2 (f.hint = 1)
      (writeVec s2 ty f.d.toNat [(x.1, old)], r.2)
    | .wait s1 => (s1, { r.2 with waits := r.2.waits ++ [x] })
    | .absent => (s, { r.2 with faults := r.2.faults ++ [x] })
    | .held s1 va => (s1, { r.2 with waits := r.2.waits ++ [x], stop := some (laneStop s1 0x14 va) })
    | .groupError g =>
      let s1 := dropAtom s x.1
      (s1, { r.2 with waits := r.2.waits ++ [x], stop := some { laneStop s1 0x12 x.2 with detail := g } })

/-- The order of a `vamo`'s lanes: ascending while any of them names a group window, whose root orders them, else as R105 leaves
open. -/
def amoOrder (s : State) (xs : List (Nat × Nat)) : List (Nat × Nat) :=
  if s.team.lane.busy || xs.any fun x => kindAt s (tagOf s.team.card.asid x.2) x.2 = 2 then xs else actOrder s xs

/-- VLD (R230). -/
def execVld (f : LaneFields) (s : State) : Out := laneLoad 0x201 f s
/-- VST (R232, R233): modifier[1] makes it a release. -/
def execVst (f : LaneFields) (s : State) : Out := laneStore 0x202 3 (bit f.md.toNat 1) f s
/-- VLDS (R230). -/
def execVlds (f : LaneFields) (s : State) : Out := laneLoad 0x203 f s
/-- VSTS (R232). -/
def execVsts (f : LaneFields) (s : State) : Out := laneStore 0x204 4 false f s
/-- VLDX (R230). -/
def execVldx (f : LaneFields) (s : State) : Out := laneLoad 0x205 f s
/-- VSTX (R232). -/
def execVstx (f : LaneFields) (s : State) : Out := laneStore 0x206 4 false f s
/-- VLDM (R229, R230). -/
def execVldm (f : LaneFields) (s : State) : Out := localLoad 0x207 f s
/-- VSTM (R229, R232). -/
def execVstm (f : LaneFields) (s : State) : Out := localStore 0x208 3 f s
/-- VAMO (R235, R236): each lane one atomic; lanes that wait are tried again, and a translation fault stops the team once every other
lane is done (R231). -/
def execVamo (f : LaneFields) (s : State) : Out :=
  laneWord 0x209 f s fun s =>
    let all := laneAddrs s.team 0x209 f
    match (if s.team.lane.busy then none else virtualCheck s all (elemWidth f) .rw) with
    | some st => .next (takeStop s st)
    | none =>
      let xs := laneParts s.team all
      let r := (amoOrder s xs.1).foldl (amoLane f) (s, {})
      match r.2.stop with
      | some st => .next (takeStop (setOpen r.1 (r.2.waits ++ r.2.faults ++ xs.2) false) st)
      | none =>
        if !r.2.waits.isEmpty || !xs.2.isEmpty then .next (setOpen r.1 (r.2.waits ++ r.2.faults ++ xs.2) true)
        else if !r.2.faults.isEmpty then .next (laneFault r.1 r.2.faults 2 2)
        else .next (popWord r.1)

/-- One lane's prefetch (R237): the four sectors of the line that its address lies in come near the team, into the L1 too as the hint
allows (R145), and with .w the sector of the address in a state that permits a write. -/
def prefLane (f : LaneFields) (s : State) (va : Nat) : State :=
  let who := focusWho s
  if addrTrap s who va 1 .r = none && gateAt s who va = .go then
    let s1 := (List.range 4).foldl (fun s k =>
      let x := va / 256 * 256 + 64 * k
      if gateAt s who x = .go then afterLoad s who x f.hint.toNat else s) s
    if bit f.md.toNat 0 && addrTrap s1 who va 1 .w = none then touchWrite s1 who va else s1
  else s

/-- VPREF (R237): each lane whose address, region and page allow it brings its line near; nothing else changes. -/
def execVpref (f : LaneFields) (s : State) : Out :=
  laneDone 0x20A f s fun s => (laneAddrs s.team 0x20A f).foldl (fun s x => prefLane f s x.2) s

end Sys2Proof.Machine
end

