-- ==== Sys2Proof/Machine/ScalarAlu.lean ====
section
/-! DEFINITION. Scalar integer arithmetic, immediates and constant builders (R161, R165 to R168). -/

namespace Sys2Proof.Machine

/-- A register-register operation: both sources read, the result written, the PC advanced (R161, R165). -/
def alu2 (f : Word → Word → Word) (d a b : SReg) (s : State) : Out :=
  .next (finish s d (f (readReg s a) (readReg s b)))

/-- An operation on one register (R165). -/
def alu1 (f : Word → Word) (d a : SReg) (s : State) : Out := .next (finish s d (f (readReg s a)))

/-- A 0 or 1 result. -/
def flagWord (c : Bool) : Word := if c then 1 else 0

/-- The high 64 bits of a signed product (R165). -/
def mulHighS (a b : Word) : Word := BitVec.ofInt 64 (a.toInt * b.toInt / 2 ^ 64)
/-- The high 64 bits of an unsigned product (R165). -/
def mulHighZ (a b : Word) : Word := BitVec.ofNat 64 (a.toNat * b.toNat / 2 ^ 64)
/-- Signed division toward zero; by 0 it gives all ones, and −2^63 by −1 gives −2^63 (R166). -/
def divSigned (a b : Word) : Word := if b = 0 then 0xFFFFFFFFFFFFFFFF else BitVec.ofInt 64 (a.toInt.tdiv b.toInt)
/-- Unsigned division; by 0 it gives all ones (R166). -/
def divUnsigned (a b : Word) : Word := if b = 0 then 0xFFFFFFFFFFFFFFFF else BitVec.ofNat 64 (a.toNat / b.toNat)
/-- Signed remainder with the sign of the dividend; by 0 it gives the dividend (R166). -/
def remSigned (a b : Word) : Word := if b = 0 then a else BitVec.ofInt 64 (a.toInt.tmod b.toInt)
/-- Unsigned remainder; by 0 it gives the dividend (R166). -/
def remUnsigned (a b : Word) : Word := if b = 0 then a else BitVec.ofNat 64 (a.toNat % b.toNat)
/-- A shift amount: bits [63:6] are ignored (R165). -/
def amount (b : Word) : Nat := b.toNat % 64

/-- ADD (R165). -/
def execAdd (d a b : SReg) (s : State) : Out := alu2 (fun x y => x + y) d a b s
/-- SUB (R165). -/
def execSub (d a b : SReg) (s : State) : Out := alu2 (fun x y => x - y) d a b s
/-- MUL (R165). -/
def execMul (d a b : SReg) (s : State) : Out := alu2 (fun x y => x * y) d a b s
/-- MULH_S (R165). -/
def execMulhS (d a b : SReg) (s : State) : Out := alu2 mulHighS d a b s
/-- MULH_Z (R165). -/
def execMulhZ (d a b : SReg) (s : State) : Out := alu2 mulHighZ d a b s
/-- DIV_S (R165, R166). -/
def execDivS (d a b : SReg) (s : State) : Out := alu2 divSigned d a b s
/-- DIV_Z (R165, R166). -/
def execDivZ (d a b : SReg) (s : State) : Out := alu2 divUnsigned d a b s
/-- REM_S (R165, R166). -/
def execRemS (d a b : SReg) (s : State) : Out := alu2 remSigned d a b s
/-- REM_Z (R165, R166). -/
def execRemZ (d a b : SReg) (s : State) : Out := alu2 remUnsigned d a b s
/-- AND (R165). -/
def execAnd (d a b : SReg) (s : State) : Out := alu2 (fun x y => x &&& y) d a b s
/-- OR (R165). -/
def execOr (d a b : SReg) (s : State) : Out := alu2 (fun x y => x ||| y) d a b s
/-- XOR (R165). -/
def execXor (d a b : SReg) (s : State) : Out := alu2 (fun x y => x ^^^ y) d a b s
/-- SHL (R165). -/
def execShl (d a b : SReg) (s : State) : Out := alu2 (fun x y => x <<< amount y) d a b s
/-- SHR (R165). -/
def execShr (d a b : SReg) (s : State) : Out := alu2 (fun x y => x >>> amount y) d a b s
/-- SRA (R165). -/
def execSra (d a b : SReg) (s : State) : Out := alu2 (fun x y => x.sshiftRight (amount y)) d a b s
/-- MIN_S (R165). -/
def execMinS (d a b : SReg) (s : State) : Out := alu2 (fun x y => if x.toInt ≤ y.toInt then x else y) d a b s
/-- MIN_Z (R165). -/
def execMinZ (d a b : SReg) (s : State) : Out := alu2 (fun x y => if x.toNat ≤ y.toNat then x else y) d a b s
/-- MAX_S (R165). -/
def execMaxS (d a b : SReg) (s : State) : Out := alu2 (fun x y => if x.toInt ≤ y.toInt then y else x) d a b s
/-- MAX_Z (R165). -/
def execMaxZ (d a b : SReg) (s : State) : Out := alu2 (fun x y => if x.toNat ≤ y.toNat then y else x) d a b s
/-- SLT_S (R165). -/
def execSltS (d a b : SReg) (s : State) : Out := alu2 (fun x y => flagWord (x.toInt < y.toInt)) d a b s
/-- SLT_Z (R165). -/
def execSltZ (d a b : SReg) (s : State) : Out := alu2 (fun x y => flagWord (x.toNat < y.toNat)) d a b s
/-- SEQ (R165). -/
def execSeq (d a b : SReg) (s : State) : Out := alu2 (fun x y => flagWord (x = y)) d a b s
/-- CLZ (R165): 64 for 0. -/
def execClz (d a : SReg) (s : State) : Out := alu1 (fun x => BitVec.ofNat 64 (clzBits 64 x.toNat)) d a s
/-- CTZ (R165): 64 for 0. -/
def execCtz (d a : SReg) (s : State) : Out := alu1 (fun x => BitVec.ofNat 64 (ctzBits 64 x.toNat)) d a s
/-- POPC (R165). -/
def execPopc (d a : SReg) (s : State) : Out := alu1 (fun x => BitVec.ofNat 64 (popBits 64 x.toNat)) d a s
/-- SEL (R165): the old destination selects. -/
def execSel (d a b : SReg) (s : State) : Out :=
  .next (finish s d (if readReg s d ≠ 0 then readReg s a else readReg s b))

/-- ADDI (R167). -/
def execAddi (d a : SReg) (imm : BitVec 12) (s : State) : Out := alu1 (fun x => x + imm.signExtend 64) d a s
/-- ANDI (R167). -/
def execAndi (d a : SReg) (imm : BitVec 12) (s : State) : Out := alu1 (fun x => x &&& imm.signExtend 64) d a s
/-- ORI (R167). -/
def execOri (d a : SReg) (imm : BitVec 12) (s : State) : Out := alu1 (fun x => x ||| imm.signExtend 64) d a s
/-- XORI (R167). -/
def execXori (d a : SReg) (imm : BitVec 12) (s : State) : Out := alu1 (fun x => x ^^^ imm.signExtend 64) d a s
/-- SHLI (R167). -/
def execShli (d a : SReg) (amt : BitVec 6) (s : State) : Out := alu1 (fun x => x <<< amt.toNat) d a s
/-- SHRI (R167). -/
def execShri (d a : SReg) (amt : BitVec 6) (s : State) : Out := alu1 (fun x => x >>> amt.toNat) d a s
/-- SRAI (R167). -/
def execSrai (d a : SReg) (amt : BitVec 6) (s : State) : Out := alu1 (fun x => x.sshiftRight amt.toNat) d a s
/-- SLTI (R167). -/
def execSlti (d a : SReg) (imm : BitVec 12) (s : State) : Out :=
  alu1 (fun x => flagWord (x.toInt < imm.toInt)) d a s

/-- LIMM (R168). -/
def execLimm (d : SReg) (imm : BitVec 19) (s : State) : Out := .next (finish s d (imm.signExtend 64))
/-- LSH (R168). -/
def execLsh (d : SReg) (imm : BitVec 19) (s : State) : Out := alu1 (fun x => (x <<< 19) ||| imm.zeroExtend 64) d d s
/-- LPC (R168). -/
def execLpc (d : SReg) (imm : BitVec 19) (s : State) : Out := .next (finish s d (s.team.pc + imm.signExtend 64))

end Sys2Proof.Machine
end

