-- ==== Sys2Proof/Machine/Ecdsa.lean ====
section
/-! DEFINITION. ECDSA on P-256 over SHA-256 (R441): the check of a configuration record's signature. The manual names the scheme; the
curve and the check are those of its public standard, FIPS 186 (assumption log 109). -/

namespace Sys2Proof.Machine

/-- The prime of the field. -/
def curveP : Nat := 2 ^ 256 - 2 ^ 224 + 2 ^ 192 + 2 ^ 96 - 1
/-- The order of the base point. -/
def curveN : Nat := 0xFFFFFFFF00000000FFFFFFFFFFFFFFFFBCE6FAADA7179E84F3B9CAC2FC632551
/-- The curve is y² = x³ - 3x + b. -/
def curveB : Nat := 0x5AC635D8AA3A93E7B3EBBD55769886BC651D06B0CC53B0F63BCE3C3E27D2604B

/-- A point (x / z², y / z³); the one at infinity has z = 0. -/
structure Point where
  x : Nat
  y : Nat
  z : Nat
deriving DecidableEq, Repr

/-- The point at infinity. -/
def Point.zero : Point := { x := 1, y := 1, z := 0 }

/-- The base point. -/
def basePoint : Point where
  x := 0x6B17D1F2E12C4247F8BCE6E563A440F277037D812DEB33A0F4A13945D898C296
  y := 0x4FE342E2FE1A7F9B8EE7EB4A7C0F9E162BCE33576B315ECECBB6406837BF51F5
  z := 1

/-- A product and a difference in the field. -/
def mulP (a b : Nat) : Nat := a * b % curveP
def subP (a b : Nat) : Nat := (a + (curveP - b)) % curveP

/-- Twice a point. -/
def Point.double (p : Point) : Point :=
  let d := mulP p.z p.z
  let g := mulP p.y p.y
  let b := mulP p.x g
  let a := mulP 3 (mulP (subP p.x d) ((p.x + d) % curveP))
  let x := subP (mulP a a) (mulP 8 b)
  { x := x, y := subP (mulP a (subP (mulP 4 b) x)) (mulP 8 (mulP g g)), z := mulP (mulP 2 p.y) p.z }

/-- The sum of two points. -/
def Point.add (p q : Point) : Point :=
  if p.z = 0 then q
  else if q.z = 0 then p
  else
    let zp := mulP p.z p.z
    let zq := mulP q.z q.z
    let u := mulP p.x zq
    let t := mulP p.y (mulP zq q.z)
    let h := subP (mulP q.x zp) u
    let r := subP (mulP q.y (mulP zp p.z)) t
    if h = 0 then (if r = 0 then p.double else Point.zero)
    else
      let hh := mulP h h
      let hhh := mulP h hh
      let v := mulP u hh
      let x := subP (subP (mulP r r) hhh) (mulP 2 v)
      { x := x, y := subP (mulP r (subP v x)) (mulP t hhh), z := mulP h (mulP p.z q.z) }

/-- `a` times one point and `b` times another, of the numbers' lowest `n` bits, from the top bit on. -/
def twoTimes (p q : Point) (a b : Nat) : Nat → Point → Point
  | 0, r => r
  | n + 1, r =>
    let d := r.double
    let e := if a / 2 ^ n % 2 = 1 then d.add p else d
    twoTimes p q a b n (if b / 2 ^ n % 2 = 1 then e.add q else e)

/-- A power modulo `m`, of an exponent's lowest `n` bits, from the top bit on. -/
def powMod (m a e : Nat) : Nat → Nat → Nat
  | 0, r => r
  | n + 1, r =>
    let d := r * r % m
    powMod m a e n (if e / 2 ^ n % 2 = 1 then d * a % m else d)

/-- The inverse modulo a prime. -/
def inverseMod (m a : Nat) : Nat := powMod m a (m - 2) 256 1

/-- A big-endian number. -/
def beNat (bs : List Byte) : Nat := bs.foldl (fun n b => n * 256 + b.toNat) 0

/-- Whether a signature, r then s, of a message is valid under a public key, x then y (R441): 32 bytes each, big-endian. -/
def signatureValid (key message signature : List Byte) : Bool :=
  let q : Point := { x := beNat (key.take 32), y := beNat ((key.drop 32).take 32), z := 1 }
  let r := beNat (signature.take 32)
  let s := beNat ((signature.drop 32).take 32)
  let onCurve := decide (q.x < curveP) && decide (q.y < curveP)
    && decide (mulP q.y q.y = (mulP q.x (subP (mulP q.x q.x) 3) + curveB) % curveP)
  let w := inverseMod curveN s
  let e := beNat (sha256 message)
  let sum := twoTimes basePoint q (e * w % curveN) (r * w % curveN) 256 Point.zero
  onCurve && decide (0 < r) && decide (r < curveN) && decide (0 < s) && decide (s < curveN)
    && decide (sum.z ≠ 0) && decide (mulP sum.x (inverseMod curveP (mulP sum.z sum.z)) % curveN = r)

end Sys2Proof.Machine
end

