-- ==== Sys2Proof/Machine/Tramontane.lean ====
section
/-! DEFINITION. Tramontane: bring-up (R436), clocks (R438), the mailbox and its operations (R437 to R447), wear (R446), the scrubber
(R442), uncorrectable errors (R368) and the loss of a cluster (R370). -/

namespace Sys2Proof.Machine

/-- The mask of live clusters (R437). -/
def liveMask (s : State) : Nat :=
  (List.range 64).foldl (fun n c => if (clusterRec s c).lost then n else n + 2 ^ c) 0

/-- The mailbox status word (R437). -/
def mailboxStatus (s : State) : Nat :=
  s.fw.phase % 16 * 2 ^ 60 + s.fw.step % 256 * 2 ^ 52 + b2n s.fw.busy * 2 ^ 31 + s.fw.result % 256

/-- The Levanter status word (R445). -/
def levStatus (s : State) : Nat :=
  let l := s.fw.lev
  let entry := if l.state = 3 then l.diverged else if l.state = 0 then 0 else l.count
  l.state % 16 * 2 ^ 60 + entry % 2 ^ 32

/-- The VA of the device queue's ring (R371): a free choice in the global range that leaves the aperture's region out. -/
def deviceRing : Nat := 0xF0000000000000 + Config.ringRegion % (2 ^ 31 - 1) * 2 ^ 21

/-- log2 of the device queue's slots (R371): a free choice that fits a region. -/
def deviceRingK : Nat := 1 + Config.ringSlots % 13

/-- The bytes of the mailbox, 16 KiB, as every host reads them (R437): its words, the request area, and from 0x1000 on the response area. -/
def mailboxBytes (s : State) : List Byte :=
  toBytes 8 (mailboxStatus s) ++ toBytes 8 (liveMask s) ++ toBytes 8 (levStatus s) ++ toBytes 8 deviceRing ++ toBytes 8 deviceRingK
    ++ List.replicate 0xD8 0 ++ fit 0x100 s.fw.request ++ List.replicate 0xE00 0 ++ fit 0x3000 s.fw.response

/-- An 8-byte word of the mailbox. -/
def mailboxWord (s : State) (off : Nat) : Nat := field (mailboxBytes s) off 8

/-- An operation's end (R437): its result, its response, and busy cleared. -/
def mailDone (s : State) (result : Nat) (response : List Byte) : State :=
  setFw s { s.fw with busy := false, result := result, response := response }

/-- An operand of a request, from the first 8 B after the opcode's on. -/
def reqField (s : State) (off n : Nat) : Nat := field s.fw.request off n

/-- A mailbox operation (R436, R437), once a host has set busy: an opcode that no operation has ends with result 1; before ready none is available, and after a
failed bring-up attestation and the error log alone are. The operation answers a result other than 0, or its response and state. -/
def mailbox (s : State) (op : Nat) (body : State → Except Nat (List Byte × State)) : Out :=
  let code := reqField s 0 2
  if !s.fw.busy then .next s
  else if code = 0 || 0x0B < code then .next (mailDone s 1 [])
  else if code ≠ op then .next s
  else if s.fw.phase = 2 || (s.fw.phase = 3 && (op = 1 || op = 0x0B)) then
    match body s with
    | .ok r => .next (mailDone r.2 0 r.1)
    | .error e => .next (mailDone s e [])
  else .next (mailDone s 4 [])

/-- A result other than 0 where a condition does not hold. -/
def mailCheck (ok : Bool) (result : Nat) : Except Nat Unit := if ok then .ok () else .error result

/-- The attestation report (R440). -/
def attestReport (s : State) (nonce : List Byte) : List Byte :=
  fit 32 nonce ++ fit 32 Config.romDigest ++ (if s.fw.cfg.raw = [] then List.replicate 32 0 else sha256 s.fw.cfg.raw)
    ++ toBytes 8 (liveMask s) ++ toBytes 4 s.fw.boots ++ toBytes 4 s.fw.days ++ List.replicate 16 0

/-- ATTEST (R437, R440). -/
def execAttest (s : State) : Out :=
  mailbox s 1 fun s =>
    let r := attestReport s ((s.fw.request.drop 8).take 32)
    .ok (r ++ fit 64 (Config.signature r), s)

/-- CERTIFICATE (R437): its length first. -/
def execCertificate (s : State) : Out :=
  mailbox s 2 fun s => .ok (toBytes 4 Config.certificate.length ++ Config.certificate, s)

/-- ENROL_KEY (R437, R441): accepted once; which result a second request gets is a free choice between 2 and 4. -/
def execEnrolKey (s : State) : Out :=
  mailbox s 3 fun s =>
    match s.fw.key with
    | some _ => .error (if Config.freePick (draw s 0) % 2 = 0 then 2 else 4)
    | none => .ok ([], setFw s { s.fw with key := some (fit 64 (s.fw.request.drop 8)) })

/-- Whether every field of a configuration record is in its range and its reserved bytes are zero (R441). -/
def configOk (s : State) (r : List Byte) : Bool :=
  let within (off n lo hi : Nat) : Bool := decide (lo ≤ field r off n) && decide (field r off n ≤ hi)
  field r 0 4 = 1 && decide (s.fw.cfg.seq < field r 4 4) && within 8 4 12000 24000 && within 0x0C 1 0 64 && within 0x0D 1 1 99
    && within 0x0E 1 1 49 && field r 0x0F 1 = 0 && within 0x10 2 1 100 && within 0x12 2 1 200 && within 0x14 4 1 999
    && field r 0x18 40 = 0

/-- A configuration record's fields (R441). -/
def configOf (r : List Byte) : FwConfig where
  raw := r
  seq := field r 4 4
  cap := field r 8 4
  scrub := field r 0x0C 1
  ring := field r 0x0D 1
  bond := field r 0x0E 1
  laser := field r 0x10 2
  sram := field r 0x12 2
  dram := field r 0x14 4

/-- CONFIGURE (R441). -/
def execConfigure (s : State) : Out :=
  mailbox s 4 fun s => do
    let r := fit 64 (s.fw.request.drop 8)
    match s.fw.key with
    | none => .error 4
    | some key =>
      mailCheck (signatureValid key r (fit 64 (s.fw.request.drop 0x48))) 3
      mailCheck (configOk s r) 2
      .ok ([], setFw s { s.fw with cfg := configOf r })

/-- Tramontane reading a tensor or its record in an address space (R442). -/
def scrubWho (s : State) (asid va : Nat) : Who :=
  let tag := tagOf asid va
  hwWho (if tag = 0 then eGdom (tableEntry s 0 va) else asidDom s tag) asid

/-- Whether bytes can be read by the scrubber: their regions give R and their pages are present. -/
def scrubReads (s : State) (asid va n : Nat) : Bool :=
  decide (va + n ≤ 2 ^ 56) && (rangeTrap s (scrubWho s asid va) va n .r).isNone && present s (scrubWho s asid va) va n

/-- The shape record of a scrubber entry, when it can be read and is in order (R99, R442). -/
def scrubShape (s : State) (asid va : Nat) : Option Shape :=
  let r := shapeOf (readBytes s (scrubWho s asid va) va 192)
  if va % 64 = 0 && scrubReads s asid va 192 && shapeOk r && r.hasDigest then some r else none

/-- SCRUB_ADD (R442): the lowest entry number that is free. -/
def execScrubAdd (s : State) : Out :=
  mailbox s 5 fun s => do
    let asid := reqField s 8 2
    let va := reqField s 0x10 8
    mailCheck (decide (asid < 2 ^ 14) && asidExists s asid && (scrubShape s asid va).isSome) 2
    match (List.range Config.scrubEntries).find? fun k => !s.fw.scrubs.any (·.entry = k) with
    | none => .error 2
    | some k =>
      .ok (toBytes 8 k, setFw s { s.fw with scrubs := s.fw.scrubs ++ [{ entry := k, asid := asid, recVa := va }] })

/-- SCRUB_REMOVE (R442). -/
def execScrubRemove (s : State) : Out :=
  mailbox s 6 fun s => do
    let k := reqField s 8 8
    mailCheck (s.fw.scrubs.any (·.entry = k)) 2
    .ok ([], setFw s { s.fw with scrubs := s.fw.scrubs.filter (·.entry ≠ k) })

/-- The job of a counter VA (R388, R444). -/
def jobAt (s : State) (va : Nat) : Option Level := s.sched.levels.find? fun l => l.kind = 3 && l.va = va && decide (va ≠ 0)

/-- Whether a log buffer lies in the global range (R444). -/
def logRange (va n : Nat) : Bool := bits va 52 4 = 15 && decide (va + n ≤ 2 ^ 56)

/-- Whether Levanter is recording or replaying. -/
def levBusy (s : State) : Bool := s.fw.lev.state = 1 || s.fw.lev.state = 2

/-- RECORD_START (R444). -/
def execRecordStart (s : State) : Out :=
  mailbox s 7 fun s => do
    let log := reqField s 0x10 8
    let n := reqField s 0x18 8
    match jobAt s (reqField s 8 8) with
    | none => .error 2
    | some j =>
      mailCheck (logRange log n && !levBusy s) 2
      .ok ([], setLev s { state := 1, job := j.id, log := log, bytes := n })

/-- RECORD_STOP (R444): the number of entries, and the overflow bit. -/
def execRecordStop (s : State) : Out :=
  mailbox s 8 fun s => do
    let l := s.fw.lev
    mailCheck (l.state = 1 || l.state = 4) 2
    .ok (toBytes 8 l.count ++ toBytes 8 (b2n l.overflow), setLev s { l with state := 0 })

/-- REPLAY_START (R445): an empty log is replayed at once. -/
def execReplayStart (s : State) : Out :=
  mailbox s 9 fun s => do
    let log := reqField s 0x10 8
    let n := reqField s 0x18 8
    match jobAt s (reqField s 8 8) with
    | none => .error 2
    | some j =>
      mailCheck (logRange log (64 * n) && !levBusy s) 2
      .ok ([], setLev s { state := if n = 0 then 5 else 2, job := j.id, log := log, bytes := 64 * n })

/-- WEAR_READ (R446): the days, then each indicator's last values as (indicator, unit, value). -/
def execWearRead (s : State) : Out :=
  mailbox s 0x0A fun s =>
    .ok (toBytes 8 s.fw.days ++ s.fw.wear.flatMap (fun w => toBytes 4 w.1 ++ toBytes 4 w.2.1 ++ toBytes 8 w.2.2), s)

/-- An entry of the error log as 64 bytes (R447). -/
def logBytes (e : LogEntry) : List Byte :=
  toBytes 8 e.seq ++ toBytes 1 e.kind ++ toBytes 1 e.cluster ++ toBytes 2 e.asid ++ toBytes 4 e.detail ++ toBytes 8 e.addr
    ++ toBytes 8 e.aux ++ List.replicate 32 0

/-- ERROR_LOG_READ (R447): up to 64 entries from a place of the ring on. -/
def execErrorLogRead (s : State) : Out :=
  mailbox s 0x0B fun s => do
    let k := reqField s 8 8
    mailCheck (decide (k < Config.errorLog)) 2
    let at_ (i : Nat) : Option LogEntry := s.fw.log.find? fun e => (e.seq - 1) % Config.errorLog = (k + i) % Config.errorLog
    .ok (((List.range 64).filterMap at_).flatMap logBytes, s)

/-- Bring-up ended at a step that fails the module (R436). -/
def bringFails (s : State) (step : Nat) : State := setFw s { s.fw with phase := 3, step := step }

/-- Step 3 of bring-up (R399, R436): a spare for each group that does not tune, up to 4 on a bus; and the clusters without one. -/
def giveSpares (groups : List (Nat × Nat)) : List (Nat × Nat) × List Nat :=
  groups.foldl (fun r g =>
    if (r.1.filter (·.1 = g.1)).length < 4 then (r.1 ++ [g], r.2) else (r.1, r.2 ++ [g.2])) ([], [])

/-- Clusters recorded as lost at a step of bring-up: logged, and left out of every domain (R436, R447). -/
def bringLost (s : State) (lost : List Nat) : State :=
  lost.eraseDups.foldl (fun s c =>
    let r := clusterRec s c
    if 64 ≤ c || r.lost then s else logError (setCluster s c { r with domain := 8, lost := true }) 3 c 0 0 0 0) s

/-- The clusters that the sensors report failing a step. -/
def failedAt (s : State) (step : Nat) : List Nat := (s.fw.report.failed.filter (·.1 = step)).map (·.2)

/-- Step 8 for a live cluster (R436, R438): in domain 0, at the highest clock step that its margin allows. -/
def setLive (s : State) (c : Nat) : State :=
  let r := clusterRec s c
  let clock := max 12 (min 24 (((s.fw.report.clocks.find? (·.1 = c)).map (·.2)).getD 24))
  if r.lost then s else setCluster s c { r with domain := 0, clock := clock, target := clock }

/-- The device queue (R371): its region, its pages and its control block. -/
def deviceQueue (s : State) : State :=
  let home := ((List.range 64).find? fun c => !(clusterRec s c).lost).getD 0
  let entry : BitVec 64 := BitVec.ofNat 64 (2 ^ 35 + home * 2 ^ 9 + 4 * 2 ^ 5 + 7)
  let s1 := (setRegion s 0 (regionNo deviceRing) entry false).getD s
  let pages := (256 + 128 * 2 ^ deviceRingK + 65535) / 65536
  let s2 := (List.range pages).foldl (fun s i => (mapPage s 0 (deviceRing + 65536 * i) none true i).getD s) s1
  let q : Queue := {
    id := { cluster := 0, index := 0 }, kind := 2, openPost := false, job := 0, asid := 0, prio := 7, ring := deviceRing
    k := deviceRingK }
  putQueue { s2 with sched := { s2.sched with queues := [q] } } q

/-- The turn-round of each bus as step 4 measures it (R392, R436): the flight time in whole slots, and 2. -/
def busWindow (s : State) : List Nat := (List.range 8).map fun b => s.fw.report.flight.getD b 0 + 2

/-- What a step of bring-up does (R436). Step 7 writes zero to every memory, and the tables and the ports are empty with step 8. -/
def bringStep (s : State) (step : Nat) : State :=
  let s := setFw s { s.fw with phase := 1, step := step }
  let r := s.fw.report
  match step with
  | 1 => if r.romOk then s else bringFails s 1
  | 2 => if r.fibres < 22 then bringFails s 2 else s
  | 3 =>
    let g := giveSpares r.spares
    bringLost { s with fab := { s.fab with spares := g.1 } } g.2
  | 4 => if (busWindow s).any (24 < ·) then bringFails s 4 else { s with fab := { s.fab with window := busWindow s } }
  | 7 =>
    bringLost { s with
      team := {}, others := [], mem := [], lm := [], tiles := [], sb := [], posted := [], cores := {}, hand := [], eng := {}
      fab := { window := s.fab.window, spares := s.fab.spares } } (failedAt s 7)
  | 8 => deviceQueue ((List.range 64).foldl setLive { s with xl := {}, sched := {}, link := {}, hostp := { far := s.hostp.far } })
  | 9 => setFw s { s.fw with phase := 2 }
  | n => bringLost s (failedAt s n)

/-- BRING_UP (R436): the next step from power-on to ready, with what the sensors report. -/
def execBringUp (s : State) : Out :=
  if s.fw.phase = 0 then .next (bringStep (setFw s { s.fw with boots := s.fw.boots + 1, busy := false }) 1)
  else if s.fw.phase = 1 then .next (bringStep s (s.fw.step + 1))
  else .next s

/-- A cluster's clock changed by firmware, and logged (R438, R447). -/
def setClock (s : State) (cl step : Nat) : State :=
  logError (setCluster s cl { clusterRec s cl with clock := step }) 5 cl 0 step 0 0

/-- A cluster's clock one step lower, down to 0.75 GHz (R438). -/
def lowerClock (s : State) (cl : Nat) : State :=
  let c := clusterRec s cl
  if 64 ≤ cl || c.lost || c.clock ≤ 12 then s else setClock s cl (c.clock - 1)

/-- The junction temperature of a cluster in °C. -/
def junction (s : State) (cl : Nat) : Nat := ((s.fw.sensors.temps.find? (·.1 = cl)).map (·.2)).getD 0

/-- Whether the SRAM margin last measured of a cluster is below its threshold (R446). -/
def lowMargin (s : State) (cl : Nat) : Bool := s.fw.wear.any fun w => w.1 = 4 && w.2.1 = cl && decide (w.2.2 < s.fw.cfg.sram)

/-- Whether a cause of a lower clock stands (R438): the cluster's junction is above 95 °C, the module's power would exceed the configured
cap, or the SRAM margin is below its threshold. -/
def clockCause (s : State) (cl : Nat) : Bool :=
  decide (95 < junction s cl) || decide (s.fw.cfg.cap < s.fw.sensors.power) || lowMargin s cl

/-- CLOCK_CHANGE (R438): one step lower while a cause stands. -/
def execClockChange (cluster : Nat) (s : State) : Out := .next (if clockCause s cluster then lowerClock s cluster else s)

/-- CLOCK_RAISE (R438): one step, once every cause has cleared, up to the highest that the cluster's margin allows. -/
def execClockRaise (cluster : Nat) (s : State) : Out :=
  let c := clusterRec s cluster
  if 64 ≤ cluster || c.lost || c.target ≤ c.clock || clockCause s cluster then .next s
  else .next (setClock s cluster (c.clock + 1))

/-- THERMAL_STOP (R438): above 105 °C. -/
def execThermalStop (cluster : Nat) (s : State) : Out :=
  let c := clusterRec s cluster
  if 64 ≤ cluster || c.lost || c.stopped || junction s cluster ≤ 105 then .next s
  else .next (logError (setCluster s cluster { c with stopped := true }) 7 cluster 0 0 0 0)

/-- CLUSTER_COOLED (R438): the stopped cluster that the sensors report at 95 °C runs again. -/
def execClusterCooled (s : State) : Out :=
  let c := clusterRec s s.fw.cooled
  if c.stopped && junction s s.fw.cooled ≤ 95 then .next (setCluster s s.fw.cooled { c with stopped := false }) else .next s

/-- The page that holds a frame of a controller. -/
def pageOfFrame (s : State) (ctrl frame : Nat) : Option PageEntry :=
  s.xl.pages.find? fun p =>
    p.far.isNone && p.ctrl = ctrl && decide (p.frame ≤ frame) && decide (frame < p.frame + (if p.gidx.isSome then 1 else 16))

/-- Whether a page of an address space stays present whatever happens (R350, R368): a broadcast window's or a bound group window's. -/
def windowPage (s : State) (tag va : Nat) : Bool :=
  let e := tableEntry s tag va
  eValid e && (eKind e = 1 || (eKind e = 2 && groupBound s (eGroup e)))

/-- A page retired (R368): recalled, and no longer present. -/
def retirePage (s : State) (tag va : Nat) : State :=
  if pagePresent s tag va && !windowPage s tag va then unmapPage s tag (va / 65536) else s

/-- The VAs of a tensor's elements in ascending order (R99, R442); a byte that holds two elements is read once. -/
def tensorVas (r : Shape) : List Nat :=
  let vas := (List.range r.count).map fun n => toBits 56 (elemByte r.bits r.base (offsetAt r.strides (tupleOf r.dims n)))
  if r.bits = 4 then vas.eraseDups else vas

/-- A scrubber entry failed and logged (R442, R447). -/
def scrubFails (s : State) (e : ScrubEntry) (va : Nat) : State :=
  let scrubs := s.fw.scrubs.map fun x => if x.entry = e.entry then { x with failed := true } else x
  logError (setFw s { s.fw with scrubs := scrubs }) 4 0xFF e.asid e.entry va 0

/-- One pass over an entry's tensor (R442): every sector is read as a load miss reads it, and the digest is compared. -/
def scrubPass (s : State) (e : ScrubEntry) (r : Shape) : State :=
  let n := elemBytes r
  let vas := tensorVas r
  let secs := (vas.map sectorOf).eraseDups
  let one (s : State) (sec : Nat) : State :=
    let w := scrubWho s e.asid sec
    touchRead s { w with core := homeOf s (tagOf e.asid sec) (tableEntry s (tagOf e.asid sec) sec) sec * 16 } sec
  match vas.find? fun va => !scrubReads s e.asid va n with
  | some va => scrubFails s e va
  | none =>
    if !scrubReads s e.asid r.digest 32 then scrubFails s e r.digest
    else
      let data := vas.flatMap fun va => readBytes s (scrubWho s e.asid va) va n
      let s1 := secs.foldl one s
      if sha256 data = readBytes s (scrubWho s e.asid r.digest) r.digest 32 then s1 else scrubFails s1 e r.base

/-- The entry after one, in number order and round again. -/
def scrubAfter (s : State) (k : Nat) : Nat :=
  let ns := s.fw.scrubs.map (·.entry)
  let above := ns.filter (k < ·)
  if above.isEmpty then ns.foldl min Config.scrubEntries else above.foldl min Config.scrubEntries

/-- SCRUB (R442, R443): a pass over the entry whose turn it is; a rate of 0 stops the scrubber, and a sector that waits is waited for. -/
def execScrub (s : State) : Out :=
  let next (s : State) : State := setFw s { s.fw with scrubNext := scrubAfter s s.fw.scrubNext }
  if s.fw.cfg.scrub = 0 || s.fw.phase ≠ 2 then .next s
  else match s.fw.scrubs.find? (·.entry = s.fw.scrubNext) with
    | none => .next (next s)
    | some e =>
      match scrubShape s e.asid e.recVa with
      | none => .next (next (scrubFails s e e.recVa))
      | some r =>
        match ((tensorVas r).map sectorOf).find? fun x => gateAt s (scrubWho s e.asid x) x = .wait with
        | some x => .next (askGate s (scrubWho s e.asid x) x)
        | none => .next (next (scrubPass s e r))

/-- The bytes of the sector that an error has lost are free values (R368): in DRAM where the page stays present, and in local
memory. -/
def loseSector (s : State) (e : ErrorSite) : State :=
  let bs := (List.range 64).map fun i => Config.freeByte (draw s i)
  if e.cls = 4 then
    match e.team.bind (teamOf s) with
    | some t => if e.addr < 2 ^ 18 then lmWrite s (coreOf t) (sectorOf e.addr) bs else s
    | none => s
  else if (e.cls = 1 || e.cls = 2) && windowPage s (tagOf e.asid e.addr) e.addr then
    match pageOf s (tagOf e.asid e.addr) e.addr with
    | some p => if p.far.isNone then { s with mem := setBytes s.mem (sectorOf (dpaOf p e.addr)) bs } else s
    | none => s
  else s

/-- Whether engine work is what met an error: the piece that the error names, or else any of the team that it names. -/
def errorMeets (e : ErrorSite) (team id : Nat) : Bool :=
  match e.work with
  | some w => w = id
  | none => e.team = some team

/-- The engine work that meets an error ends or pauses (R283, R292, R299), and its team is stopped at a boundary; a task ends on an error in
any tile that it reads, its C tiles among them. The work of a team that is gone goes with it (assumption log 77). -/
def engineError (s : State) (e : ErrorSite) : State :=
  let note (s : State) (h iva detail : Nat) : State :=
    noteStop s h { cause := 0x17, reason := e.cls, va := e.addr, iva := iva, detail := detail }
  let gone (h : Nat) : Bool := (teamOf s h).all fun t => 4 ≤ t.place.run
  match s.eng.tasks.find? fun k => e.cls = 4 && errorMeets e k.team k.id && k.running && (k.reads ++ k.writes).contains (tileOf e.addr) with
  | some k => note (endTask s k 6) k.team k.recVa k.progress
  | none =>
    match s.eng.copies.find? fun c => errorMeets e c.team c.id && !c.paused && (c.started || c.moved || copyMayRun s c) with
    | some c =>
      if gone c.team then { s with eng := { s.eng with copies := s.eng.copies.filter (·.id ≠ c.id) } }
      else note (setCopyJob s { c with paused := true, started := true }) c.team c.tmplVa 0
    | none =>
      match s.eng.colls.find? fun c => errorMeets e c.team c.id && !c.paused with
      | some c =>
        if gone c.team then { s with eng := { s.eng with colls := s.eng.colls.filter (·.id ≠ c.id) } }
        else note (setColl s { c with paused := true }) c.team c.descVa 0
      | none => match e.team with
        | some h => note s h 0 0
        | none => s

/-- The error that a team's own access meets (R368): precise at its word; of an L-word the passes that are completed stay so (R26), and the
fetch of a register line that meets one is a context-image fault (R339), on a team that leaves its partition too. A scalar access of a team
that leaves, or whose atomic is on its way to a group window, comes to its end first, and so does an L-word that has begun (R199; assumption
log 60). -/
def teamError (s : State) (t : Team) (e : ErrorSite) : State :=
  let h := t.card.handle
  let s1 := focus s h
  let noted : Stop := scalarStop s1 0x17 e.addr e.cls
  if t.place.run ≠ 1 then noteStop s h { cause := 0x17, reason := e.cls, va := e.addr, iva := t.pc.toNat }
  else if e.line || e.lane then
    if t.sys.handler || t.lane.queue.isEmpty then s
    else if e.line then failLine s1
    else if t.scalarAtom then noteStop s h (laneStop s1 0x17 e.addr 0 e.cls)
    else takeStop (setTeam s1 { s1.team with lane := { s1.team.lane with busy := false } }) (laneStop s1 0x17 e.addr 0 e.cls)
  else if t.ord.leave.isSome || midWord s h then noteStop s h noted
  else takeStop s1 noted

/-- A card fetch that meets an error stops its queue (R375). -/
def fetchError (s : State) (qid : QueueId) : State :=
  match queueOf s qid with
  | some q => if q.status < 2 then stopQueue s q (slotVa q q.head) else s
  | none => s

/-- UNCORRECTABLE_ERROR (R368): logged; the page retired for DRAM and cluster caches; the accessor faulted, precisely at its word or,
for an engine, at a boundary; a queue whose card is being fetched stops (R375). -/
def execUncorrectableError (e : ErrorSite) (s : State) : Out :=
  let tag := tagOf e.asid e.addr
  let s1 := logError s 1 (if e.cluster < 64 then e.cluster else 0xFF) e.asid e.cls e.addr 0
  let s2 := loseSector s1 e
  let s3 := if e.cls = 1 || e.cls = 2 then retirePage s2 tag e.addr else s2
  match e.queue with
  | some q => .next (fetchError s3 q)
  | none =>
    if e.engine then .next (engineError s3 e)
    else match e.team.bind (teamOf s3) with
      | none => .next s3
      | some t => .next (teamError s3 t e)

/-- A lost cluster's copies leave its caches and stashes; what they had modified is at its home (R370). -/
def drainCluster (s : State) (cl : Nat) : State :=
  let here (h : Nat) : Bool := h = cl || (decide (64 ≤ h) && decide ((h - 64) / 16 = cl))
  let s1 := (s.hand.filter (·.cluster = cl)).foldl (fun s h => handEvict s cl h.dpa) s
  let gone := s1.fab.copies.filter fun c => here c.holder
  let s1 := writeCopies s1 fun c => here c.holder
  let s2 := { s1 with fab := { s1.fab with
      copies := s1.fab.copies.filter (fun c => !here c.holder), l1 := s1.fab.l1.filter fun x => x.core / 16 ≠ cl } }
  gone.foldl (fun s c =>
    if c.st = .M || c.st = .O || c.st = .E then setHome s c.asid c.sec false (homeBits s c.asid c.sec).2 else s) s2

/-- A team lost with its cluster (R370): its stores that are not performed are dropped, its engine work ends, and its launch fails. -/
def loseTeam (s : State) (h : Nat) : State :=
  match teamOf s h with
  | none => s
  | some t =>
    let s1 := { s with
      sb := s.sb.filter (·.team ≠ h)
      eng := { s.eng with tasks := s.eng.tasks.filter (·.team ≠ h), copies := s.eng.copies.filter (·.team ≠ h) } }
    removeTeam (failLevel (commLost s1 h) t.card.launch) h

/-- A cluster lost (R370): fenced, drained, its teams lost and their launches failed. Whether a mesh route still reaches its memory
controller is a free choice (assumption log 3). -/
def loseCluster (s : State) (cluster : Nat) : State :=
  let c := clusterRec s cluster
  if 64 ≤ cluster || c.lost then s
  else
    let cut := decide (Config.freePick (draw s 0) % 2 = 1)
    let s1 := drainCluster (setCluster s cluster { c with lost := true, cutOff := cut }) cluster
    let teams := ((liveTeams s1).filter (·.place.cluster = cluster)).map (·.card.handle)
    let s2 := sweepSaved (teams.foldl loseTeam s1)
    let eng := { s2.eng with
      tasks := s2.eng.tasks.filter fun k => k.core / 16 ≠ cluster
      copies := s2.eng.copies.filter fun k => k.cluster ≠ cluster }
    let cores := { s2.cores with code := s2.cores.code.filter fun c => c.core / 16 ≠ cluster }
    let s3 := { s2 with eng := eng, cores := cores, sb := s2.sb.filter fun e => e.core / 16 ≠ cluster }
    logError (settleBuffer s3) 3 cluster 0 0 0 0

/-- CLUSTER_LOSS (R370). -/
def execClusterLoss (cluster : Nat) (s : State) : Out := .next (loseCluster s cluster)

/-- A group whose ring heater has reached its threshold (R399, R446): it moves to a free spare of its bus, and without one its cluster is lost
once the drift has reached the failure limit (assumption log 110). -/
def moveGroup (s : State) (bus cluster drift : Nat) : State :=
  if (s.fab.spares.filter (·.1 = bus)).length < 4 then { s with fab := { s.fab with spares := s.fab.spares ++ [(bus, cluster)] } }
  else if 100 ≤ drift then loseCluster s cluster
  else s

/-- The action of a wear indicator at its threshold (R446, R399, R368, R438), logged. -/
def wearAction (s : State) (w : Nat × Nat × Nat) : State :=
  let cfg := s.fw.cfg
  let log (s : State) (cl : Nat) : State := logError s 6 cl 0 w.1 0 w.2.2
  if w.1 = 1 && cfg.ring ≤ w.2.2 then log (moveGroup s (w.2.1 / 64) (w.2.1 % 64) w.2.2) (w.2.1 % 64)
  else if w.1 = 2 && w.2.2 ≤ cfg.laser then log s 0xFF
  else if w.1 = 3 && cfg.dram ≤ w.2.2 then
    let ctrl := w.2.1 / 2 ^ 23
    let s1 := match pageOfFrame s ctrl (w.2.1 % 2 ^ 23) with
      | some p => retirePage s p.asid (p.vpage * 65536)
      | none => s
    logError s1 6 ctrl 0 3 (w.2.1 % 2 ^ 23) w.2.2
  else if w.1 = 4 && w.2.2 < cfg.sram then log (lowerClock s w.2.1) w.2.1
  else if w.1 = 5 && cfg.bond ≤ w.2.2 then log s w.2.1
  else s

/-- The failure limit of an indicator, and whether it is reached from below (R446). -/
def failureLimit (indicator : Nat) : Nat × Bool :=
  match indicator with
  | 1 => (100, true)
  | 3 => (1000, true)
  | 5 => (50, true)
  | _ => (0, false)

/-- The straight line fitted by least squares to the values y of one indicator of one unit at the times x (R446): slope and height at time 0
times the same denominator, none where the times do not determine it (assumption log 65). -/
def fitLine (points : List (Int × Int)) : Option (Int × Int × Int) :=
  let n : Int := points.length
  let sum (f : Int × Int → Int) : Int := points.foldl (fun a p => a + f p) 0
  let sx := sum (·.1)
  let sy := sum (·.2)
  let sxx := sum fun p => p.1 * p.1
  let sxy := sum fun p => p.1 * p.2
  let den := n * sxx - sx * sx
  if den ≤ 0 then none else some (n * sxy - sx * sy, sxx * sy - sx * sxy, den)

/-- When the line of an indicator crosses its failure limit (R446), as a fraction of minutes after the time `now`: numerator and denominator;
none where the indicator does not trend toward the limit. -/
def crossing (indicator : Nat) (points : List (Int × Int)) (now : Int) : Option (Int × Int) :=
  let limit := failureLimit indicator
  match fitLine points with
  | none => none
  | some (slope, height, den) =>
    if limit.2 && 0 < slope then some ((limit.1 : Int) * den - height - now * slope, slope)
    else if !limit.2 && slope < 0 then some (height + now * slope - (limit.1 : Int) * den, -slope)
    else none

/-- The values of an indicator of a unit in the last 30 days, with their times in minutes (R446). -/
def wearPoints (history : List (List (Nat × Nat × Nat))) (indicator unit : Nat) : List (Int × Int) :=
  ((List.range history.length).zip history).filterMap fun h =>
    (h.2.find? fun w => w.1 = indicator && w.2.1 = unit).map fun w => ((h.1 : Int), (w.2.2 : Int))

/-- The days until a crossing: 0 for one that is past; whether part of a day counts as a day is a free choice (assumption log 65). -/
def wholeDays (up : Bool) (c : Int × Int) : Nat :=
  let d := c.2 * 1440
  if c.1 ≤ 0 then 0 else min 0xFFFFFFFE (((if up then c.1 + d - 1 else c.1) / d).toNat)

/-- The predicted end of life (R446): the days until the earliest crossing, and 0xFFFF_FFFF where no indicator trends toward its limit. -/
def predictedDays (up : Bool) (history : List (List (Nat × Nat × Nat))) : Nat :=
  let units := ((history.flatMap id).map fun w => (w.1, w.2.1)).eraseDups
  let now : Int := history.length - 1
  (units.filterMap fun u => (crossing u.1 (wearPoints history u.1 u.2) now).map (wholeDays up)).foldl min 0xFFFFFFFF

/-- The measurements of 30 days, one every 60 s (R446). -/
def wearWindow : Nat := 43200

/-- WEAR_MEASUREMENT (R446): the indicators as the sensors give them, the prediction, and the actions at the thresholds. -/
def execWearMeasurement (s : State) : Out :=
  let values := s.fw.sensors.values
  let all := s.fw.history ++ [values]
  let history := all.drop (all.length - wearWindow)
  let days := predictedDays (Config.freePick (draw s 0) % 2 = 1) history
  .next (values.foldl wearAction (setFw s { s.fw with wear := values, history := history, days := days }))

end Sys2Proof.Machine
end

