-- ==== Sys2Proof/Machine/Xiss.lean ====
section
/-! DEFINITION. The issue-register instruction (R251 to R262): capturing and checking the supplied words, and running the distinct
words one by one, to depth 2. -/

namespace Sys2Proof.Machine

/-- The word that a lane supplies (R252). -/
def suppliedWord (t : Team) (f : LaneFields) (l : Nat) : LWord :=
  let n := f.a.toNat
  BitVec.ofNat 96 (vreg t n l + 2 ^ 32 * vreg t (n + 1) l + 2 ^ 64 * vreg t (n + 2) l)

/-- A lane's word added to the distinct words gathered so far (R256). -/
def gather : List (LWord × Lanes) → LWord → Nat → List (LWord × Lanes)
  | [], w, l => [(w, 1#1024 <<< l)]
  | (x, m) :: ws, w, l => if x = w then (x, m ||| (1#1024 <<< l)) :: ws else (x, m) :: gather ws w l

/-- The distinct words with their suppliers, in ascending order of their lowest supplier (R256). -/
def distinctWords (t : Team) (f : LaneFields) : List (LWord × Lanes) :=
  (takerList t f).foldl (fun ws l => gather ws (suppliedWord t f l) l) []

/-- Whether an opcode lies in the class of cross-lane, mask and predicate operations, which may not be supplied (R254). -/
def barredOp (op : Nat) : Bool := 0x181 ≤ op && op ≤ 0x195

/-- The reason for which a supplied word fails a check at a depth (R254, R255); 0 for none. -/
def supplyReason (t : Team) (depth : Nat) (w : LWord) : Nat :=
  match decodeLFor t.card.v w with
  | .error _ => 1
  | .ok _ => if barredOp (laneOpcode w) then 2 else if laneOpcode w = 0x280 && 2 ≤ depth then 3 else 0

/-- The illegal-word fault (R255, R362): every failing lane, and the reason and the word of the lowest of them. -/
def wordFault (s : State) (depth : Nat) (ws : List (LWord × Lanes)) : Option Stop :=
  let bad := ws.filter fun w => supplyReason s.team depth w.1 ≠ 0
  match bad with
  | [] => none
  | w :: _ =>
    let lanes := bad.foldl (fun m x => m ||| x.2) 0
    let low := (laneList s.team w.2).headD 0
    some { laneStop s 0x0C 0 lanes (supplyReason s.team depth w.1) with aux := low * 2 ^ 16 + depth, word := w.1.toNat }

/-- An `xiss` captures, checks and groups its words (R252 to R256): with no word supplied it is done (R253); a failing word stops the
team with nothing done; else `keep` holds the block and its words run next. -/
def startXiss (depth : Nat) (keep : XissBlock → LaneState → LaneState) (f : LaneFields) (s : State) : Out :=
  laneWord 0x280 f s fun s =>
    let ws := distinctWords s.team f
    if ws.isEmpty then .next (popWord s)
    else match wordFault s depth ws with
      | some st => .next (takeStop s st)
      | none => .next (setTeam s { s.team with lane := keep { words := ws, next := 0 } s.team.lane })

/-- The meaning of a word of a class that may be supplied, `xiss` apart (R254, R257). -/
def runSupplied (i : Instr) (s : State) : Out :=
  match i with
  | .vadd f => execVadd f s
  | .vsub f => execVsub f s
  | .vmul f => execVmul f s
  | .vmulh f => execVmulh f s
  | .vmad f => execVmad f s
  | .vdiv f => execVdiv f s
  | .vrem f => execVrem f s
  | .vabs f => execVabs f s
  | .vneg f => execVneg f s
  | .vmin f => execVmin f s
  | .vmax f => execVmax f s
  | .vand f => execVand f s
  | .vor f => execVor f s
  | .vxor f => execVxor f s
  | .vnot f => execVnot f s
  | .vshl f => execVshl f s
  | .vshr f => execVshr f s
  | .vsra f => execVsra f s
  | .vrot f => execVrot f s
  | .vclz f => execVclz f s
  | .vpopc f => execVpopc f s
  | .vbrev f => execVbrev f s
  | .vbext f => execVbext f s
  | .vbins f => execVbins f s
  | .vsel f => execVsel f s
  | .vcmp f => execVcmp f s
  | .vmov f => execVmov f s
  | .vli f => execVli f s
  | .vlane f => execVlane f s
  | .vbcast f => execVbcast f s
  | .vfadd f => execVfadd f s
  | .vfsub f => execVfsub f s
  | .vfmul f => execVfmul f s
  | .vfma f => execVfma f s
  | .vfms f => execVfms f s
  | .vfnma f => execVfnma f s
  | .vfmin f => execVfmin f s
  | .vfmax f => execVfmax f s
  | .vfabs f => execVfabs f s
  | .vfneg f => execVfneg f s
  | .vfcmp f => execVfcmp f s
  | .vfclass f => execVfclass f s
  | .vfdiv f => execVfdiv f s
  | .vfsqrt f => execVfsqrt f s
  | .vdot2 f => execVdot2 f s
  | .vdot4 f => execVdot4 f s
  | .vdot8 f => execVdot8 f s
  | .vcvt f => execVcvt f s
  | .vcvts f => execVcvts f s
  | .vscl f => execVscl f s
  | .vpack f => execVpack f s
  | .vunpk f => execVunpk f s
  | .vround f => execVround f s
  | .vcrv f => execVcrv f s
  | .vamax f => execVamax f s
  | .vld f => execVld f s
  | .vst f => execVst f s
  | .vlds f => execVlds f s
  | .vsts f => execVsts f s
  | .vldx f => execVldx f s
  | .vstx f => execVstx f s
  | .vldm f => execVldm f s
  | .vstm f => execVstm f s
  | .vamo f => execVamo f s
  | .vpref f => execVpref f s
  | _ => .next (takeStop s (laneStop s 0x01))

/-- The current word of a block run, a nested `xiss` capturing its own words first (R260). -/
def runWord (s : State) (b : XissBlock) (inner : Bool) : Out :=
  match decodeLFor s.team.card.v (currentWord b).1 with
  | .error _ => .next (takeStop s (laneStop s 0x01))
  | .ok (.xiss f) =>
    if inner then .next (takeStop s (laneStop s 0x01))
    else startXiss 2 (fun c l => { l with xiss2 := some c }) f s
  | .ok i => runSupplied i s

/-- XISS (R251 to R261): it captures its words; then each time it runs the next of them. -/
def execXiss (f : LaneFields) (s : State) : Out :=
  match s.team.lane.xiss1, s.team.lane.xiss2 with
  | some _, some c => runWord s c true
  | some b, none => runWord s b false
  | none, _ => startXiss 1 (fun b l => { l with xiss1 := some b }) f s

end Sys2Proof.Machine
end

