-- ==== Sys2Proof/Machine/Dispatch.lean ====
section
/-! DEFINITION. One arm for each instruction. -/

namespace Sys2Proof.Machine

/-- The meaning of an instruction. -/
def exec (i : Instr) (s : State) : Host.Outcome State Fault Refusal :=
  match i with
  | .add d a b => Sys2Proof.Machine.execAdd d a b s
  | .sub d a b => Sys2Proof.Machine.execSub d a b s
  | .mul d a b => Sys2Proof.Machine.execMul d a b s
  | .mulhS d a b => Sys2Proof.Machine.execMulhS d a b s
  | .mulhZ d a b => Sys2Proof.Machine.execMulhZ d a b s
  | .divS d a b => Sys2Proof.Machine.execDivS d a b s
  | .divZ d a b => Sys2Proof.Machine.execDivZ d a b s
  | .remS d a b => Sys2Proof.Machine.execRemS d a b s
  | .remZ d a b => Sys2Proof.Machine.execRemZ d a b s
  | .and d a b => Sys2Proof.Machine.execAnd d a b s
  | .or d a b => Sys2Proof.Machine.execOr d a b s
  | .xor d a b => Sys2Proof.Machine.execXor d a b s
  | .shl d a b => Sys2Proof.Machine.execShl d a b s
  | .shr d a b => Sys2Proof.Machine.execShr d a b s
  | .sra d a b => Sys2Proof.Machine.execSra d a b s
  | .minS d a b => Sys2Proof.Machine.execMinS d a b s
  | .minZ d a b => Sys2Proof.Machine.execMinZ d a b s
  | .maxS d a b => Sys2Proof.Machine.execMaxS d a b s
  | .maxZ d a b => Sys2Proof.Machine.execMaxZ d a b s
  | .sltS d a b => Sys2Proof.Machine.execSltS d a b s
  | .sltZ d a b => Sys2Proof.Machine.execSltZ d a b s
  | .seq d a b => Sys2Proof.Machine.execSeq d a b s
  | .clz d a => Sys2Proof.Machine.execClz d a s
  | .ctz d a => Sys2Proof.Machine.execCtz d a s
  | .popc d a => Sys2Proof.Machine.execPopc d a s
  | .sel d a b => Sys2Proof.Machine.execSel d a b s
  | .addi d a imm => Sys2Proof.Machine.execAddi d a imm s
  | .andi d a imm => Sys2Proof.Machine.execAndi d a imm s
  | .ori d a imm => Sys2Proof.Machine.execOri d a imm s
  | .xori d a imm => Sys2Proof.Machine.execXori d a imm s
  | .shli d a amt => Sys2Proof.Machine.execShli d a amt s
  | .shri d a amt => Sys2Proof.Machine.execShri d a amt s
  | .srai d a amt => Sys2Proof.Machine.execSrai d a amt s
  | .slti d a imm => Sys2Proof.Machine.execSlti d a imm s
  | .limm d imm => Sys2Proof.Machine.execLimm d imm s
  | .lsh d imm => Sys2Proof.Machine.execLsh d imm s
  | .lpc d imm => Sys2Proof.Machine.execLpc d imm s
  | .ld ty d a off => Sys2Proof.Machine.execLd ty d a off s
  | .st ty d a off => Sys2Proof.Machine.execSt ty d a off s
  | .amoS32 aop ord d a b => Sys2Proof.Machine.execAmoS32 aop ord d a b s
  | .amoZ32 aop ord d a b => Sys2Proof.Machine.execAmoZ32 aop ord d a b s
  | .amo64 aop ord d a b => Sys2Proof.Machine.execAmo64 aop ord d a b s
  | .amoF32 aop ord d a b => Sys2Proof.Machine.execAmoF32 aop ord d a b s
  | .b off => Sys2Proof.Machine.execB off s
  | .call off => Sys2Proof.Machine.execCall off s
  | .bc cond a off => Sys2Proof.Machine.execBc cond a off s
  | .jr a => Sys2Proof.Machine.execJr a s
  | .ret => Sys2Proof.Machine.execRet s
  | .callr a => Sys2Proof.Machine.execCallr a s
  | .lrun a n => Sys2Proof.Machine.execLrun a n s
  | .lloop d a b len => Sys2Proof.Machine.execLloop d a b len s
  | .lsync => Sys2Proof.Machine.execLsync s
  | .fence kind scope => Sys2Proof.Machine.execFence kind scope s
  | .cbar => Sys2Proof.Machine.execCbar s
  | .cwait a b => Sys2Proof.Machine.execCwait a b s
  | .cpclose d => Sys2Proof.Machine.execCpclose d s
  | .cpwait a => Sys2Proof.Machine.execCpwait a s
  | .rfence => Sys2Proof.Machine.execRfence s
  | .mxpost a => Sys2Proof.Machine.execMxpost a s
  | .own new d a => Sys2Proof.Machine.execOwn new d a s
  | .ownQuery d a => Sys2Proof.Machine.execOwnQuery d a s
  | .coll d a => Sys2Proof.Machine.execColl d a s
  | .qpush a b => Sys2Proof.Machine.execQpush a b s
  | .qpop d a => Sys2Proof.Machine.execQpop d a s
  | .post d a b => Sys2Proof.Machine.execPost d a b s
  | .gfence => Sys2Proof.Machine.execGfence s
  | .gseq d a => Sys2Proof.Machine.execGseq d a s
  | .crvld a => Sys2Proof.Machine.execCrvld a s
  | .csrr d csr => Sys2Proof.Machine.execCsrr d csr s
  | .csrw a csr => Sys2Proof.Machine.execCsrw a csr s
  | .trap code => Sys2Proof.Machine.execTrap code s
  | .sretResume => Sys2Proof.Machine.execSretResume s
  | .sretReplay => Sys2Proof.Machine.execSretReplay s
  | .sretAbandon => Sys2Proof.Machine.execSretAbandon s
  | .yield => Sys2Proof.Machine.execYield s
  | .brk code => Sys2Proof.Machine.execBrk code s
  | .cacheWb a b => Sys2Proof.Machine.execCacheWb a b s
  | .cacheInv a b => Sys2Proof.Machine.execCacheInv a b s
  | .cacheWbinv a b => Sys2Proof.Machine.execCacheWbinv a b s
  | .cacheDiscard a b => Sys2Proof.Machine.execCacheDiscard a b s
  | .cacheBind d a b => Sys2Proof.Machine.execCacheBind d a b s
  | .cacheUnbind a => Sys2Proof.Machine.execCacheUnbind a s
  | .cancel level a => Sys2Proof.Machine.execCancel level a s
  | .ctr level d a => Sys2Proof.Machine.execCtr level d a s
  | .rptinv a b => Sys2Proof.Machine.execRptinv a b s
  | .tstop a => Sys2Proof.Machine.execTstop a s
  | .vadd f => Sys2Proof.Machine.execVadd f s
  | .vsub f => Sys2Proof.Machine.execVsub f s
  | .vmul f => Sys2Proof.Machine.execVmul f s
  | .vmulh f => Sys2Proof.Machine.execVmulh f s
  | .vmad f => Sys2Proof.Machine.execVmad f s
  | .vdiv f => Sys2Proof.Machine.execVdiv f s
  | .vrem f => Sys2Proof.Machine.execVrem f s
  | .vabs f => Sys2Proof.Machine.execVabs f s
  | .vneg f => Sys2Proof.Machine.execVneg f s
  | .vmin f => Sys2Proof.Machine.execVmin f s
  | .vmax f => Sys2Proof.Machine.execVmax f s
  | .vand f => Sys2Proof.Machine.execVand f s
  | .vor f => Sys2Proof.Machine.execVor f s
  | .vxor f => Sys2Proof.Machine.execVxor f s
  | .vnot f => Sys2Proof.Machine.execVnot f s
  | .vshl f => Sys2Proof.Machine.execVshl f s
  | .vshr f => Sys2Proof.Machine.execVshr f s
  | .vsra f => Sys2Proof.Machine.execVsra f s
  | .vrot f => Sys2Proof.Machine.execVrot f s
  | .vclz f => Sys2Proof.Machine.execVclz f s
  | .vpopc f => Sys2Proof.Machine.execVpopc f s
  | .vbrev f => Sys2Proof.Machine.execVbrev f s
  | .vbext f => Sys2Proof.Machine.execVbext f s
  | .vbins f => Sys2Proof.Machine.execVbins f s
  | .vsel f => Sys2Proof.Machine.execVsel f s
  | .vcmp f => Sys2Proof.Machine.execVcmp f s
  | .vmov f => Sys2Proof.Machine.execVmov f s
  | .vli f => Sys2Proof.Machine.execVli f s
  | .vlane f => Sys2Proof.Machine.execVlane f s
  | .vbcast f => Sys2Proof.Machine.execVbcast f s
  | .vfadd f => Sys2Proof.Machine.execVfadd f s
  | .vfsub f => Sys2Proof.Machine.execVfsub f s
  | .vfmul f => Sys2Proof.Machine.execVfmul f s
  | .vfma f => Sys2Proof.Machine.execVfma f s
  | .vfms f => Sys2Proof.Machine.execVfms f s
  | .vfnma f => Sys2Proof.Machine.execVfnma f s
  | .vfmin f => Sys2Proof.Machine.execVfmin f s
  | .vfmax f => Sys2Proof.Machine.execVfmax f s
  | .vfabs f => Sys2Proof.Machine.execVfabs f s
  | .vfneg f => Sys2Proof.Machine.execVfneg f s
  | .vfcmp f => Sys2Proof.Machine.execVfcmp f s
  | .vfclass f => Sys2Proof.Machine.execVfclass f s
  | .vfdiv f => Sys2Proof.Machine.execVfdiv f s
  | .vfsqrt f => Sys2Proof.Machine.execVfsqrt f s
  | .vdot2 f => Sys2Proof.Machine.execVdot2 f s
  | .vdot4 f => Sys2Proof.Machine.execVdot4 f s
  | .vdot8 f => Sys2Proof.Machine.execVdot8 f s
  | .vcvt f => Sys2Proof.Machine.execVcvt f s
  | .vcvts f => Sys2Proof.Machine.execVcvts f s
  | .vscl f => Sys2Proof.Machine.execVscl f s
  | .vpack f => Sys2Proof.Machine.execVpack f s
  | .vunpk f => Sys2Proof.Machine.execVunpk f s
  | .vround f => Sys2Proof.Machine.execVround f s
  | .vcrv f => Sys2Proof.Machine.execVcrv f s
  | .vamax f => Sys2Proof.Machine.execVamax f s
  | .vband f => Sys2Proof.Machine.execVband f s
  | .vshf f => Sys2Proof.Machine.execVshf f s
  | .vshfx f => Sys2Proof.Machine.execVshfx f s
  | .vshfu f => Sys2Proof.Machine.execVshfu f s
  | .vshfd f => Sys2Proof.Machine.execVshfd f s
  | .vvote f => Sys2Proof.Machine.execVvote f s
  | .vscan f => Sys2Proof.Machine.execVscan f s
  | .vred f => Sys2Proof.Machine.execVred f s
  | .vext f => Sys2Proof.Machine.execVext f s
  | .mif f => Sys2Proof.Machine.execMif f s
  | .melse f => Sys2Proof.Machine.execMelse f s
  | .mend f => Sys2Proof.Machine.execMend f s
  | .mbrk f => Sys2Proof.Machine.execMbrk f s
  | .mloop f => Sys2Proof.Machine.execMloop f s
  | .msetPred f => Sys2Proof.Machine.execMsetPred f s
  | .msetWord f => Sys2Proof.Machine.execMsetWord f s
  | .msetAll f => Sys2Proof.Machine.execMsetAll f s
  | .mgetPred f => Sys2Proof.Machine.execMgetPred f s
  | .mgetSum f => Sys2Proof.Machine.execMgetSum f s
  | .mgetWord f => Sys2Proof.Machine.execMgetWord f s
  | .pand f => Sys2Proof.Machine.execPand f s
  | .por f => Sys2Proof.Machine.execPor f s
  | .pxor f => Sys2Proof.Machine.execPxor f s
  | .pnot f => Sys2Proof.Machine.execPnot f s
  | .pmov f => Sys2Proof.Machine.execPmov f s
  | .vld f => Sys2Proof.Machine.execVld f s
  | .vst f => Sys2Proof.Machine.execVst f s
  | .vlds f => Sys2Proof.Machine.execVlds f s
  | .vsts f => Sys2Proof.Machine.execVsts f s
  | .vldx f => Sys2Proof.Machine.execVldx f s
  | .vstx f => Sys2Proof.Machine.execVstx f s
  | .vldm f => Sys2Proof.Machine.execVldm f s
  | .vstm f => Sys2Proof.Machine.execVstm f s
  | .vamo f => Sys2Proof.Machine.execVamo f s
  | .vpref f => Sys2Proof.Machine.execVpref f s
  | .xiss f => Sys2Proof.Machine.execXiss f s
  | .loadReply team => Sys2Proof.Machine.execLoadReply team s
  | .storeBufferDrain e => Sys2Proof.Machine.execStoreBufferDrain e s
  | .registerMissMicroTrap line victim => Sys2Proof.Machine.execRegisterMissMicroTrap line victim s
  | .handlerEntry team => Sys2Proof.Machine.execHandlerEntry team s
  | .haltedEntry team => Sys2Proof.Machine.execHaltedEntry team s
  | .timeSliceExpiry team => Sys2Proof.Machine.execTimeSliceExpiry team s
  | .teamPlacement launch crew cluster cores => Sys2Proof.Machine.execTeamPlacement launch crew cluster cores s
  | .teamResumption team partition => Sys2Proof.Machine.execTeamResumption team partition s
  | .teamRetirement team => Sys2Proof.Machine.execTeamRetirement team s
  | .cardFetch q => Sys2Proof.Machine.execCardFetch q s
  | .graphOpen job graph => Sys2Proof.Machine.execGraphOpen job graph s
  | .nodeStart n => Sys2Proof.Machine.execNodeStart n s
  | .tileTaskNodePosting n => Sys2Proof.Machine.execTileTaskNodePosting n s
  | .queueDestroyComplete q => Sys2Proof.Machine.execQueueDestroyComplete q s
  | .tileTaskStart task => Sys2Proof.Machine.execTileTaskStart task s
  | .engineStep task agree => Sys2Proof.Machine.execEngineStep task agree s
  | .copyRow copy => Sys2Proof.Machine.execCopyRow copy s
  | .copyCompletion copy => Sys2Proof.Machine.execCopyCompletion copy s
  | .collectiveTileReceive t => Sys2Proof.Machine.execCollectiveTileReceive t s
  | .arrivalAppend coll slot => Sys2Proof.Machine.execArrivalAppend coll slot s
  | .stamp r => Sys2Proof.Machine.execStamp r s
  | .stampReply group number stamp => Sys2Proof.Machine.execStampReply group number stamp s
  | .stampedRequestApply stamp r => Sys2Proof.Machine.execStampedRequestApply stamp r s
  | .endToEndResend group number => Sys2Proof.Machine.execEndToEndResend group number s
  | .appliedReport group member applied => Sys2Proof.Machine.execAppliedReport group member applied s
  | .rootResend group member => Sys2Proof.Machine.execRootResend group member s
  | .rd m => Sys2Proof.Machine.execRd m s
  | .ro m => Sys2Proof.Machine.execRo m s
  | .up m => Sys2Proof.Machine.execUp m s
  | .ev m => Sys2Proof.Machine.execEv m s
  | .rc m => Sys2Proof.Machine.execRc m s
  | .dc m => Sys2Proof.Machine.execDc m s
  | .uh m upd => Sys2Proof.Machine.execUh m upd s
  | .ua m a => Sys2Proof.Machine.execUa m a s
  | .hr m => Sys2Proof.Machine.execHr m s
  | .hw m => Sys2Proof.Machine.execHw m s
  | .dataSupply m => Sys2Proof.Machine.execDataSupply m s
  | .evictionWriteBack m => Sys2Proof.Machine.execEvictionWriteBack m s
  | .walkRequest core asid rn => Sys2Proof.Machine.execWalkRequest core asid rn s
  | .walkReply => Sys2Proof.Machine.execWalkReply s
  | .flitReceive port f => Sys2Proof.Machine.execFlitReceive port f s
  | .replay port seq => Sys2Proof.Machine.execReplay port seq s
  | .drainComplete => Sys2Proof.Machine.execDrainComplete s
  | .drainLimitExpiry => Sys2Proof.Machine.execDrainLimitExpiry s
  | .switchStatus => Sys2Proof.Machine.execSwitchStatus s
  | .memrd r => Sys2Proof.Machine.execMemrd r s
  | .memrddata r => Sys2Proof.Machine.execMemrddata r s
  | .memwr r data => Sys2Proof.Machine.execMemwr r data s
  | .meminv r => Sys2Proof.Machine.execMeminv r s
  | .snpdata r => Sys2Proof.Machine.execSnpdata r s
  | .snpinv r => Sys2Proof.Machine.execSnpinv r s
  | .snpcur r => Sys2Proof.Machine.execSnpcur r s
  | .birsp adapter at_ => Sys2Proof.Machine.execBirsp adapter at_ s
  | .hostBiasFlip => Sys2Proof.Machine.execHostBiasFlip s
  | .queueCreate c => Sys2Proof.Machine.execQueueCreate c s
  | .queueSeal c => Sys2Proof.Machine.execQueueSeal c s
  | .queueDestroy c => Sys2Proof.Machine.execQueueDestroy c s
  | .queueRestart c => Sys2Proof.Machine.execQueueRestart c s
  | .asidCreate c => Sys2Proof.Machine.execAsidCreate c s
  | .regionSet c => Sys2Proof.Machine.execRegionSet c s
  | .pageMap c => Sys2Proof.Machine.execPageMap c s
  | .pageUnmap c => Sys2Proof.Machine.execPageUnmap c s
  | .pageQuery c => Sys2Proof.Machine.execPageQuery c s
  | .teamResume c => Sys2Proof.Machine.execTeamResume c s
  | .domainAssign c => Sys2Proof.Machine.execDomainAssign c s
  | .linkConfigure c => Sys2Proof.Machine.execLinkConfigure c s
  | .topologyChange c => Sys2Proof.Machine.execTopologyChange c s
  | .groupBind c => Sys2Proof.Machine.execGroupBind c s
  | .groupDissolve c => Sys2Proof.Machine.execGroupDissolve c s
  | .biasSet c => Sys2Proof.Machine.execBiasSet c s
  | .farMap c => Sys2Proof.Machine.execFarMap c s
  | .adapterAttach c => Sys2Proof.Machine.execAdapterAttach c s
  | .attest => Sys2Proof.Machine.execAttest s
  | .certificate => Sys2Proof.Machine.execCertificate s
  | .enrolKey => Sys2Proof.Machine.execEnrolKey s
  | .configure => Sys2Proof.Machine.execConfigure s
  | .scrubAdd => Sys2Proof.Machine.execScrubAdd s
  | .scrubRemove => Sys2Proof.Machine.execScrubRemove s
  | .recordStart => Sys2Proof.Machine.execRecordStart s
  | .recordStop => Sys2Proof.Machine.execRecordStop s
  | .replayStart => Sys2Proof.Machine.execReplayStart s
  | .wearRead => Sys2Proof.Machine.execWearRead s
  | .errorLogRead => Sys2Proof.Machine.execErrorLogRead s
  | .bringUp => Sys2Proof.Machine.execBringUp s
  | .clockChange cluster => Sys2Proof.Machine.execClockChange cluster s
  | .clockRaise cluster => Sys2Proof.Machine.execClockRaise cluster s
  | .thermalStop cluster => Sys2Proof.Machine.execThermalStop cluster s
  | .wearMeasurement => Sys2Proof.Machine.execWearMeasurement s
  | .scrub => Sys2Proof.Machine.execScrub s
  | .uncorrectableError e => Sys2Proof.Machine.execUncorrectableError e s
  | .clusterLoss cluster => Sys2Proof.Machine.execClusterLoss cluster s
  | .portTrained port ok => Sys2Proof.Machine.execPortTrained port ok s
  | .contributionRead coll => Sys2Proof.Machine.execContributionRead coll s
  | .bindingAnnouncement group bind => Sys2Proof.Machine.execBindingAnnouncement group bind s
  | .clusterCooled => Sys2Proof.Machine.execClusterCooled s
  | .farFillReply asid va data => Sys2Proof.Machine.execFarFillReply asid va data s

end Sys2Proof.Machine
end

