-- ==== Sys2Proof/Machine/Step.lean ====
section
/-! DEFINITION. One step of the module: the agent that the agenda names moves, or the one that moves when it names none; and
the placing of an instruction where the next step takes it. -/

namespace Sys2Proof.Machine

/-- One step (assumption log 2). -/
def step (s : State) : Host.Outcome State Fault Refusal :=
  match s.agenda with
  | t :: rest => runTurn exec t (tick { s with agenda := rest })
  | [] =>
    match defaultTurn s with
    | some t => runTurn exec t (tick s)
    | none => .fault .quiescent

/-- The state with an instruction of the opcode table placed where the next step takes it (assumption log 4): an S-word at the
focus team's scalar PC, an L-word at the head of its lane queue. -/
def State.withFetchWord (s : State) (nbits w : Nat) : State :=
  if nbits ≤ 32 then placeScalar s w else placeLane s w

end Sys2Proof.Machine
end

