-- ==== Sys2Proof/Safety.lean ====
section
/-! DEFINITION. The notions that claims are made in: the invariants of a safe run, what a step leaves alone, and the results of the
arithmetic instructions as exact numbers, written beside the meanings and not from them. -/

namespace Sys2Proof.Machine

/-- Every memory of the module is in its canonical form, and every handoff copy holds a sector of 64 bytes (R91). -/
def State.memOk (s : State) : Prop :=
  Memory.wf s.mem = true ∧ Memory.wf s.lm = true ∧ Memory.wf s.hostp.far = true
    ∧ s.hand.all (fun c => c.bytes.length = 64) = true

/-- Every byte of virtual memory, as any requester reads it, and every byte of every local memory is the same. -/
def SameMemory (s t : State) : Prop :=
  (∀ w va, readByte t w va = readByte s w va) ∧ (∀ core la n, lmBytes t core la n = lmBytes s core la n)

/-- Nothing changes but the focus team. -/
def OnlyTeam (s t : State) : Prop := t = { s with team := t.team } ∧ SameMemory s t

/-- Nothing changes but the focus team's scalar PC and scalar registers, and of these none but `d`. -/
def OnlyScalar (s t : State) (d : SReg) : Prop :=
  (∀ r, r ≠ d → readReg t r = readReg s r)
    ∧ t.team.regs = { s.team.regs with s := t.team.regs.s }
    ∧ t.team = { s.team with pc := t.team.pc, regs := t.team.regs }
    ∧ OnlyTeam s t

/-- Nothing changes but the focus team's scalar PC. -/
def OnlyPc (s t : State) : Prop := t.team = { s.team with pc := t.team.pc } ∧ OnlyTeam s t

/-- The result of a register-register operation as a number before it wraps (R165, R166), with its destination: `x` and `y` are
the sources and `old` the old destination. -/
def aluNumber (i : Instr) (x y old : Word) : Option Int :=
  match i with
  | .add .. => some (x.toInt + y.toInt)
  | .sub .. => some (x.toInt - y.toInt)
  | .mul .. => some (x.toInt * y.toInt)
  | .mulhS .. => some ((x.toInt * y.toInt).fdiv (2 ^ 64))
  | .mulhZ .. => some ((x.toNat * y.toNat / 2 ^ 64 : Nat) : Int)
  | .divS .. => some (if y.toInt = 0 then -1 else x.toInt.tdiv y.toInt)
  | .divZ .. => some (if y.toNat = 0 then -1 else ((x.toNat / y.toNat : Nat) : Int))
  | .remS .. => some (if y.toInt = 0 then x.toInt else x.toInt - x.toInt.tdiv y.toInt * y.toInt)
  | .remZ .. => some (if y.toNat = 0 then (x.toNat : Int) else (x.toNat : Int) - ((x.toNat / y.toNat * y.toNat : Nat) : Int))
  | .and .. => some (x &&& y).toInt
  | .or .. => some (x ||| y).toInt
  | .xor .. => some (x ^^^ y).toInt
  | .shl .. => some (x.toInt * 2 ^ (y.toNat % 64))
  | .shr .. => some ((x.toNat / 2 ^ (y.toNat % 64) : Nat) : Int)
  | .sra .. => some (x.toInt.fdiv (2 ^ (y.toNat % 64)))
  | .minS .. => some (min x.toInt y.toInt)
  | .minZ .. => some (min x.toNat y.toNat : Nat)
  | .maxS .. => some (max x.toInt y.toInt)
  | .maxZ .. => some (max x.toNat y.toNat : Nat)
  | .sltS .. => some (if x.toInt < y.toInt then 1 else 0)
  | .sltZ .. => some (if x.toNat < y.toNat then 1 else 0)
  | .seq .. => some (if x.toInt = y.toInt then 1 else 0)
  | .clz .. => some (if x.toNat = 0 then 64 else 63 - (Nat.log2 x.toNat : Int))
  | .ctz .. => some (((List.range 64).find? fun k => x.getLsbD k).getD 64 : Nat)
  | .popc .. => some ((List.range 64).countP fun k => x.getLsbD k : Nat)
  | .sel .. => some (if old.toInt ≠ 0 then x.toInt else y.toInt)
  | _ => none

/-- The registers of a register-register operation: destination and sources, the first twice for a form of one source. -/
def aluRegs (i : Instr) : Option (SReg × SReg × SReg) :=
  match i with
  | .add d a b | .sub d a b | .mul d a b | .mulhS d a b | .mulhZ d a b | .divS d a b | .divZ d a b | .remS d a b
  | .remZ d a b | .and d a b | .or d a b | .xor d a b | .shl d a b | .shr d a b | .sra d a b | .minS d a b
  | .minZ d a b | .maxS d a b | .maxZ d a b | .sltS d a b | .sltZ d a b | .seq d a b | .sel d a b => some (d, a, b)
  | .clz d a | .ctz d a | .popc d a => some (d, a, a)
  | _ => none

/-- The result of an immediate operation or a constant builder as a number before it wraps (R167, R168), with its destination. -/
def immNumber (i : Instr) (s : State) : Option (SReg × Int) :=
  match i with
  | .addi d a n => some (d, (readReg s a).toInt + n.toInt)
  | .andi d a n => some (d, (readReg s a &&& BitVec.ofInt 64 n.toInt).toInt)
  | .ori d a n => some (d, (readReg s a ||| BitVec.ofInt 64 n.toInt).toInt)
  | .xori d a n => some (d, (readReg s a ^^^ BitVec.ofInt 64 n.toInt).toInt)
  | .shli d a n => some (d, (readReg s a).toInt * 2 ^ n.toNat)
  | .shri d a n => some (d, ((readReg s a).toNat / 2 ^ n.toNat : Nat))
  | .srai d a n => some (d, (readReg s a).toInt.fdiv (2 ^ n.toNat))
  | .slti d a n => some (d, if (readReg s a).toInt < n.toInt then 1 else 0)
  | .limm d n => some (d, n.toInt)
  | .lsh d n => some (d, (readReg s d).toNat * 2 ^ 19 + n.toNat)
  | .lpc d n => some (d, s.team.pc.toNat + n.toInt)
  | _ => none

/-- Whether a value meets the condition of `bc` (R173). -/
def branchTaken (cond : BitVec 3) (x : Int) : Bool :=
  match cond.toNat with
  | 0 => x = 0
  | 1 => x ≠ 0
  | 2 => x < 0
  | 3 => 0 ≤ x
  | 4 => 0 < x
  | _ => x ≤ 0

/-- Whether the focus team may make an access of some bytes at a VA: the address form (R80), the aperture (R284), a region that
holds the right at the team's level (R84, R344), and the alignment (R86). -/
def mayAccess (s : State) (va size : Nat) (need : Right) : Bool :=
  decide (va < 2 ^ 56) && !inAperture va && decide (va % size = 0)
    && match regionAt s (focusWho s) va with
      | some e => (!eSup e || decide (levelOf s.team = 1)) && hasRight e need
      | none => false

/-- The focus team has no store in its core's buffer, and no group owes it the application of a write. -/
def noStores (s : State) : Bool :=
  !s.sb.any (fun e => e.team = s.team.card.handle) && s.link.groups.all fun r => !groupOwes r s.team.card.handle

/-- The clusters' caches have room for some more lines in every slice, so that nothing is evicted (R13). -/
def cacheRoom (s : State) (n : Nat) : Bool :=
  decide (s.fab.copies.length + s.hand.length + 8192 * (windowRegions s).length + n < Config.sliceLines)

/-- A sector at which an access of a team does not wait, whatever else its word does before: no other team's mark, no flip, no data that is due, no
host to ask, and where it lies in far memory a copy of it in the module. -/
def steady (s : State) (w : Who) (va : Nat) : Bool :=
  !markedFor s w.team w.cluster (tagOf w.asid va) (sectorOf va) && s.fab.due.isEmpty && s.fab.evicts.isEmpty
    && match whereIs s w.domain (tagOf w.asid va) va with
      | .absent => false
      | .dram p =>
        !(s.hostp.flips.any fun f => f.granule = p / 4096) && (!s.xl.hostBias.contains (p / 4096) || s.hostp.adapters.isEmpty)
      | .far _ _ => s.fab.copies.any fun c => c.asid = tagOf w.asid va && c.sec = sectorOf va

/-- The place of a byte as a requester's access finds it. -/
def placeOf (s : State) (w : Who) (va : Nat) : Where := whereIs s w.domain (tagOf w.asid va) va

/-- Some bytes stand in memory at a VA as a requester reads them, and every byte kept at another place is unchanged. -/
def Wrote (s t : State) (w : Who) (va : Nat) (bs : List Byte) : Prop :=
  (∀ i, i < bs.length → readByte t w (va + i) = bs.getD i 0)
    ∧ ∀ w' a, (∀ i, i < bs.length → placeOf s w' a ≠ placeOf s w (va + i)) → readByte t w' a = readByte s w' a

/-- No page is mapped to far memory (R349, R419). -/
def noFarPage (s : State) : Bool := s.xl.pages.all fun p => p.far.isNone

/-- A state with the contents of its memories, and the dirty bits that go with them, as another has them, and the hardware's writes that wait at
their homes (R116, R419, R420). Where more of those wait, or pages lie in far memory, what is sent to the adapters is as the other has it too; and so
is the fabric there, and where the clusters' caches have no room left for the handoff sectors that come in (R13, R91). -/
def withBytes (s t : State) : State :=
  let calm : Bool := decide (t.posted = s.posted) && noFarPage s
  { s with
    mem := t.mem, hand := t.hand, posted := t.posted
    hostp := if calm then s.hostp
      else { s.hostp with far := t.hostp.far, farFills := t.hostp.farFills, farOut := t.hostp.farOut, snoops := t.hostp.snoops }
    link := if calm then s.link else { s.link with ports := t.link.ports, outbox := t.link.outbox }
    xl := { s.xl with pages := t.xl.pages }
    fab := if calm && decide (s.fab.copies.length + t.hand.length + 8192 * (windowRegions s).length < Config.sliceLines) then s.fab
      else { s.fab with
        copies := t.fab.copies, homes := t.fab.homes, evicts := t.fab.evicts, l1 := t.fab.l1, due := t.fab.due, cleared := t.fab.cleared
        farKnown := t.fab.farKnown } }

/-- A state with the ports, the flits on their way and the error log of another: what the messages that have left it change (R403, R405, R447). -/
def sentAs (s t : State) : State :=
  { s with
    link := { s.link with ports := t.link.ports, outbox := t.link.outbox }
    fw := { s.fw with log := t.fw.log, logSeq := t.fw.logSeq } }

/-- A packet has left on a port (R403, R407): in as many flits as its bytes need, each with the next 64 of them and its CRC, the first and the last
marked, under the port's next hop sequences, both on their way and in the replay buffer. -/
def leftOn (s t : State) (n chan : Nat) (p : Packet) : Prop :=
  ∃ fs : List Flit, t.link.outbox = s.link.outbox ++ fs.map (fun f => (n, f))
    ∧ portRec t n = { portRec s n with
        nextSend := ((portRec s n).nextSend + fs.length) % 4096, buffer := (portRec s n).buffer ++ fs }
    ∧ fs.length = (16 + p.body.length + 63) / 64
    ∧ ∀ i f, fs[i]? = some f → f.hseq = ((portRec s n).nextSend + i) % 4096 ∧ f.hack = ((portRec s n).expect + 4095) % 4096
      ∧ f.chan = chan ∧ f.first = decide (i = 0) ∧ f.last = decide (i + 1 = fs.length)
      ∧ f.payload = fit 64 ((packetBytes p).drop (64 * i)) ∧ f.crc = flitCrc f

/-- No byte of virtual memory has changed for any requester but bytes kept at the places of some ranges, each a requester, a VA and
a number of bytes. -/
def KeepsBytes (s t : State) (rs : List (Who × Nat × Nat)) : Prop :=
  s.memOk → ∀ w a, (∀ r, r ∈ rs → ∀ i, i < r.2.2 → placeOf s w a ≠ placeOf s r.1 (r.2.1 + i)) → readByte t w a = readByte s w a

/-- A request of a bound group has been sent (R304, R408): numbered next and on its way where the group may number one, else waiting. -/
def groupLeft (s t : State) (g : Nat) (r : Group) (q : GroupReq) : Prop :=
  let q1 := { q with number := r.nextNumber }
  let r1 := { r with
    nextNumber := r.nextNumber + 1, outstanding := r.outstanding ++ [(q1, 0)], unapplied := r.unapplied ++ [(q1.number, q1.team)] }
  (r.state = 0 ∧ r.outstanding.length < 4096 ∧ (sealed s = false ∨ r.root = s.link.moduleId) →
      groupOf t g = some r1 ∧ t.link.requests = s.link.requests ++ [q1])
    ∧ (¬ (r.state = 0 ∧ r.outstanding.length < 4096 ∧ (sealed s = false ∨ r.root = s.link.moduleId)) →
      groupOf t g = some { r with waiting := [q] } ∧ t.link.requests = s.link.requests)

/-- Whether a copy template has a fault of its own, by its reason (R287): a field beyond its codes, a reserved bit, an argument against argmode, or
index fields against the kind. -/
def templateFails (bs : List Byte) (arg : Int) (reason : Nat) : Bool :=
  match reason with
  | 1 => 2 < field bs 0 1 || 2 < field bs 1 1 || 4 < field bs 3 1 || 3 < field bs 0x28 1
  | 2 => field bs 2 1 / 8 ≠ 0 || field bs 4 4 ≠ 0 || field bs 0x18 4 / 2 ^ 18 ≠ 0 || field bs 0x29 7 ≠ 0 || field bs 0x40 64 ≠ 0
  | 3 => (field bs 3 1 ≠ 0 && arg = 0) || (field bs 3 1 = 0 && arg ≠ 0)
  | 7 =>
    if field bs 0 1 = 0 then field bs 0x1C 4 ≠ 0 || field bs 0x20 8 ≠ 0
    else field bs 0x1C 4 = 0 || field bs 0x20 8 % (if field bs 0x28 1 < 2 then 4 else 8) ≠ 0
  | _ => false

/-- An offset that some index tuple below the extents reaches on the strides (R99). -/
def Reaches (strides : List Int) (dims : List Nat) (o : Int) : Prop :=
  ∃ ix : List Nat, ix.length = dims.length ∧ (∀ k, k < dims.length → ix.getD k 0 < dims.getD k 0) ∧ o = offsetAt strides ix

/-- An offset lies in the range of a record: between two offsets that its own index tuples reach (R287). -/
def InRange (r : Shape) (o : Int) : Prop :=
  ∃ lo hi, Reaches r.strides r.dims lo ∧ Reaches r.strides r.dims hi ∧ lo ≤ o ∧ o ≤ hi

/-- A fault of a copy template against its two records, by its reason (R287). -/
def recordsFail (bs : List Byte) (arg : Int) (src dst : Shape) (reason : Nat) : Prop :=
  let kind := field bs 0 1
  let mode := field bs 3 1
  match reason with
  | 4 =>
    src.rank ≠ dst.rank ∨ src.fmt ≠ dst.fmt
      ∨ (kind = 0 ∧ ∃ k, k < dst.rank ∧ src.dims.getD k 0 < dst.dims.getD k 0)
      ∨ (kind ≠ 0 ∧ ∃ k, k + 1 < dst.rank ∧ src.dims.getD k 0 ≠ dst.dims.getD k 0)
  | 5 => bit (field bs 2 1) 1 = true ∧ (dst.scaled = true ∨ (dst.bits ≠ 4 ∧ field bs 0x18 4 % (dst.bits / 8) ≠ 0))
  | 6 => bit (field bs 2 1) 0 = true ∧ (src.hasDigest = false ∨ kind ≠ 0 ∨ mode ≠ 0)
  | 8 =>
    kind = 0 ∧ ((∃ o, Reaches src.strides dst.dims o ∧ ¬ InRange src (o + if mode = 1 ∨ mode = 3 then arg else 0))
      ∨ ∃ o, Reaches dst.strides dst.dims o ∧ ¬ InRange dst (o + if mode = 2 ∨ mode = 3 then arg else 0))
  | _ => False

/-- The global ranges that a store to the copy aperture checks, in order, with the right that each needs (R285): the source, the index list, a global
destination, the counter and the digest. -/
def copyRanges (bs : List Byte) (arg : Int) (src dst : Shape) : List (Option (Int × Nat) × Right) :=
  let mode := field bs 3 1
  let width := if field bs 0x28 1 < 2 then 4 else 8
  let flag (k : Nat) (r : Option (Int × Nat) × Right) : List (Option (Int × Nat) × Right) := if bit (field bs 2 1) k then [r] else []
  [(byteSpan src src.base (if mode = 1 ∨ mode = 3 then arg else 0), .r)]
    ++ (if field bs 0 1 = 0 then []
        else [(some (((field bs 0x20 8 : Nat) : Int) + (if mode = 4 then arg * (width : Nat) else 0), field bs 0x1C 4 * width), .r)])
    ++ (if bit (field bs 2 1) 1 then [] else [(byteSpan dst dst.base (if mode = 2 ∨ mode = 3 then arg else 0), .w)])
    ++ flag 2 (some (((field bs 0x30 8 : Nat) : Int), 8), .rw) ++ flag 0 (some ((src.digest : Int), 32), .r)

/-- Whether a collective descriptor has a fault of its own, by its reason (R296, R297). -/
def collFails (bs : List Byte) (reason : Nat) : Bool :=
  let kind := field bs 0 1
  let loc := bit (field bs 3 1) 0
  let queued := bit (field bs 3 1) 1
  match reason with
  | 1 => 4 < kind || 2 < field bs 1 1 || (field bs 1 1 ≠ 0 && (kind = 0 || kind = 3))
  | 2 => 15 < field bs 2 1 || ((kind = 1 || kind = 2 || kind = 4) && 6 < field bs 2 1)
  | 3 =>
    field bs 3 1 / 8 ≠ 0 || field bs 0x24 4 / 2 ^ 18 ≠ 0 || field bs 0x38 8 ≠ 0 || (kind ≤ 2 && field bs 6 2 ≠ 0)
      || (loc && field bs 0x18 8 / 2 ^ 18 ≠ 0)
  | 4 =>
    (loc && field bs 0x20 4 % 4096 ≠ 0) || (!loc && field bs 0x20 4 ≠ 0)
      || (queued && field bs 0x24 4 % 16 ≠ 0) || (!queued && field bs 0x24 4 ≠ 0) || (queued && !loc)
      || (bit (field bs 3 1) 2 && (field bs 0x28 8 = 0 || field bs 0x28 8 % 8 ≠ 0))
      || (!bit (field bs 3 1) 2 && field bs 0x28 8 ≠ 0)
  | _ => false

/-- The global ranges that `coll` checks, in order, with the right that each needs (R297), for `n` participating ranks. -/
def collSpans (bs : List Byte) (src dst : Shape) (n : Nat) : List (Option (Int × Nat) × Right) :=
  [(byteSpan src src.base 0, .r)]
    ++ (if bit (field bs 3 1) 0 then [] else [(byteSpan dst dst.base 0, .w)])
    ++ (if bit (field bs 3 1) 2 then [(some (((field bs 0x28 8 : Nat) : Int), 8 * if field bs 0 1 = 0 then n else 1), .rw)] else [])
    ++ (if field bs 0x30 8 = 0 then [] else [(some (((field bs 0x30 8 : Nat) : Int), 8), .rw)])

/-- The first trap among some ranges: the cause, and the address of the range. -/
def firstTrap (s : State) (rs : List (Option (Int × Nat) × Right)) : Option (Nat × Nat) :=
  (rs.filterMap fun r => spanTrap s (focusWho s) r.1 r.2).head?

/-- The bytes of the control block of a queue that hardware writes (R372). -/
def blockOf (s : State) (q : Queue) : Who × Nat × Nat := (hwWho (queueDom s q) q.asid, q.ring + 8, 48)

/-- The bytes of the counter word of a level (R388). -/
def counterOf (s : State) (l : Level) : Who × Nat × Nat := (hwWho (asidDom s l.asid) l.asid, l.va, 8)

/-- Levels stand after their parents, as they are created. -/
def levelsRise (s : State) : Bool := s.sched.levels.all fun y => decide (y.parent < y.id)

/-- Levels stand in the order of their numbers, each once, after their parents. -/
def levelsInOrder (s : State) : Prop := levelsRise s = true ∧ (s.sched.levels.map (·.id)).Pairwise (· < ·)

/-- A level is another one or lies below it (R32). -/
inductive Below (ls : List Level) (top : Nat) : Nat → Prop
  | self : Below ls top top
  | under (y : Level) : y ∈ ls → Below ls top y.parent → Below ls top y.id

/-- The bytes of a counter word as the hardware reads them. -/
def counterBytes (s : State) (l : Level) : List Byte := hwRead s (asidDom s l.asid) l.asid l.va 8

/-- The counter words of the levels are present and stand apart from one another. -/
def countersApart (s : State) : Prop :=
  (∀ x, x ∈ s.sched.levels → x.va ≠ 0 → present s (counterOf s x).1 x.va 8 = true)
    ∧ ∀ x y, x ∈ s.sched.levels → y ∈ s.sched.levels → x.id ≠ y.id → x.va ≠ 0 → y.va ≠ 0 →
        ∀ i j, i < 8 → j < 8 → (tagOf x.asid x.va, x.va + i) ≠ (tagOf y.asid y.va, y.va + j)
          ∧ placeOf s (counterOf s x).1 (x.va + i) ≠ placeOf s (counterOf s y).1 (y.va + j)

/-- Some cards are others, in order, but for those that have entered the ready pool now (R382, R385). -/
def CardsAre (old : List Card) (now : Nat) (new : List Card) : Prop :=
  new.map (fun c => { c with readyAt := none }) = old.map (fun c => { c with readyAt := none })
    ∧ ∀ (i : Nat) (x y : Card), old[i]? = some x → new[i]? = some y → y.readyAt = x.readyAt ∨ x.readyAt = none ∧ y.readyAt = some now

/-- What an atomic writes in place of an old pattern, none for a compare that fails (R170, R171): for the integer types from the
numbers that the patterns stand for, and for .f32 from the rules of R171. -/
def amoNumber (k : AmoKind) (aop old opnd cmp : Nat) : Option Nat :=
  let n := 8 * k.bytes
  let num (x : Nat) : Int := if k = .z32 || k = .z64 || x < 2 ^ (n - 1) then x else (x : Int) - 2 ^ n
  let f32 (least : Bool) : Nat :=
    if isNanCode old then (if isNanCode opnd then 0x7FC00000 else opnd)
    else if isNanCode opnd then old
    else if below (decodeFloat 4 opnd) (decodeFloat 4 old) = least then opnd else old
  match aop with
  | 0 => some (if k = .f32 then (addCodes 4 0 (decodeFloat 4 old) (decodeFloat 4 opnd)).1 else (old + opnd) % 2 ^ n)
  | 1 => some (if k = .f32 then f32 true else if num opnd < num old then opnd else old)
  | 2 => some (if k = .f32 then f32 false else if num old < num opnd then opnd else old)
  | 3 => some (old &&& opnd)
  | 4 => some (old ||| opnd)
  | 5 => some (old ^^^ opnd)
  | 6 => some opnd
  | _ => if old = cmp then some opnd else none

/-- A stop of the focus team is delivered to its supervisor's handler (R332, R354, R360): it is no halt by its cause or by the
debug controls, the team is not on its way into HALTED, the handler does not run, and the fault area has room for its record. -/
def delivers (s : State) (st : Stop) : Bool :=
  !s.team.sys.handler && decide (st.cause < 0x1A ∨ 0x1D < st.cause) && !(decide (st.cause = 0x19) && s.team.sys.dbg.getLsbD 0)
    && !s.team.sys.dbg.getLsbD 1 && !s.team.ord.haltReq && !s.team.halting && (freeSlots s s.team (if st.four then 4 else 1)).isSome

/-- A user or supervisor CSR that holds state of the team, by its number (R55, R331). -/
def csrHolds (s : State) (n : Nat) : Option Nat :=
  let t := s.team
  match n with
  | 0x001 => some t.sys.resumes.toNat
  | 0x002 => some t.card.tix
  | 0x003 => some t.card.tcount
  | 0x004 => some ((t.card.crew - 1) % 4 * 4096 + t.card.crk % 4 * 1024 + t.place.cluster % 64 * 16 + t.place.core % 16)
  | 0x005 => some t.regs.band.toNat
  | 0x006 => some t.regs.stack.length
  | 0x007 => some t.regs.flags.toNat
  | 0x008 => some (sget 0 t.regs.amax 0).toNat
  | 0x009 => some (sget 0 t.regs.amax 1).toNat
  | 0x00A => some (sget 0 t.regs.amax 2).toNat
  | 0x00B => some (sget 0 t.regs.amax 3).toNat
  | 0x010 =>
    some (s.link.gen.toNat * 2 ^ 32 + s.link.state.toNat * 2 ^ 28
      + ((List.range 16).filter fun k => (sget {} s.link.ports k).up).foldl (fun n k => n + 2 ^ k) 0)
  | 0x080 => some (if t.sys.handler then 5 else t.card.level)
  | 0x081 => some t.sys.tvec.toNat
  | 0x082 => some t.sys.epc.toNat
  | 0x083 => some t.sys.scause.toNat
  | 0x084 => some t.sys.srec.toNat
  | 0x085 => some (sget 0 t.sys.sscr 0).toNat
  | 0x086 => some (sget 0 t.sys.sscr 1).toNat
  | 0x087 => some (sget 0 t.sys.sscr 2).toNat
  | 0x088 => some (sget 0 t.sys.sscr 3).toNat
  | 0x089 => some t.card.asid
  | 0x08A => some (clusterRec s t.place.cluster).domain
  | 0x08B => some t.card.handle
  | 0x08C => some t.card.fault
  | 0x08D => some t.sys.slice.toNat
  | 0x08E => some t.sys.dbg.toNat
  | _ => none

/-- The team after a `csrw` that may be made (R52, R53, R195, R331), from the number and the value written; none for a CSR that
cannot be written. -/
def csrStores (t : Team) (n : Nat) (x : Word) : Option Team :=
  match n with
  | 0x005 => some { t with regs := { t.regs with band := BitVec.ofNat 3 (x.toNat % 8) } }
  | 0x007 => some { t with regs := { t.regs with flags := BitVec.ofNat 7 (t.regs.flags.toNat &&& (127 - x.toNat % 128)) } }
  | 0x008 | 0x009 | 0x00A | 0x00B =>
    let v := x.toNat % 2 ^ 33
    some { t with regs := { t.regs with amax := sset 0 t.regs.amax (n - 8) (BitVec.ofNat 33 (v / 2 ^ 32 * 2 ^ 32 + v % 2 ^ 31)) } }
  | 0x081 => some { t with sys := { t.sys with tvec := BitVec.ofNat 64 (x.toNat / 4 * 4) } }
  | 0x082 => some { t with
      sys := { t.sys with epc := x }, lane := { t.lane with append := if x = t.sys.epc then t.lane.append else none } }
  | 0x085 | 0x086 | 0x087 | 0x088 => some { t with sys := { t.sys with sscr := sset 0 t.sys.sscr (n - 0x085) x } }
  | 0x08D => some { t with sys := { t.sys with slice := BitVec.ofNat 32 (max 1024 (x.toNat % 2 ^ 32)) } }
  | 0x08E => some { t with sys := { t.sys with dbg := BitVec.ofNat 3 (x.toNat % 8) } }
  | _ => none

/-- A team's lane queue has grown by the entries of a word that appends `total` of them and has appended `done` (R24, R25, R177): as many
as there is room for and as no capture makes wait, in order; the PC has advanced with the last one, and else the append state says how far
it came. Code and the step record come into the caches, and memory is as it was. -/
def Appended (s t : State) (done total : Nat) (entry : Nat → LaneEntry) : Prop :=
  ∃ k, done + k ≤ total ∧ t.team.lane.queue = s.team.lane.queue ++ (List.range k).map (fun i => entry (done + i))
    ∧ t.team = { s.team with pc := t.team.pc, lane := { s.team.lane with queue := t.team.lane.queue, append := t.team.lane.append } }
    ∧ t = { s with team := t.team, hand := t.hand, fab := t.fab, cores := { s.cores with code := t.cores.code } } ∧ SameMemory s t
    ∧ (done + k = total → t.team.pc = s.team.pc + 4 ∧ t.team.lane.append = none)
    ∧ (done + k < total → t.team.pc = s.team.pc ∧ t.team.lane.append.map (·.done) = some (done + k)
        ∧ (64 ≤ t.team.lane.queue.length ∨ captureWaits t.team.lane.queue (entry (done + k)) = true))
    ∧ (s.team.lane.queue.length + (total - done) ≤ 64 →
        (∀ i, i < total - done →
          captureWaits (s.team.lane.queue ++ (List.range i).map fun j => entry (done + j)) (entry (done + i)) = false) →
        done + k = total)

/-- A lane of the focus team takes part in an L-word: it is active and both guards pass for it (R199). -/
def takes (s : State) (f : LaneFields) (l : Nat) : Bool := decide (l < teamLanes s.team) && (takers s.team f).getLsbD l

/-- The head L-word of the focus team has not begun: none of its passes is completed or left out, and no lane of it is kept (R26). -/
abbrev unbegun (t : Team) : Prop := t.lane.passes = 0 ∧ t.lane.skip = 0 ∧ t.lane.again = none ∧ t.lane.busy = false

/-- What a lane holds in a vector register, or in a register pair for a 64-bit type (R47). -/
def laneVal (t : Team) (ty r l : Nat) : Nat := if ty64 ty then vreg t r l + 2 ^ 32 * vreg t (r + 1) l else vreg t r l

/-- The least value of an integer type (R60). -/
def leastOf (ty : Nat) : Int := if isSigned ty then -2 ^ (widthOf ty - 1) else 0
/-- The greatest value of an integer type (R60). -/
def greatestOf (ty : Nat) : Int := if isSigned ty then 2 ^ (widthOf ty - 1) - 1 else 2 ^ widthOf ty - 1

/-- A number wrapped modulo 2^w and read in a type of width w (R60, R204); a type that is no signed integer reads as unsigned. -/
def inType (ty : Nat) (n : Int) : Int := (n - leastOf ty) % 2 ^ widthOf ty + leastOf ty

/-- The bits that a register, or a pair, holds for a number of a type: two's complement of its 32 or 64 bits (R47). -/
def stored (ty : Nat) (n : Int) : Nat := (n % 2 ^ (if ty64 ty then 64 else 32)).toNat

/-- An L-word wrote a type's values to the vector register in field D in the lanes that take part, raised flags, and left the lane
stream past it; every other lane and register, and the rest of the machine, is unchanged (R199, R202). -/
def LaneWrote (s t : State) (f : LaneFields) (ty : Nat) (val : Nat → Int) (fl : Flags) : Prop :=
  (∀ l, takes s f l = true → laneVal t.team ty f.d.toNat l = stored ty (inType ty (val l)))
    ∧ (∀ r l, l < 1024 → ¬ (takes s f l = true ∧ (r = f.d.toNat ∨ (ty64 ty = true ∧ r = f.d.toNat + 1))) →
        vreg t.team r l = vreg s.team r l)
    ∧ t.team = { s.team with
        regs := { s.team.regs with v := t.team.regs.v, flags := s.team.regs.flags ||| fl }, lane := pastWord s.team.lane }
    ∧ t = { s with team := t.team }

/-- An L-word wrote a bit to the predicate in field D in the lanes that take part, and changed nothing else; p15 stays all ones
(R45, R209, R250). -/
def PredWrote (s t : State) (f : LaneFields) (val : Nat → Bool) : Prop :=
  (∀ k l, l < teamLanes s.team →
      (predSet t.team k).getLsbD l =
        if k + 1632 = f.d.toNat ∧ k ≠ 15 ∧ takes s f l = true then val l else (predSet s.team k).getLsbD l)
    ∧ t.team = { s.team with regs := { s.team.regs with p := t.team.regs.p }, lane := pastWord s.team.lane }
    ∧ t = { s with team := t.team }

/-- An L-word changed the focus team's mask and its stack, and nothing else (R246, R247), but for the entries below the top 32 that it
pushed or changed, which stand in the context image (R335); none does where the new stack is the old one or what was below its top. -/
def MaskWrote (s t : State) (mask : Nat → Bool) (stack : List (Bool × Lanes)) : Prop :=
  (∀ l, l < teamLanes s.team → l < 1024 → t.team.regs.mask.getLsbD l = mask l) ∧ t.team.regs.stack = stack
    ∧ t.team = { s.team with
        regs := { s.team.regs with mask := t.team.regs.mask, stack := t.team.regs.stack }, lane := pastWord s.team.lane }
    ∧ t = { withBytes s t with team := t.team, fab := t.fab }
    ∧ KeepsBytes s t [(hwWho (teamDomain s s.team) 0, s.team.card.handle + 0x1000, 128 * (stack.length - 32))]
    ∧ (stack.length ≤ 32 ∨ (∃ top, s.team.regs.stack = top ++ stack) → t = { s with team := t.team })

/-- The number that an integer L-word computes from its sources in a type of width `w` before it wraps or saturates (R204). -/
def intNumber (i : Instr) (w : Nat) : Option (Int → Int → Int → Int) :=
  match i with
  | .vadd _ => some fun x y _ => x + y
  | .vsub _ => some fun x y _ => x - y
  | .vmul _ => some fun x y _ => x * y
  | .vmulh _ => some fun x y _ => (x * y).fdiv (2 ^ w)
  | .vmad _ => some fun x y z => x * y + z
  | .vabs _ => some fun x _ _ => x.natAbs
  | .vneg _ => some fun x _ _ => -x
  | .vmin _ => some fun x y _ => min x y
  | .vmax _ => some fun x y _ => max x y
  | _ => none

/-- The pattern that a bitwise, counting or bit field L-word gives from the patterns of its old destination and its sources, in a type
of width `w` that is signed or not (R206, R207). -/
def bitPattern (i : Instr) (w : Nat) (signed : Bool) : Option (BitVec w → BitVec w → BitVec w → BitVec w → BitVec w) :=
  match i with
  | .vand _ => some fun _ x y _ => x &&& y
  | .vor _ => some fun _ x y _ => x ||| y
  | .vxor _ => some fun _ x y _ => x ^^^ y
  | .vnot _ => some fun _ x _ _ => ~~~x
  | .vshl _ => some fun _ x y _ => x <<< (y.toNat % w)
  | .vshr _ => some fun _ x y _ => x >>> (y.toNat % w)
  | .vsra _ => some fun _ x y _ => x.sshiftRight (y.toNat % w)
  | .vrot _ => some fun _ x y _ => x.rotateLeft (y.toNat % w)
  | .vclz _ => some fun _ x _ _ => BitVec.ofNat w (((List.range w).find? fun k => x.getMsbD k).getD w)
  | .vpopc _ => some fun _ x _ _ => BitVec.ofNat w ((List.range w).countP fun k => x.getLsbD k)
  | .vbrev _ => some fun _ x _ _ => x.reverse
  | .vbext _ => some fun _ x y z =>
    let pos := y.toNat % w
    let len := min (z.toNat % 128) (w - pos)
    let field : Int := ((x.toNat / 2 ^ pos % 2 ^ len : Nat) : Int)
    BitVec.ofInt w (if signed ∧ 0 < len ∧ 2 ^ (len - 1) ≤ field then field - 2 ^ len else field)
  | .vbins _ => some fun d x y z =>
    let pos := y.toNat % w
    let mask := BitVec.ofNat w ((2 ^ min (z.toNat % 128) (w - pos) - 1) * 2 ^ pos)
    (d &&& ~~~mask) ||| ((x <<< pos) &&& mask)
  | _ => none

/-- The flags of the lanes that take part in an L-word, ORed (R202). -/
def flagsOf (s : State) (f : LaneFields) (one : Nat → Flags) : Flags := (takerList s.team f).foldl (fun a l => a ||| one l) 0

/-- An exact difference: +0 where it is zero (R66). -/
def difference (r : Val × Flags) : Val × Flags :=
  (match r.1 with
    | .num _ 0 _ => .num false 0 0
    | v => v, r.2)

/-- The exact value that a float L-word rounds once, with the flags of forming it (R66, R67, R213). -/
def floatExact (i : Instr) (x y z : Val) : Option (Val × Flags) :=
  match i with
  | .vfadd _ => some (sumVals [x, y])
  | .vfsub _ => some (difference (sumVals [x, y.flip]))
  | .vfmul _ => some (mulVals x y)
  | .vfma _ => some (let p := mulVals x y; let r := sumVals [p.1, z]; (r.1, p.2 ||| r.2))
  | .vfms _ => some (let p := mulVals x y; let r := difference (sumVals [p.1, z.flip]); (r.1, p.2 ||| r.2))
  | .vfnma _ => some (let p := mulVals x.flip y; let r := sumVals [p.1, z]; (r.1, p.2 ||| r.2))
  | _ => none

/-- The value that a float L-word gives without rounding (R214). -/
def floatPlain (i : Instr) (x y : Val) : Option Val :=
  match i with
  | .vfmin _ => some (if x.isNan then y else if y.isNan then x else if below y x then y else x)
  | .vfmax _ => some (if x.isNan then y else if y.isNan then x else if below x y then y else x)
  | .vfabs _ => some (match x with
    | .nan => .nan
    | .inf _ => .inf false
    | .num _ m e => .num false m e)
  | .vfneg _ => some x.flip
  | _ => none

/-- A magnitude p / q × 2^e that is rounded once: itself where p × 2^k is a multiple of q, and else a value that stands between the same two
multiples of 2^(e − k), which for a great k rounds as it does (R66). -/
def fraction (neg : Bool) (p q k : Nat) (e : Int) : Val :=
  if p * 2 ^ k % q = 0 then .num neg (p * 2 ^ k / q) (e - k) else .num neg (2 * (p * 2 ^ k / q) + 1) (e - k - 1)

/-- The quotient of two values in a float type with infinities, rounded once, and its flags (R67, R213). -/
def floatQuotient (ty rc : Nat) (x y : Val) : Nat × Flags :=
  match x, y with
  | .nan, _ | _, .nan => (nanCode ty, 0)
  | .inf _, .inf _ => (nanCode ty, fInv)
  | .inf s, .num t _ _ => roundTo ty rc (.inf (s != t))
  | .num s _ _, .inf t => (signBit ty (s != t), 0)
  | .num s m e, .num t n f =>
    if n = 0 then (if m = 0 then (nanCode ty, fInv) else (signBit ty (s != t) + infCode ty, fDz))
    else if m = 0 then (signBit ty (s != t), 0)
    else roundTo ty rc (fraction (s != t) m n (64 + Nat.log2 n) (e - f))

/-- The square root of a value in a float type, rounded once, and its flags (R67, R213); that of +∞ is rounded as any infinity is (the model's choice,
assumption log 83). -/
def floatRoot (ty rc : Nat) (x : Val) : Nat × Flags :=
  match x with
  | .nan => (nanCode ty, 0)
  | .inf s => if s then (nanCode ty, fInv) else roundTo ty rc (.inf false)
  | .num s m e =>
    if m = 0 then (signBit ty s, 0)
    else if s then (nanCode ty, fInv)
    else
      let n := m * 2 ^ (if e % 2 = 0 then 96 else 97)
      let r := Nat.sqrt n
      let q := e / 2 - 48
      roundTo ty rc (if r * r = n then .num false r q else .num false (2 * r + 1) (q - 1))

/-- The bit of a float code's class (R215). -/
def classBit (ty c : Nat) : Nat :=
  match decodeFloat ty (c % 2 ^ widthOf ty) with
  | .nan => 8
  | .inf s => if s then 0 else 7
  | .num s m e =>
    if m = 0 then (if s then 3 else 4)
    else if e = eMin ty - fracBits ty ∧ m < 2 ^ fracBits ty then (if s then 2 else 5)
    else (if s then 1 else 6)

/-- The dot product of some pairs of values with an addend, rounded once into f32, and its flags (R216). -/
def dotResult (rc : Nat) (ps : List (Val × Val)) (c : Val) : Nat × Flags :=
  let terms := ps.map (fun p => (mulVals p.1 p.2).1) ++ [c]
  let zeroInf := ps.any fun p => decide ((mulVals p.1 p.2).2 = fInv)
  let nanIn := ps.any (fun p => p.1.isNan || p.2.isNan) || c.isNan
  let bothInf := terms.contains (.inf false) && terms.contains (.inf true)
  if nanIn || zeroInf || bothInf then (0x7FC00000, if zeroInf || bothInf then fInv else 0)
  else roundTo 4 rc (sumVals terms).1

/-- The magnitude m × 2^e rounded to an integer, to nearest with ties to even or toward zero, and whether it changes (R66, R70, R219). -/
def roundedInt (rc m : Nat) (e : Int) : Nat × Bool :=
  if 0 ≤ e then (m * 2 ^ e.toNat, false)
  else
    let d := 2 ^ (-e).toNat
    let k := m / d
    let r := m % d
    (if rc % 2 = 1 ∨ 2 * r < d ∨ (2 * r = d ∧ k % 2 = 0) then k else k + 1, decide (r ≠ 0))

/-- What `vcvt` writes for the pattern of a source type, as an integer or a float code, and its flags (R70, R218). An infinity of a type whose
every value the destination has stays one without a flag (the model's choice, assumption log 84). -/
def conversionOf (dt st rc c : Nat) : Int × Flags :=
  let v := decodeVal st c
  let clamp (x : Int) : Int := max (leastOf dt) (min x (greatestOf dt))
  if isInt st ∧ isInt dt then
    let x : Int := if isSigned st ∧ 2 ^ (widthOf st - 1) ≤ c % 2 ^ widthOf st then (c % 2 ^ widthOf st : Nat) - 2 ^ widthOf st
      else (c % 2 ^ widthOf st : Nat)
    if 2 ≤ rc then (clamp x, if x = clamp x then 0 else fSat) else (x, 0)
  else if isInt dt then
    match v.1 with
    | .nan => (0, v.2 ||| fInv)
    | .inf s => (if s then leastOf dt else greatestOf dt, v.2 ||| (fInv ||| fSat))
    | .num s m e =>
      let n := roundedInt rc m e
      let x : Int := if s then -(n.1 : Int) else n.1
      (clamp x, v.2 ||| if x = clamp x then (if n.2 then fInx else 0) else fInv ||| fSat)
  else
    match v.1 with
    | .inf s =>
      if st = dt ∨ dt = 4 ∨ (st = 8 ∧ (dt = 5 ∨ dt = 6)) then ((signBit dt s + infCode dt : Nat), v.2)
      else ((roundTo dt rc (.inf s)).1, v.2 ||| (roundTo dt rc (.inf s)).2)
    | x => ((roundTo dt rc x).1, v.2 ||| (roundTo dt rc x).2)

/-- The delta of a block's scale and its flags (R73): emax is 8 for f8a, 15 for f8b, 2 for f4 and 1 for ts8. -/
def deltaOf (ty : Nat) (base : Int) (v : Val) : Int × Flags :=
  match v with
  | .nan => (7, fInv)
  | .inf _ => (7, 0)
  | .num _ m e =>
    let emax : Int := if ty = 7 then 8 else if ty = 8 then 15 else if ty = 9 then 2 else 1
    (if m = 0 then -8 else max (-7) (min 7 (Nat.log2 m + e - emax - base)), 0)

/-- The f32 value at a code rounded to an integral value, which keeps its sign, and its flags (R219). -/
def integralOf (rc c : Nat) : Nat × Flags :=
  match decodeFloat 4 c with
  | .nan => (0x7FC00000, 0)
  | .inf s => (if s then 0xFF800000 else 0x7F800000, 0)
  | .num s m e => ((roundTo 4 0 (.num s (roundedInt rc m e).1 0)).1, if (roundedInt rc m e).2 then fInx else 0)

/-- An exact value rounded once into f32 to nearest, with the flags of forming it. -/
def rounded (r : Val × Flags) : Nat × Flags := ((roundTo 4 0 r.1).1, r.2 ||| (roundTo 4 0 r.1).2)

/-- The curve table of a team evaluated at an f32 code, and its flags (R225). -/
def curveOf (t : Team) (c : Nat) : Nat × Flags :=
  let x := decodeFloat 4 c
  let word (k j : Nat) : Nat := (sget 0 t.regs.curve (5 * k + j)).toNat
  let val (k j : Nat) : Val := decodeFloat 4 (word k j)
  if x.isNan then (0x7FC00000, 0)
  else
    let k := ((List.range 64).reverse.find? fun k => ltVal (val k 0) x || eqVal (val k 0) x).getD 0
    let d := rounded (difference (sumVals [x, (val k 0).flip]))
    let next (h : Nat × Flags) (j : Nat) : Nat × Flags :=
      let p := mulVals (decodeFloat 4 h.1) (decodeFloat 4 d.1)
      let r := rounded ((sumVals [p.1, val k j]).1, p.2 ||| (sumVals [p.1, val k j]).2)
      (r.1, h.2 ||| r.2)
    next (next (next (word k 4, d.2) 3) 2) 1

/-- Two f32 codes combined by an op code of `vred` (R214, R241). -/
def f32Join (op x y : Nat) : Nat × Flags :=
  let a := decodeFloat 4 x
  let b := decodeFloat 4 y
  match op with
  | 0 => rounded (sumVals [a, b])
  | 1 => ((roundTo 4 0 (if a.isNan then b else if b.isNan then a else if below b a then b else a)).1, 0)
  | _ => ((roundTo 4 0 (if a.isNan then b else if b.isNan then a else if below a b then b else a)).1, 0)

/-- Two nodes of a tree combined, an absent one left out (R78). -/
def f32Nodes (op : Nat) (a b : Option Nat × Flags) : Option Nat × Flags :=
  match a.1, b.1 with
  | some x, some y => (some (f32Join op x y).1, a.2 ||| b.2 ||| (f32Join op x y).2)
  | some x, none => (some x, a.2 ||| b.2)
  | none, y => (y, a.2 ||| b.2)

/-- The node of 2^d band positions (R78). -/
def f32Tree (op : Nat) : Nat → List (Option Nat) → Option Nat × Flags
  | 0, xs => (xs.headD none, 0)
  | d + 1, xs => f32Nodes op (f32Tree op d (xs.take (2 ^ d))) (f32Tree op d (xs.drop (2 ^ d)))

/-- The first positions of a band in their largest aligned power-of-two spans, combined from the left (R79). -/
def f32Spans (op : Nat) : Nat → List (Option Nat) → Option Nat × Flags → Option Nat × Flags
  | 0, _, acc => acc
  | d + 1, xs, acc =>
    if 2 ^ d ≤ xs.length then f32Spans op d (xs.drop (2 ^ d)) (f32Nodes op acc (f32Tree op d (xs.take (2 ^ d))))
    else f32Spans op d xs acc

/-- The result of a node: the identity where it is absent, and a NaN as the canonical one (R62, R241). -/
def f32Result (op : Nat) (n : Option Nat × Flags) : Nat × Flags :=
  match n.1 with
  | some x => (if (decodeFloat 4 x).isNan then 0x7FC00000 else x, n.2)
  | none => (if op = 0 then 0 else if op = 1 then 0x7F800000 else 0xFF800000, n.2)

/-- A condition on the orders of two numbers: 0 eq, 1 ne, 2 lt, 3 le, 4 gt, 5 ge (R209, R215). -/
def ordersMeet (c : Nat) (eq lt : Bool) : Bool :=
  match c with
  | 0 => eq
  | 1 => !eq
  | 2 => lt
  | 3 => lt || eq
  | 4 => !lt && !eq
  | _ => !lt

/-- A shuffle's source position in a band of `n` lanes for the lane at position `p` with offset `y` (R239). -/
def shufflePos (i : Instr) (p y n : Nat) : Option Int :=
  match i with
  | .vshf _ => some ((y % n : Nat) : Int)
  | .vshfx _ => some ((p ^^^ (y % n) : Nat) : Int)
  | .vshfu _ => some ((p : Int) - y)
  | .vshfd _ => some ((p : Int) + y)
  | _ => none

/-- A combination of two integers of a type by op code (R241). -/
def combined (ty op x y : Nat) : Nat :=
  match op with
  | 0 => (x + y) % 2 ^ widthOf ty
  | 1 => if intOf ty x ≤ intOf ty y then x else y
  | 2 => if intOf ty x ≤ intOf ty y then y else x
  | 3 => x &&& y
  | 4 => x ||| y
  | _ => x ^^^ y

/-- The identity of a combination in an integer type (R241). -/
def identityOf (ty op : Nat) : Int :=
  match op with
  | 1 => greatestOf ty
  | 2 => leastOf ty
  | 3 => -1
  | _ => 0

end Sys2Proof.Machine
end

