-- ==== Sys2Proof/Certificates/Slice0/Obligations.lean ====
section
/-! DEFINITION. The statements for the provers. A statement of several parts is the conjunction of `Claims`, each a proposition of
its own below it. -/

open Sys2Proof Sys2Proof.Machine

/-- Integer arithmetic (R161, R165, R166): every register-register operation completes with its exact result wrapped modulo 2^64. -/
def Claims.ScalarRegisterResults : Prop :=
  ∀ (i : Instr) (d a b : SReg) (s : State) (n : Int), aluRegs i = some (d, a, b) →
    aluNumber i (readReg s a) (readReg s b) (readReg s d) = some n →
    ∃ t, exec i s = .next t ∧ readReg t d = (if d.toNat < 96 then BitVec.ofInt 64 n else 0)
      ∧ t.team.pc = s.team.pc + 4 ∧ OnlyScalar s t d

/-- Immediates and constant builders (R167, R168). -/
def Claims.ScalarImmediateResults : Prop :=
  ∀ (i : Instr) (d : SReg) (s : State) (n : Int), immNumber i s = some (d, n) →
    ∃ t, exec i s = .next t ∧ readReg t d = (if d.toNat < 96 then BitVec.ofInt 64 n else 0)
      ∧ t.team.pc = s.team.pc + 4 ∧ OnlyScalar s t d

/-- Scalar arithmetic (R165 to R168): exact results, wrapped modulo 2^64, and nothing else changed. -/
def Obligations.ScalarResults : Prop :=
  Claims.ScalarRegisterResults ∧ Claims.ScalarImmediateResults

/-- R166: the corners of division, which never traps and sets no flag. -/
def Obligations.DivisionCorners : Prop :=
  ∀ (d a b : SReg) (s : State), d.toNat < 96 →
    (∀ i, i = .divS d a b ∨ i = .divZ d a b ∨ i = .remS d a b ∨ i = .remZ d a b →
      ∃ t, exec i s = .next t ∧ t.team.regs.flags = s.team.regs.flags ∧ t.team.sys = s.team.sys ∧ t.team.place = s.team.place
        ∧ t.team.pc = s.team.pc + 4
        ∧ (readReg s b = 0 →
            readReg t d = if i = .divS d a b ∨ i = .divZ d a b then 0xFFFFFFFFFFFFFFFF else readReg s a)
        ∧ ((readReg s a).toInt = -2 ^ 63 → (readReg s b).toInt = -1 →
            (i = .divS d a b → (readReg t d).toInt = -2 ^ 63) ∧ (i = .remS d a b → readReg t d = 0)))

/-- `b`, `call` and `bc` (R139, R173). -/
def Claims.DirectBranches : Prop :=
  ∀ (s : State) (off : BitVec 26) (cond : BitVec 3) (a : SReg) (off16 : BitVec 16),
    (0 ≤ off.toInt ∨ cancelled s = false →
      (∃ t, exec (.b off) s = .next t ∧ t.team.pc = s.team.pc + BitVec.ofInt 64 (4 * off.toInt) ∧ OnlyPc s t)
      ∧ ∃ t, exec (.call off) s = .next t ∧ t.team.pc = s.team.pc + BitVec.ofInt 64 (4 * off.toInt)
          ∧ readReg t 95 = s.team.pc + 4 ∧ OnlyScalar s t 95)
    ∧ (branchTaken cond (readReg s a).toInt = false →
        ∃ t, exec (.bc cond a off16) s = .next t ∧ t.team.pc = s.team.pc + 4 ∧ OnlyPc s t)
    ∧ (branchTaken cond (readReg s a).toInt = true → 0 ≤ off16.toInt ∨ cancelled s = false →
        ∃ t, exec (.bc cond a off16) s = .next t ∧ t.team.pc = s.team.pc + BitVec.ofInt 64 (4 * off16.toInt) ∧ OnlyPc s t)

/-- `jr`, `callr` and `ret` (R173): the checks of the target, the jump, and the end of a team (R28), which closes an
open batch that holds a copy (R181). -/
def Claims.RegisterJumps : Prop :=
  (∀ (s : State) (a : SReg) (i : Instr) (x : Word),
    (i = .jr a ∧ x = readReg s a) ∨ (i = .callr a ∧ x = readReg s a) ∨ (i = .ret ∧ x = readReg s 95 ∧ x ≠ 0) →
    (2 ^ 56 ≤ x.toNat →
      ∃ st, exec i s = .next (takeStop s st) ∧ st.cause = 0x04 ∧ st.va = x.toNat ∧ st.iva = s.team.pc.toNat)
    ∧ (x.toNat < 2 ^ 56 → x.toNat % 4 ≠ 0 →
      ∃ st, exec i s = .next (takeStop s st) ∧ st.cause = 0x07 ∧ st.va = x.toNat ∧ st.iva = s.team.pc.toNat)
    ∧ (x.toNat < 2 ^ 56 → x.toNat % 4 = 0 → s.team.pc.toNat ≤ x.toNat ∨ cancelled s = false →
      ∃ t, exec i s = .next t ∧ t.team.pc = x ∧ readReg t 95 = (if i = .callr a then s.team.pc + 4 else readReg s 95)
        ∧ OnlyScalar s t 95))
  ∧ ∀ s : State, readReg s 95 = 0 →
      ∃ t, exec .ret s = .next t
        ∧ t.team = { s.team with ord := { s.team.ord with
            ending := true
            batch := if s.eng.copies.any (fun c => c.team = s.team.card.handle && c.batch = s.team.ord.batch) then s.team.ord.batch + 1
              else s.team.ord.batch } }
        ∧ OnlyTeam s t

/-- R174 with R39: each taken branch with a negative offset is a cancellation point, at which the team is removed once the L-word that has
begun is done, and a branch to itself is none. -/
def Claims.BackwardBranchesCancel : Prop :=
  ∀ (s : State) (i : Instr) (x : Word), cancelled s = true →
    (∃ off, (i = .b off ∨ i = .call off) ∧ off.toInt < 0 ∧ x = s.team.pc + BitVec.ofInt 64 (4 * off.toInt))
      ∨ (∃ cond a off, i = .bc cond a off ∧ branchTaken cond (readReg s a).toInt = true ∧ off.toInt < 0
          ∧ x = s.team.pc + BitVec.ofInt 64 (4 * off.toInt))
      ∨ (∃ a, (i = .jr a ∨ i = .callr a) ∧ x = readReg s a ∧ x.toNat < s.team.pc.toNat ∧ x.toNat < 2 ^ 56 ∧ x.toNat % 4 = 0)
      ∨ (i = .ret ∧ x = readReg s 95 ∧ x ≠ 0 ∧ x.toNat < s.team.pc.toNat ∧ x.toNat < 2 ^ 56 ∧ x.toNat % 4 = 0) →
    (midWord s s.team.card.handle = false → ∃ s1, exec i s = .next (cancelTeam s1) ∧ s1.team.pc = x ∧ OnlyScalar s s1 95)
    ∧ (midWord s s.team.card.handle = true → exec i s = .next s)
    ∧ ∃ t, exec (.b 0) s = .next t ∧ t.team.pc = s.team.pc ∧ OnlyPc s t

/-- Control flow of the scalar stream (R28, R39, R139, R173, R174). -/
def Obligations.BranchesAndJumps : Prop :=
  Claims.DirectBranches ∧ Claims.RegisterJumps ∧ Claims.BackwardBranchesCancel

/-- The checks of `ld`, `st`, `amo`, `mxpost` and `coll` in order (R80, R84, R86, R169, R170, R275, R297), each a stop of the team at the word; in
the copy aperture every access but an aligned 8-byte store stops with the permission cause (R284). -/
def Obligations.AccessChecks : Prop :=
  ∀ (s : State) (i : Instr) (va n : Nat) (need : Right),
    (∃ ty d a off, i = .ld ty d a off ∧ n = 2 ^ (ty.toNat / 2) ∧ need = .r
        ∧ va = (readReg s a + BitVec.ofInt 64 (off.toInt * n)).toNat)
      ∨ (∃ ty d a off, i = .st ty d a off ∧ n = 2 ^ ty.toNat ∧ need = .w
        ∧ va = (readReg s a + BitVec.ofInt 64 (off.toInt * n)).toNat)
      ∨ (∃ aop ord d a b, (i = .amoS32 aop ord d a b ∨ i = .amoZ32 aop ord d a b ∨ i = .amoF32 aop ord d a b) ∧ n = 4
        ∧ need = .rw ∧ va = (readReg s a).toNat)
      ∨ (∃ aop ord d a b, i = .amo64 aop ord d a b ∧ n = 8 ∧ need = .rw ∧ va = (readReg s a).toNat)
      ∨ (∃ a, i = .mxpost a ∧ s.team.sys.handler = false ∧ n = 64 ∧ need = .rw ∧ va = (readReg s a).toNat)
      ∨ (∃ d a, i = .coll d a ∧ s.team.sys.handler = false ∧ n = 64 ∧ need = .r ∧ va = (readReg s a).toNat) →
    let stopsWith (c : Nat) : Prop :=
      ∃ st, exec i s = .next (takeStop s st) ∧ st.cause = c ∧ st.va = va ∧ st.iva = s.team.pc.toNat
    (inAperture va = true → (∃ ty d a off, i = .st ty d a off) → s.team.sys.handler = false → ¬ (n = 8 ∧ va % 4096 = 0) → stopsWith 0x06)
    ∧ (inAperture va = true → (¬ ∃ ty d a off, i = .st ty d a off) → stopsWith 0x06)
    ∧ (inAperture va = false →
    (2 ^ 56 ≤ va → stopsWith 0x04)
    ∧ (va < 2 ^ 56 → regionAt s (focusWho s) va = none → stopsWith 0x05)
    ∧ (va < 2 ^ 56 → ∀ e, regionAt s (focusWho s) va = some e → ((eSup e = true ∧ levelOf s.team ≠ 1) ∨ hasRight e need = false) →
        stopsWith 0x06)
    ∧ (va < 2 ^ 56 → ∀ e, regionAt s (focusWho s) va = some e → (eSup e = false ∨ levelOf s.team = 1) → hasRight e need = true →
        va % n ≠ 0 → stopsWith 0x07))

/-- `ld` (R137, R164, R169): the bytes at the address, extended as the type says; nothing else changes but the PC and caches. -/
def Claims.LoadResult : Prop :=
  ∀ (s : State) (ty : BitVec 3) (d a : SReg) (off : BitVec 9) (va n : Nat), n = 2 ^ (ty.toNat / 2) →
    va = (readReg s a + BitVec.ofInt 64 (off.toInt * n)).toNat → mayAccess s va n .r = true → noStores s = true →
    gateAt s (focusWho s) va = .go →
    ∃ t, exec (.ld ty d a off) s = .next t
      ∧ (let v := ofBytes ((List.range n).map fun i => readByte s (focusWho s) (va + i))
         readReg t d = if d.toNat < 96 then
             (if ty.toNat % 2 = 0 ∧ 2 ^ (8 * n - 1) ≤ v then BitVec.ofInt 64 ((v : Int) - 2 ^ (8 * n)) else BitVec.ofNat 64 v)
           else 0)
      ∧ (∀ r, r ≠ d → readReg t r = readReg s r)
      ∧ t.team = { s.team with pc := s.team.pc + 4, regs := { s.team.regs with s := t.team.regs.s } }
      ∧ t = { s with team := t.team, hand := t.hand, fab := t.fab } ∧ SameMemory s t

/-- A page that is not present stops a load or an atomic at the word with the load-translation cause (R164, R350). -/
def Claims.LoadTranslationFault : Prop :=
  ∀ (s : State) (ty : BitVec 3) (d a : SReg) (off : BitVec 9) (va n : Nat), n = 2 ^ (ty.toNat / 2) →
    va = (readReg s a + BitVec.ofInt 64 (off.toInt * n)).toNat → mayAccess s va n .r = true → noStores s = true →
    gateAt s (focusWho s) va = .absent →
    ∃ s1 st, exec (.ld ty d a off) s = .next (takeStop s1 st) ∧ st.cause = 0x13 ∧ st.va = va ∧ st.iva = s.team.pc.toNat
      ∧ s1.team.pc = s.team.pc ∧ s1.team.regs = s.team.regs

/-- `st` (R169, R352): the store retires into the late-fault store buffer with the low bytes of the register; no byte of memory
changes before it is performed. -/
def Claims.StoreRetires : Prop :=
  ∀ (s : State) (ty : BitVec 2) (d a : SReg) (off : BitVec 9) (va n : Nat), n = 2 ^ ty.toNat →
    va = (readReg s a + BitVec.ofInt 64 (off.toInt * n)).toNat → mayAccess s va n .w = true →
    (kindAt s (tagOf s.team.card.asid va) va = 2 →
      ∀ r, groupOf s (groupAt s (tagOf s.team.card.asid va) va) = some r → r.state ≠ 1) →
    teamShare s s.team.card.handle < 128 → coreShare s (coreOf s.team) < 512 →
    (∀ e, e ∈ s.sb → e.held = false) →
    ∃ t e, exec (.st ty d a off) s = .next t ∧ t.sb = s.sb ++ [e]
      ∧ e.team = s.team.card.handle ∧ e.core = coreOf s.team ∧ e.asid = tagOf s.team.card.asid va ∧ e.sector = va / 64 * 64
      ∧ e.bytes = (List.range n).map (fun i => (va % 64 + i, BitVec.ofNat 8 ((readReg s d).toNat / 256 ^ i)))
      ∧ e.seq = s.team.ord.seq + 1 ∧ e.iva = s.team.pc.toNat ∧ e.held = false ∧ e.covers = s.team.ord.cover
      ∧ t.team = { s.team with pc := s.team.pc + 4, ord := { s.team.ord with seq := s.team.ord.seq + 1 } }
      ∧ t = { s with team := t.team, sb := t.sb } ∧ SameMemory s t

/-- A load of the team reads its own retired store before it is performed (R104, R352). -/
def Claims.StoreThenLoad : Prop :=
  ∀ (s t : State) (ty : BitVec 2) (d a d2 : SReg) (off : BitVec 9) (va n : Nat), n = 2 ^ ty.toNat →
    va = (readReg s a + BitVec.ofInt 64 (off.toInt * n)).toNat → mayAccess s va n .rw = true →
    kindAt s (tagOf s.team.card.asid va) va ≠ 2 →
    teamShare s s.team.card.handle < 128 → coreShare s (coreOf s.team) < 512 →
    (∀ e, e ∈ s.sb → e.held = false) →
    exec (.st ty d a off) s = .next t →
    ∃ u, exec (.ld (BitVec.ofNat 3 (2 * ty.toNat + 1)) d2 a off) t = .next u
      ∧ readReg u d2 = (if d2.toNat < 96 then BitVec.ofNat 64 ((readReg s d).toNat % 256 ^ n) else 0)
      ∧ u.team.pc = s.team.pc + 8 ∧ u.sb = t.sb

/-- A store to the window of a group in error (R295): the group-error stop at the word, which names the group, before anything is stored. -/
def Claims.GroupErrorStore : Prop :=
  ∀ (s : State) (ty : BitVec 2) (d a : SReg) (off : BitVec 9) (va n : Nat) (r : Group), n = 2 ^ ty.toNat →
    va = (readReg s a + BitVec.ofInt 64 (off.toInt * n)).toNat → mayAccess s va n .w = true →
    kindAt s (tagOf s.team.card.asid va) va = 2 → groupOf s (groupAt s (tagOf s.team.card.asid va) va) = some r → r.state = 1 →
    ∃ st, exec (.st ty d a off) s = .next (takeStop s st) ∧ st.cause = 0x12 ∧ st.va = va ∧ st.iva = s.team.pc.toNat ∧ st.detail = r.number

/-- Scalar loads and stores (R104, R137, R164, R169, R295, R350, R352). -/
def Obligations.LoadsAndStores : Prop :=
  Claims.LoadResult ∧ Claims.LoadTranslationFault ∧ Claims.StoreRetires ∧ Claims.StoreThenLoad ∧ Claims.GroupErrorStore

/-- The scalar atomics (R170, R171, R172) outside group windows: the value read, what is written, and nothing else. -/
def Claims.PlainAtomics : Prop :=
  ∀ (s : State) (i : Instr) (k : AmoKind) (aop : BitVec 3) (ord : BitVec 2) (d a b : SReg) (va n : Nat),
    ((i = .amoS32 aop ord d a b ∧ k = .s32) ∨ (i = .amoZ32 aop ord d a b ∧ k = .z32) ∨ (i = .amo64 aop ord d a b ∧ k = .w64)
      ∨ (i = .amoF32 aop ord d a b ∧ k = .f32)) →
    n = (if k = .w64 then 8 else 4) → va = (readReg s a).toNat → mayAccess s va n .rw = true →
    kindAt s (tagOf s.team.card.asid va) va ≠ 2 → noStores s = true → gateAt s (focusWho s) va = .go →
    s.fw.lev.state = 0 → s.memOk →
    let old := ofBytes ((List.range n).map fun j => readByte s (focusWho s) (va + j))
    let opnd := (readReg s b).toNat % 256 ^ n
    let cmp := (readReg s d).toNat % 256 ^ n
    ∃ t, exec i s = .next t
      ∧ readReg t d = (if d.toNat < 96 then
          (if k = .s32 ∧ 2 ^ 31 ≤ old then BitVec.ofInt 64 ((old : Int) - 2 ^ 32) else BitVec.ofNat 64 old) else 0)
      ∧ (∀ r, r ≠ d → readReg t r = readReg s r) ∧ t.team.pc = s.team.pc + 4
      ∧ t.team.regs = { s.team.regs with s := t.team.regs.s } ∧ t.team.sys = s.team.sys ∧ t.team.lane = s.team.lane
      ∧ (match amoNumber k aop.toNat old opnd cmp with
         | some x => Wrote s t (focusWho s) va (toBytes n x)
         | none => ∀ w x, readByte t w x = readByte s w x)
      ∧ t.lm = s.lm ∧ t.tiles = s.tiles ∧ t.cores = s.cores ∧ t.others = s.others ∧ t.sb = s.sb

/-- The scalar atomics in a group window (R124, R172, R295, R408): the atomic leaves as a request and waits at the word; the value that its
application gives ends it; behind a request that waits for its number it waits too; and in a group in error it is the group-error stop, whether it
has left or not (the model's choice, assumption log 117). -/
def Claims.GroupAtomics : Prop :=
  ∀ (s : State) (i : Instr) (k : AmoKind) (aop : BitVec 3) (ord : BitVec 2) (d a b : SReg) (va n g : Nat) (r : Group),
    ((i = .amoS32 aop ord d a b ∧ k = .s32) ∨ (i = .amoZ32 aop ord d a b ∧ k = .z32) ∨ (i = .amo64 aop ord d a b ∧ k = .w64)
      ∨ (i = .amoF32 aop ord d a b ∧ k = .f32)) →
    n = (if k = .w64 then 8 else 4) → va = (readReg s a).toNat → mayAccess s va n .rw = true →
    let tag := tagOf s.team.card.asid va
    let atom := s.team.ord.atoms.find? (·.key = 1024)
    kindAt s tag va = 2 → g = groupAt s tag va → groupOf s g = some r →
    ((∀ x, atom = some x → x.value = none) → r.state = 1 →
      ∃ s1 st, exec i s = .next (takeStop s1 st) ∧ st.cause = 0x12 ∧ st.va = va ∧ st.iva = s.team.pc.toNat ∧ st.detail = g
        ∧ s1 = { s with team := { s.team with ord := { s.team.ord with atoms := s.team.ord.atoms.filter (·.key ≠ 1024) } } })
    ∧ (∀ x, atom = some x → x.value = none → r.state ≠ 1 → exec i s = .next s)
    ∧ (atom = none → r.state ≠ 1 → noStores s = true → r.waiting ≠ [] → exec i s = .next s)
    ∧ (atom = none → r.state ≠ 1 → noStores s = true → r.waiting = [] → s.fw.lev.state = 0 →
      ∃ t, exec i s = .next t
        ∧ groupLeft s t g r
            { group := g, src := s.link.moduleId, number := 0, team := s.team.card.handle, asid := tag
              op := .atomic va aop k.code (BitVec.ofNat 64 ((readReg s b).toNat % 256 ^ n)) (BitVec.ofNat 64 ((readReg s d).toNat % 256 ^ n)) }
        ∧ t.team = { s.team with
            ord := { s.team.ord with seq := s.team.ord.seq + 1, atoms := s.team.ord.atoms ++ [{ key := 1024, group := g }] } }
        ∧ t = { sentAs s t with
            team := t.team, link := { (sentAs s t).link with requests := t.link.requests, groups := t.link.groups } })
    ∧ ∀ x v, atom = some x → x.value = some v → v.toNat < 256 ^ n →
      ∃ t, exec i s = .next t
        ∧ readReg t d = (if d.toNat < 96 then
            (if k = .s32 ∧ 2 ^ 31 ≤ v.toNat then BitVec.ofInt 64 ((v.toNat : Int) - 2 ^ 32) else v) else 0)
        ∧ (∀ q, q ≠ d → readReg t q = readReg s q)
        ∧ t.team = { s.team with
            pc := s.team.pc + 4, regs := { s.team.regs with s := t.team.regs.s }
            ord := { s.team.ord with atoms := s.team.ord.atoms.filter (·.key ≠ 1024) } }
        ∧ OnlyTeam s t

/-- The scalar atomics (R124, R170 to R172, R295, R408). -/
def Obligations.ScalarAtomics : Prop :=
  Claims.PlainAtomics ∧ Claims.GroupAtomics

/-- Fences, waits for stores and barriers of a team whose stores have all been performed (R112 to R118, R31, R178, R179, R183,
R184): each completes, and what it drops or records is all that changes. -/
def Claims.FencesComplete : Prop :=
  ∀ s : State, noStores s = true →
    (∀ kind scope, fenceOk kind scope = true →
      ∃ t, exec (.fence kind scope) s = .next t
        ∧ t.team = { s.team with
            pc := s.team.pc + 4
            ord := { s.team.ord with cover := if kind = 0 ∨ scope = 0 then s.team.ord.cover else s.team.ord.seq + 1 } }
        ∧ OnlyTeam s t)
    ∧ (∃ t, exec .gfence s = .next t ∧ t.team.pc = s.team.pc + 4 ∧ OnlyPc s t)
    ∧ (∃ t, exec .rfence s = .next t ∧ t.team = { s.team with pc := s.team.pc + 4 }
        ∧ t = { s with team := t.team, eng := { s.eng with recs := t.eng.recs } } ∧ SameMemory s t
        ∧ (∀ c, c ∈ t.eng.recs → c ∈ s.eng.recs ∧ ¬ (c.core = coreOf s.team ∧ c.asid = s.team.card.asid))
        ∧ ∀ c, c ∈ s.eng.recs → c.core ≠ coreOf s.team ∨ (c.asid ≠ s.team.card.asid ∧ c.asid ≠ 0) → c ∈ t.eng.recs)
    ∧ (s.team.sys.handler = false → s.team.lane.queue = [] →
        ∃ t, exec .lsync s = .next t ∧ t.team.pc = s.team.pc + 4 ∧ OnlyPc s t)
    ∧ (s.team.sys.handler = false → s.team.ord.passed = false → (∀ x, x ∈ crewMates s s.team → x.ord.atBarrier = true) →
        ∃ t, exec .cbar s = .next t
          ∧ t.team = { s.team with
              pc := s.team.pc + 4
              ord := { s.team.ord with cover := s.team.ord.seq + 1, atBarrier := false, passed := false } }
          ∧ t = { s with team := t.team, others := t.others } ∧ SameMemory s t
          ∧ t.others = s.others.map fun x =>
              if ((crewMates s s.team).map (·.card.handle)).contains x.card.handle then
                { x with ord := { x.ord with atBarrier := false, passed := true } }
              else x)

/-- A held store stops the team at a fence, `rfence` and `cbar` with the deferred-fault cause (R118, R179, R183, R353). -/
def Claims.HeldStoresStopFences : Prop :=
  ∀ (s : State) (i : Instr), (∀ e, e ∈ s.sb → e.team = s.team.card.handle → e.held = true) →
    hasStores s s.team.card.handle = true → (s.link.groups.all fun r => !groupOwes r s.team.card.handle) = true →
    ((∃ kind scope, i = .fence kind scope ∧ fenceOk kind scope = true ∧ kind ≠ 0 ∧ scope ≠ 0) ∨ i = .rfence
      ∨ (i = .cbar ∧ s.team.sys.handler = false ∧ s.team.ord.passed = false)) →
    ∃ st, exec i s = .next (takeStop s st) ∧ st.cause = 0x14 ∧ st.iva = s.team.pc.toNat

/-- `cwait` (R180): it goes on once the counter has reached the target, and else stays at the word. -/
def Claims.CounterWaits : Prop :=
  ∀ (s : State) (a b : SReg) (va : Nat), va = (readReg s a).toNat → mayAccess s va 8 .r = true → noStores s = true →
    gateAt s (focusWho s) va = .go →
    let v := ofBytes ((List.range 8).map fun i => readByte s (focusWho s) (va + i))
    ((readReg s b).toNat ≤ v → ∃ t, exec (.cwait a b) s = .next t ∧ t.team = { s.team with pc := s.team.pc + 4 }
        ∧ t = { s with team := t.team, hand := t.hand, fab := t.fab } ∧ SameMemory s t)
    ∧ (v < (readReg s b).toNat → cancelled s = false → ∃ t, exec (.cwait a b) s = .next t ∧ t.team = s.team
        ∧ t = { s with hand := t.hand, fab := t.fab } ∧ SameMemory s t)

/-- `cpclose` and `cpwait` (R181, R182): with 16 closed batches that are not complete the close waits for the oldest of them. -/
def Claims.CopyBatches : Prop :=
  ∀ (s : State) (d a : SReg),
    ((∀ b, s.team.ord.closing = some b → b ∉ openBatches s s.team) →
      (s.team.ord.closing = none → (openBatches s s.team).length < 16) →
      ∃ t, exec (.cpclose d) s = .next t ∧ readReg t d = (if d.toNat < 96 then BitVec.ofNat 64 s.team.ord.batch else 0)
        ∧ (∀ r, r ≠ d → readReg t r = readReg s r)
        ∧ t.team = { s.team with
            pc := s.team.pc + 4, regs := { s.team.regs with s := t.team.regs.s }
            ord := { s.team.ord with batch := s.team.ord.batch + 1, closing := none } }
        ∧ OnlyTeam s t)
    ∧ (s.team.ord.closing = none → 16 ≤ (openBatches s s.team).length →
      ∃ b, b ∈ openBatches s s.team ∧ (∀ n, n ∈ openBatches s s.team → b ≤ n)
        ∧ exec (.cpclose d) s = .next { s with team := { s.team with ord := { s.team.ord with closing := some b } } })
    ∧ (∀ b, s.team.ord.closing = some b → b ∈ openBatches s s.team → exec (.cpclose d) s = .next s)
    ∧ ((readReg s a).toNat = 0 ∨ s.team.ord.batch ≤ (readReg s a).toNat →
        ∃ st, exec (.cpwait a) s = .next (takeStop s st) ∧ st.cause = 0x03 ∧ st.iva = s.team.pc.toNat)
    ∧ (0 < (readReg s a).toNat → (readReg s a).toNat < s.team.ord.batch → s.team.ord.stops = [] →
        (∀ c, c ∈ s.eng.copies → c.team = s.team.card.handle → c.batch ≠ (readReg s a).toNat) →
        ∃ t, exec (.cpwait a) s = .next t ∧ t.team.pc = s.team.pc + 4 ∧ OnlyPc s t)

/-- Fences and waits of the scalar stream (R31, R112 to R118, R178 to R184, R353). -/
def Obligations.FencesAndWaits : Prop :=
  Claims.FencesComplete ∧ Claims.HeldStoresStopFences ∧ Claims.CounterWaits ∧ Claims.CopyBatches

/-- `qpush` and `qpop` (R186, R187): one entry goes in at the tail or comes out at the head, and no other byte changes; a `qpop` that its crew
would see waits for the stores that the team's last release fence covers (R95, R108). -/
def Claims.LocalQueues : Prop :=
  ∀ (s : State) (d a b : SReg) (la core : Nat) (q : QHeader), la = (readReg s a).toNat → core = coreOf s.team →
    s.team.sys.handler = false → queueTrap s la = none → q = qheader s core la →
    let entry (i : Nat) : Nat := lmAddr core (la + 16 + 8 * (i % 2 ^ q.lcap))
    (noStores s = true → q.used < 2 ^ q.lcap →
      ∃ t, exec (.qpush a b) s = .next t ∧ t.team.pc = s.team.pc + 4 ∧ t.team = { s.team with pc := t.team.pc }
        ∧ t = { s with team := t.team, lm := t.lm }
        ∧ lmBytes t core (la + 16 + 8 * (q.tail % 2 ^ q.lcap)) 8 = toBytes 8 (readReg s b).toNat
        ∧ (qheader t core la).tail = (q.tail + 1) % 2 ^ 32 ∧ (qheader t core la).head = q.head
        ∧ ∀ x, ¬ (entry q.tail ≤ x ∧ x < entry q.tail + 8) → ¬ (lmAddr core la + 4 ≤ x ∧ x < lmAddr core la + 8) →
            byteAt t.lm x = byteAt s.lm x)
    ∧ (q.used ≠ 0 → s.team.card.crew ≤ 1 ∨ s.team.ord.cover = 0 ∨ noStores s = true →
      ∃ t, exec (.qpop d a) s = .next t ∧ t.team.pc = s.team.pc + 4
        ∧ readReg t d = (if d.toNat < 96 then BitVec.ofNat 64 (ofBytes (lmBytes s core (la + 16 + 8 * (q.head % 2 ^ q.lcap)) 8)) else 0)
        ∧ (∀ r, r ≠ d → readReg t r = readReg s r)
        ∧ t.team = { s.team with pc := t.team.pc, regs := { s.team.regs with s := t.team.regs.s } }
        ∧ t = { s with team := t.team, lm := t.lm }
        ∧ (qheader t core la).head = (q.head + 1) % 2 ^ 32 ∧ (qheader t core la).tail = q.tail
        ∧ ∀ x, ¬ (lmAddr core la ≤ x ∧ x < lmAddr core la + 4) → byteAt t.lm x = byteAt s.lm x)
    ∧ (q.used = 0 → cancelled s = false → exec (.qpop d a) s = .next s)
    ∧ (q.used ≠ 0 → 1 < s.team.card.crew → (∀ e, e ∈ s.sb → e.held = false) →
      (∃ e, e ∈ s.sb ∧ e.team = s.team.card.handle ∧ e.seq < s.team.ord.cover) →
      exec (.qpop d a) s = .next (cancelPoint (drainTeam s s.team.card.handle)) ∧ (drainTeam s s.team.card.handle).lm = s.lm)

/-- `post` (R188, R374): where its checks pass and the ring has room, the card stands in the slot with its lap last, the reserve has
risen, and the slot's number is the result; on a full ring the result is all ones and memory is unchanged. The words are as the hardware reads them,
one that waits at its home among them; the ring's word `reserve` that must wait there keeps the team at the word (R116; the model's choice,
assumption log 27). -/
def Claims.CardPosted : Prop :=
  ∀ (s : State) (d a b : SReg) (q : Queue) (card : List Byte), s.team.sys.handler = false →
    postChecks s (readReg s a).toNat (readReg s b) = .ok q → teamRead s (readReg s a).toNat 128 = .ok card →
    let w := hwWho (queueDom s q) q.asid
    present s w q.ring (256 + 128 * 2 ^ q.k) = true → noStores s = true →
    let r := ofBytes (hwRead s (queueDom s q) q.asid q.ring 8)
    let slot := q.ring + 256 + 128 * (r % 2 ^ q.k)
    let frame (t : State) : Prop := (∀ x, x ≠ d → readReg t x = readReg s x)
      ∧ t.team = { s.team with pc := s.team.pc + 4, regs := { s.team.regs with s := t.team.regs.s } }
      ∧ t.lm = s.lm ∧ t.sb = s.sb ∧ t.others = s.others ∧ t.sched = s.sched
    let reads (t : State) (va n : Nat) : List Byte := hwRead t (queueDom s q) q.asid va n
    (gateWaits s w q.ring 8 = true → exec (.post d a b) s = .next (askGate s w q.ring))
    ∧ (gateWaits s w q.ring 8 = false → (r + 2 ^ 64 - q.head) % 2 ^ 64 < 2 ^ q.k →
      (∀ i j, i < 256 + 128 * 2 ^ q.k → j < 256 + 128 * 2 ^ q.k →
        placeOf s w (q.ring + i) = placeOf s w (q.ring + j) → i = j) → s.memOk →
      ∃ t, exec (.post d a b) s = .next t ∧ frame t ∧ readReg t d = (if d.toNat < 96 then BitVec.ofNat 64 r else 0)
        ∧ reads t slot 0x7C = card.take 0x7C ∧ reads t (slot + 0x7C) 4 = toBytes 4 (r / 2 ^ q.k + 1)
        ∧ reads t q.ring 8 = toBytes 8 (r + 1)
        ∧ ∀ w' x, (∀ i, i < 8 → placeOf s w' x ≠ placeOf s w (q.ring + i)) →
            (∀ i, i < 128 → placeOf s w' x ≠ placeOf s w (slot + i)) → readByte t w' x = readByte s w' x)
    ∧ (gateWaits s w q.ring 8 = false → 2 ^ q.k ≤ (r + 2 ^ 64 - q.head) % 2 ^ 64 →
      ∃ t, exec (.post d a b) s = .next t ∧ frame t ∧ readReg t d = (if d.toNat < 96 then 0xFFFFFFFFFFFFFFFF else 0)
        ∧ SameMemory s t)

/-- Queues in local memory and the posting of a card (R186 to R188, R374). -/
def Obligations.QueueWords : Prop :=
  Claims.LocalQueues ∧ Claims.CardPosted

/-- `own` and its query (R263 to R265, R267): the old owner word is the result; the owner changes at once, or once a pinned tile is free; and
an early flip touches the tile's bytes and what its engine still writes there, and nothing else. -/
def Obligations.TileOwnership : Prop :=
  (∀ (s : State) (i : Instr) (new : BitVec 2) (d a : SReg), s.team.sys.handler = false →
    inWindow s.team (readReg s a).toNat = false → i = .own new d a ∨ i = .ownQuery d a →
    ∃ st, exec i s = .next (takeStop s st) ∧ st.cause = 0x08 ∧ st.va = (readReg s a).toNat ∧ st.iva = s.team.pc.toNat)
  ∧ ∀ (s : State) (new : BitVec 2) (d a : SReg) (tile core : Nat) (o : TileOwner),
    s.team.sys.handler = false → inWindow s.team (readReg s a).toNat = true → tile = (readReg s a).toNat / 4096 →
    core = coreOf s.team → o = tileRec s core tile →
    (∃ t, exec (.ownQuery d a) s = .next t
      ∧ readReg t d = (if d.toNat < 96 then BitVec.ofNat 64 (o.owner.toNat + 16 * o.readers.toNat) else 0)
      ∧ t.team.pc = s.team.pc + 4 ∧ OnlyScalar s t d)
    ∧ (noStores s = true →
      ∃ t, exec (.own new d a) s = .next t
        ∧ readReg t d = (if d.toNat < 96 then BitVec.ofNat 64 (o.owner.toNat + 16 * o.readers.toNat) else 0)
        ∧ (∀ r, r ≠ d → readReg t r = readReg s r) ∧ t.team.pc = s.team.pc + 4
        ∧ t.team = { s.team with pc := t.team.pc, regs := { s.team.regs with s := t.team.regs.s } }
        ∧ t = { s with
            team := t.team, tiles := t.tiles, lm := t.lm, eng := { s.eng with copies := t.eng.copies, colls := t.eng.colls } }
        ∧ (∀ w x, readByte t w x = readByte s w x)
        ∧ (∀ x, x / 4096 ≠ core * 64 + tile → byteAt t.lm x = byteAt s.lm x)
        ∧ (o.owner ≠ 1 ∨ s.eng.copies = [] → o.owner ≠ 3 ∨ s.eng.colls = [] → t.lm = s.lm ∧ t.eng = s.eng)
        ∧ t.eng.copies.map (fun c => { c with closed := [] }) = s.eng.copies.map (fun c => { c with closed := [] })
        ∧ t.eng.colls.map (fun c => { c with closed := [] }) = s.eng.colls.map (fun c => { c with closed := [] })
        ∧ tileRec t core tile =
            (if new = o.owner then { o with flip := none }
             else if o.owner = 2 ∧ pinned s core tile = true then { o with flip := some new }
             else { o with owner := new, flip := none })
        ∧ ∀ k, k ≠ core * 64 + tile → sget {} t.tiles k = sget {} s.tiles k)

/-- `mxpost` (R271, R274, R275): a record that passes its checks is accepted as the newest task of the core, and each tile that it
reads gains a reader; a record that fails one is the tile-task trap with the reason. -/
def Claims.TileTaskAccepted : Prop :=
  ∀ (s : State) (a : SReg) (va : Nat) (r : List Byte), va = (readReg s a).toNat → s.team.sys.handler = false →
    mayAccess s va 64 .rw = true → teamRead s va 64 = .ok r →
    (∀ c, taskReason r = some c →
      ∃ st, exec (.mxpost a) s = .next (takeStop s st) ∧ st.cause = 0x0D ∧ st.reason = c ∧ st.va = va ∧ st.iva = va)
    ∧ (taskReason r = none →
        (∀ x, x ∈ tilesOf (readRanges r) → x ∉ tilesOf (rowRanges r 2)) →
        (∀ x, x ∈ readRanges r ++ rowRanges r 2 → inWindow s.team x.1 = true ∧ inWindow s.team (x.1 + x.2 - 1) = true) →
        (∀ x, x ∈ tilesOf (readRanges r) ++ tilesOf (rowRanges r 2) →
          (tileRec s (coreOf s.team) x).owner = 2 ∧ (tileRec s (coreOf s.team) x).flip = none
            ∧ (tileRec s (coreOf s.team) x).readers ≠ 255) →
        (coreTaskList s (coreOf s.team)).length < 64 →
        (∀ n, n < 2 → isScaled r n = true → laneWrites s.team.lane.queue (baseReg r n) = false) →
        ∃ t k, exec (.mxpost a) s = .next t ∧ t.eng.tasks = s.eng.tasks ++ [k] ∧ k.recVa = va ∧ k.desc = r
          ∧ k.core = coreOf s.team ∧ k.team = s.team.card.handle ∧ k.asid = s.team.card.asid ∧ k.progress = 0 ∧ k.running = false
          ∧ k.reads = tilesOf (readRanges r) ∧ k.writes = tilesOf (rowRanges r 2)
          ∧ k.expA = ((readReg s (BitVec.ofNat 7 (baseReg r 0))).truncate 8).toInt
          ∧ k.expB = ((readReg s (BitVec.ofNat 7 (baseReg r 1))).truncate 8).toInt
          ∧ (∀ x, x ∈ k.reads → (tileRec t (coreOf s.team) x).readers = (tileRec s (coreOf s.team) x).readers + 1)
          ∧ t.team = { s.team with pc := s.team.pc + 4 } ∧ t.lm = s.lm ∧ t.sb = s.sb ∧ t.others = s.others)

/-- `coll` (R297): a descriptor that passes its checks is outstanding with the next issue count of its rank, which is the result. -/
def Claims.CollectiveAccepted : Prop :=
  ∀ (s s1 : State) (d a : SReg) (issue : Nat), s.team.sys.handler = false →
    collChecks s (readReg s a).toNat = .ok (issue, s1) →
    ∃ t c g, exec (.coll d a) s = .next t ∧ t.eng.colls = s.eng.colls ++ [c] ∧ c.issue = issue
      ∧ groupOf s c.group = some g ∧ g.state ≠ 1 ∧ issuingRank s g s.team = some c.rank ∧ c.rank ∈ c.ranks
      ∧ issue = (match g.issue.find? (fun x => x.1 = c.rank) with | some x => x.2 + 1 | none => 1)
      ∧ c.descVa = (readReg s a).toNat ∧ c.team = s.team.card.handle ∧ c.sent = 0 ∧ c.inbox = [] ∧ c.written = []
      ∧ readReg t d = (if d.toNat < 96 then BitVec.ofNat 64 issue else 0) ∧ (∀ r, r ≠ d → readReg t r = readReg s r)
      ∧ t.team = { s.team with pc := s.team.pc + 4, regs := { s.team.regs with s := t.team.regs.s } }
      ∧ t.mem = s.mem ∧ t.lm = s.lm ∧ t.sb = s.sb ∧ t.others = s.others ∧ t.eng.tasks = s.eng.tasks ∧ t.eng.copies = s.eng.copies

/-- The checks of `coll` in their order (R296, R297): the descriptor's own reasons, the group and its state, the communication team, the ranks, the
records and the reason that needs them, the ranges, the local destination and queue, and the wait with 8 collectives outstanding; what passes them is
accepted. The bitmap of the ranks is read after the communication team's check, with no alignment and with its bits from the group's rank count up
ignored: the model's choice (assumption log 87); a format that only the record has is reason 6 at the issuer (the model's choice, assumption log 118). -/
def Claims.CollectiveChecked : Prop :=
  ∀ (s : State) (d a : SReg) (va : Nat) (bs : List Byte), va = (readReg s a).toNat → s.team.sys.handler = false →
    mayAccess s va 64 .r = true → teamRead s va 64 = .ok bs →
    let pc := s.team.pc.toNat
    let kind := field bs 0 1
    let root := field bs 6 2
    let srcVa := field bs 8 8
    let ranksVa := field bs 0x10 8
    let dstVa := field bs 0x18 8
    let loc := bit (field bs 3 1) 0
    let queued := bit (field bs 3 1) 1
    let queue := field bs 0x24 4
    let core := coreOf s.team
    let stopsWith (cause reason x iva detail : Nat) : Prop :=
      ∃ st, exec (.coll d a) s = .next (takeStop s st) ∧ st.cause = cause ∧ st.reason = reason ∧ st.va = x ∧ st.iva = iva ∧ st.detail = detail
    (∀ k, 1 ≤ k → k ≤ 4 → collFails bs k = true → (∀ j, 1 ≤ j → j < k → collFails bs j = false) → stopsWith 0x0F k va va 0)
    ∧ ((∀ k, 1 ≤ k → k ≤ 4 → collFails bs k = false) →
      (groupOf s (field bs 4 2) = none → stopsWith 0x03 0 va pc 0)
      ∧ ∀ g, groupOf s (field bs 4 2) = some g →
        (g.state = 1 → stopsWith 0x12 0 va pc (field bs 4 2))
        ∧ (g.state ≠ 1 → issuingRank s g s.team = none → stopsWith 0x06 0 va pc 0)
        ∧ ∀ rank, g.state ≠ 1 → issuingRank s g s.team = some rank →
          (ranksVa ≠ 0 → ∀ c x, spanTrap s (focusWho s) (some ((ranksVa : Int), 128)) .r = some (c, x) → stopsWith c 0 x pc 0)
          ∧ ∀ u parts,
            (ranksVa = 0 ∧ u = touchBytes s va 64 ∧ parts = List.range g.rankmap.length)
              ∨ (ranksVa ≠ 0 ∧ spanTrap s (focusWho s) (some ((ranksVa : Int), 128)) .r = none
                ∧ ∃ m, teamRead (touchBytes s va 64) ranksVa 128 = .ok m ∧ u = touchBytes (touchBytes s va 64) ranksVa 128
                  ∧ parts = (List.range g.rankmap.length).filter fun x => bit (ofBytes m) x) →
            (rank ∉ parts ∨ ((kind = 3 ∨ kind = 4) ∧ root ∉ parts) → stopsWith 0x0F 5 va va 0)
            ∧ (rank ∈ parts → (kind ≠ 3 ∧ kind ≠ 4) ∨ root ∈ parts → ∀ sb, readRec u srcVa = .ok sb →
              let src := shapeOf sb
              (shapeOk src = false → stopsWith 0x10 0 srcVa va 0)
              ∧ (shapeOk src = true → ∀ db, (loc = true ∧ db = []) ∨ (loc = false ∧ readRec (afterRec u srcVa sb) dstVa = .ok db) →
                let dst := shapeOf db
                let n := parts.length
                let out := if kind = 0 then n * src.count else if kind = 2 then src.count / n else src.count
                let bad : Prop := src.fmt ≠ field bs 2 1 ∨ (loc = false ∧ (dst.fmt ≠ field bs 2 1 ∨ dst.count ≠ out))
                  ∨ (kind = 2 ∧ src.count % n ≠ 0)
                let rs := collRanges (collDesc bs) src.count n
                let q := qheader s core queue
                let last := queue + 15 + 8 * 2 ^ min q.lcap 8
                let inside (x : Nat × Nat) : Prop := inWindow s.team x.1 = true ∧ inWindow s.team (x.1 + x.2 - 1) = true
                let queueInside : Prop := queued = true →
                  inWindow s.team queue = true ∧ inWindow s.team (queue + 15) = true ∧ inWindow s.team last = true
                let owned : Prop := ∀ x, x ∈ rangeTiles rs → (tileRec s core x).owner = 3
                let queueOwned : Prop := queued = true →
                  (tileRec s core (queue / 4096)).owner = 0 ∧ (tileRec s core (last / 4096)).owner = 0
                let headed : Prop := queued = true → q.lcap ≤ 8 ∧ q.rest = 0
                let outstanding := (s.eng.colls.filter fun c => c.group = field bs 4 2 && c.rank = rank).length
                (loc = false → shapeOk dst = false → stopsWith 0x10 0 dstVa va 0)
                ∧ (loc = true ∨ shapeOk dst = true →
                  (bad → stopsWith 0x0F 6 va va 0)
                  ∧ (¬ bad → ∀ c x, firstTrap s (collSpans bs src dst n) = some (c, x) → stopsWith c 0 x pc 0)
                  ∧ (¬ bad → firstTrap s (collSpans bs src dst n) = none →
                    (¬ (∀ x, x ∈ rs → inside x) → ∃ x, x ∈ rs ∧ ¬ inside x ∧ stopsWith 0x08 0 x.1 pc 0)
                    ∧ ((∀ x, x ∈ rs → inside x) →
                      (¬ queueInside → stopsWith 0x08 0 queue pc 0)
                      ∧ (queueInside → ¬ owned → ∃ x, x ∈ rangeTiles rs ∧ (tileRec s core x).owner ≠ 3 ∧ stopsWith 0x09 0 (4096 * x) pc 0)
                      ∧ (queueInside → owned → ¬ queueOwned → stopsWith 0x09 0 queue pc 0)
                      ∧ (queueInside → owned → queueOwned → ¬ headed → stopsWith 0x03 0 queue pc 0)
                      ∧ (queueInside → owned → queueOwned → headed →
                        (8 ≤ outstanding → exec (.coll d a) s = .next s)
                        ∧ (outstanding < 8 → ∃ issue s1, collChecks s va = .ok (issue, s1)))))))))

/-- A store that starts a copy (R284, R285, R287): the argument and the template index that the data holds, each check in its order with its stop, the
wait while the channel holds 16 copies, and the copy accepted as the newest of its channel and of the team's open batch; nothing else changes. -/
def Claims.CopyAccepted : Prop :=
  ∀ (s : State) (d a : SReg) (off : BitVec 9) (va idx tva : Nat) (arg : Int),
    va = (readReg s a + BitVec.ofInt 64 (off.toInt * 8)).toNat → inAperture va = true → va % 4096 = 0 → s.team.sys.handler = false →
    idx = (readReg s d).toNat % 2 ^ 16 → arg = ((readReg s d).extractLsb' 16 48).toInt → tva = s.team.card.ttable + 128 * idx →
    let pc := s.team.pc.toNat
    let core := coreOf s.team
    let i : Instr := .st 3 d a off
    let stopsWith (cause reason x iva : Nat) : Prop :=
      ∃ st, exec i s = .next (takeStop s st) ∧ st.cause = cause ∧ st.reason = reason ∧ st.va = x ∧ st.iva = iva
    (s.team.card.tmpls ≤ idx → stopsWith 0x03 0 0 pc)
    ∧ (idx < s.team.card.tmpls → mayAccess s tva 128 .r = true → ∀ bs, teamRead s tva 128 = .ok bs →
      let srcVa := field bs 8 8
      let dstVa := field bs 0x10 8
      let u := touchBytes s tva 128
      (∀ k, k ∈ [1, 2, 3, 7] → templateFails bs arg k = true → (∀ j, j ∈ [1, 2, 3, 7] → j < k → templateFails bs arg j = false) →
        stopsWith 0x0E k tva tva)
      ∧ ((∀ k, k ∈ [1, 2, 3, 7] → templateFails bs arg k = false) → ∀ sb db, readRec u srcVa = .ok sb →
        readRec (afterRec u srcVa sb) dstVa = .ok db →
        let src := shapeOf sb
        let dst := shapeOf db
        let bytes := localBytes (templateOf bs) arg dst
        let toLocal := bit (field bs 2 1) 1
        let inside : Prop := toLocal = true → ∀ x, x ∈ bytes → 0 ≤ x ∧ inWindow s.team x.toNat = true
        let owned : Prop := toLocal = true → ∀ x, x ∈ bytes → (tileRec s core (x.toNat / 4096)).owner = 1
        let channel := va / 4096 % 32
        let waiting := (s.eng.copies.filter fun c => c.cluster = s.team.place.cluster && c.chan = channel).length
        (shapeOk src = false → stopsWith 0x10 0 srcVa tva)
        ∧ (shapeOk src = true → shapeOk dst = false → stopsWith 0x10 0 dstVa tva)
        ∧ (shapeOk src = true → shapeOk dst = true →
          (∀ k, k ∈ [4, 5, 6, 8] → recordsFail bs arg src dst k → (∀ j, j ∈ [4, 5, 6, 8] → j < k → ¬ recordsFail bs arg src dst j) →
            stopsWith 0x0E k tva tva)
          ∧ ((∀ k, k ∈ [4, 5, 6, 8] → ¬ recordsFail bs arg src dst k) →
            (∀ c x, firstTrap s (copyRanges bs arg src dst) = some (c, x) → stopsWith c 0 x pc)
            ∧ (firstTrap s (copyRanges bs arg src dst) = none →
              (¬ inside → ∃ x, x ∈ bytes ∧ ¬ (0 ≤ x ∧ inWindow s.team x.toNat = true) ∧ stopsWith 0x08 0 (toBits 64 x) pc)
              ∧ (inside → ¬ owned → ∃ x, x ∈ bytes ∧ (tileRec s core (x.toNat / 4096)).owner ≠ 1 ∧ stopsWith 0x09 0 x.toNat pc)
              ∧ (inside → owned → 16 ≤ waiting → exec i s = .next s)
              ∧ (inside → owned → waiting < 16 →
                ∃ t c, exec i s = .next t ∧ t.eng.copies = s.eng.copies ++ [c]
                  ∧ c.cluster = s.team.place.cluster ∧ c.chan = channel ∧ c.core = core ∧ c.team = s.team.card.handle
                  ∧ c.asid = s.team.card.asid ∧ c.batch = s.team.ord.batch ∧ c.tmplVa = tva ∧ c.tmpl = bs ∧ c.arg = arg ∧ c.src = sb
                  ∧ c.dst = db ∧ c.started = false ∧ c.moved = false ∧ c.stopped = false ∧ c.paused = false
                  ∧ t.team = { s.team with pc := s.team.pc + 4 }
                  ∧ t = { s with
                      team := t.team, hand := t.hand, fab := t.fab
                      eng := { s.eng with copies := t.eng.copies, recs := t.eng.recs, nextId := t.eng.nextId } }
                  ∧ SameMemory s t))))))

/-- Work that the scalar stream gives the engines (R271, R274, R275, R284, R285, R287, R296, R297). -/
def Obligations.EngineWorkAccepted : Prop :=
  Claims.TileTaskAccepted ∧ Claims.CollectiveAccepted ∧ Claims.CollectiveChecked ∧ Claims.CopyAccepted

/-- `csrr` (R18, R55, R58, R195, R331): each assigned number gives what the CSR holds, CYC the count of the team's partition, which never
falls and of which no more is known, an unassigned number is illegal, and a supervisor number at level 0 is the privilege trap. -/
def Claims.CsrReads : Prop :=
  ∀ (s : State) (d : SReg) (n : BitVec 12),
    let sup : Bool := decide (0x080 ≤ n.toNat)
    (sup = true → levelOf s.team = 0 →
      ∃ st, exec (.csrr d n) s = .next (takeStop s st) ∧ st.cause = 0x02 ∧ st.iva = s.team.pc.toNat)
    ∧ (sup = false ∨ levelOf s.team ≠ 0 →
      (∀ x, csrHolds s n.toNat = some x →
        ∃ t, exec (.csrr d n) s = .next t ∧ readReg t d = (if d.toNat < 96 then BitVec.ofNat 64 x else 0)
          ∧ t.team.pc = s.team.pc + 4 ∧ OnlyScalar s t d)
      ∧ (n = 0 → ∃ t c, exec (.csrr d n) s = .next t ∧ readReg t d = (if d.toNat < 96 then BitVec.ofNat 64 c else 0)
          ∧ sget 0 s.cores.cyc (partKey (coreOf s.team) s.team.place.part) ≤ c
          ∧ (∀ k, sget 0 t.cores.cyc k = if k = partKey (coreOf s.team) s.team.place.part then c else sget 0 s.cores.cyc k)
          ∧ (∀ r, r ≠ d → readReg t r = readReg s r)
          ∧ t.team = { s.team with pc := s.team.pc + 4, regs := { s.team.regs with s := t.team.regs.s } }
          ∧ t = { s with team := t.team, cores := { s.cores with cyc := t.cores.cyc } } ∧ SameMemory s t)
      ∧ (csrHolds s n.toNat = none → n ≠ 0 →
        ∃ st, exec (.csrr d n) s = .next (takeStop s st) ∧ st.cause = 0x01 ∧ st.iva = s.team.pc.toNat))

/-- `csrw` (R52, R53, R195, R331): what each CSR keeps of the value written, and the traps of the rest. That a new EPC forgets the append state of
the word that it leaves is the model's choice (assumption log 31). -/
def Claims.CsrWrites : Prop :=
  ∀ (s : State) (a : SReg) (n : BitVec 12) (x : Word), x = readReg s a →
    let sup : Bool := decide (0x080 ≤ n.toNat)
    (sup = true → levelOf s.team = 0 →
      ∃ st, exec (.csrw a n) s = .next (takeStop s st) ∧ st.cause = 0x02 ∧ st.iva = s.team.pc.toNat)
    ∧ (sup = false ∨ levelOf s.team ≠ 0 →
      (∀ tm, csrStores s.team n.toNat x = some tm → (n = 5 → 1 ≤ x.toNat % 8 ∧ x.toNat % 8 ≤ 5) →
        ∃ t, exec (.csrw a n) s = .next t ∧ t.team = { tm with pc := s.team.pc + 4 } ∧ OnlyTeam s t)
      ∧ (csrStores s.team n.toNat x = none →
        ∃ st, exec (.csrw a n) s = .next (takeStop s st) ∧ st.cause = 0x01 ∧ st.iva = s.team.pc.toNat))

/-- `crvld` (R54, R194): the curve table is replaced by the 320 words at the address, and no other register changes. -/
def Claims.CurveTableLoad : Prop :=
  ∀ (s : State) (a : SReg) (va : Nat) (bs : List Byte), va = (readReg s a).toNat → va + 1280 ≤ 2 ^ 56 → va % 64 = 0 →
    rangeTrap s (focusWho s) va 1280 .r = none → inAperture va = false → inAperture (va + 1279) = false →
    teamRead s va 1280 = .ok bs →
    ∃ t, exec (.crvld a) s = .next t ∧ (∀ k, k < 320 → sget 0 t.team.regs.curve k = BitVec.ofNat 32 (field bs (4 * k) 4))
      ∧ t.team = { s.team with pc := s.team.pc + 4, regs := { s.team.regs with curve := t.team.regs.curve } }
      ∧ t.mem = s.mem ∧ t.lm = s.lm ∧ t.sb = s.sb ∧ t.others = s.others

/-- CSRs and the curve table (R53 to R55, R194, R195, R331). What the append state does at a changed EPC is the model's choice (assumption log 31). -/
def Obligations.CsrAccess : Prop :=
  Claims.CsrReads ∧ Claims.CsrWrites ∧ Claims.CurveTableLoad

/-- R52: the size codes of the band register, and a reserved code written by `csrw` or `vband`, which leaves it unchanged. -/
def Obligations.BandRegister : Prop :=
  (∀ (s : State) (a : SReg), 1 ≤ (readReg s a).toNat % 8 → (readReg s a).toNat % 8 ≤ 5 →
    ∃ t, exec (.csrw a 5) s = .next t ∧ t.team.regs.band.toNat = (readReg s a).toNat % 8
      ∧ bandSize t.team = 2 ^ ((readReg s a).toNat % 8))
  ∧ (∀ (s : State) (a : SReg), (readReg s a).toNat % 8 = 0 ∨ 6 ≤ (readReg s a).toNat % 8 →
    ∃ st, exec (.csrw a 5) s = .next (takeStop s st) ∧ st.cause = 0x03
      ∧ (delivers s st = true → (takeStop s st).team.regs.band = s.team.regs.band))
  ∧ ∀ (s : State) (f : LaneFields) (x : Nat), laneLegal s.team.card.v 0x181 f = true → x = readOp s.team f 1 3 0 →
    (∀ k, 1 ≤ k → k ≤ 5 → x = 2 ^ k →
      ∃ t, exec (.vband f) s = .next t ∧ t.team.regs = { s.team.regs with band := BitVec.ofNat 3 k }
        ∧ t.team.lane = pastWord s.team.lane ∧ bandSize t.team = x
        ∧ t = { s with team := { s.team with regs := t.team.regs, lane := t.team.lane } })
    ∧ ((∀ k, 1 ≤ k → k ≤ 5 → x ≠ 2 ^ k) →
      ∃ st, exec (.vband f) s = .next (takeStop s st) ∧ st.cause = 0x03
        ∧ (delivers s st = true → (takeStop s st).team.regs.band = s.team.regs.band))

/-- TAKING A STOP (R332, R354, R361, R362): a stop delivered to the supervisor enters its handler, with EPC, SCAUSE, SREC and PRIV
written, the scalar PC at TVEC, the record in the lowest free slots, and every other register and the lane queue as they stood. That the other stops
that are due wait until the handler is left is the model's choice (assumption log 8). -/
def Claims.HandlerEntered : Prop :=
  ∀ (s : State) (st : Stop) (k : Nat), delivers s st = true → freeSlots s s.team (if st.four then 4 else 1) = some k →
    st.cause < 256 → st.reason < 256 → st.code < 65536 →
    let t := takeStop s st
    t.team.sys.epc = s.team.pc ∧ t.team.pc = s.team.sys.tvec ∧ t.team.sys.handler = true ∧ levelOf t.team = 1
      ∧ t.team.sys.srec = BitVec.ofNat 64 (s.team.card.fault + 64 * k)
      ∧ t.team.sys.scause.toNat = st.cause + 2 ^ 8 + (if s.team.ord.expired then 2 ^ 10 else 0) + st.code * 2 ^ 16 + st.reason * 2 ^ 32
      ∧ t.team.sys = { s.team.sys with
          epc := t.team.sys.epc, scause := t.team.sys.scause, srec := t.team.sys.srec, handler := t.team.sys.handler }
      ∧ t.team.regs = s.team.regs ∧ t.team.lane = s.team.lane ∧ t.team.card = s.team.card ∧ t.team.place = s.team.place
      ∧ t.team.ord = { s.team.ord with
          load := none, expired := false, ending := false, closing := none
          stops := t.team.ord.stops, later := t.team.ord.later, inner := t.team.ord.inner }
      ∧ (∀ x, x ∈ t.team.ord.stops ++ t.team.ord.later ↔ x ∈ s.team.ord.stops ++ s.team.ord.later)
      ∧ (∀ x : Team, x.card.handle ≠ s.team.card.handle → (x ∈ t.others ↔ x ∈ s.others)) ∧ t.sb = s.sb ∧ t.lm = s.lm
      ∧ (∃ bs, bs.length = (if st.four then 256 else 64) ∧ t.mem = (putSlots s s.team k bs).mem
          ∧ field bs 8 8 = st.va % 2 ^ 64 ∧ field bs 0x10 8 = st.iva % 2 ^ 64 ∧ field bs 0x18 4 = st.detail % 2 ^ 32
          ∧ field bs 0x20 12 = st.word % 2 ^ 96 ∧ field bs 6 1 = st.cause ∧ field bs 5 1 = st.reason)

/-- A stop in handler mode is no second trap (R333): the team and its crew enter HALTED with the nested-trap cause. -/
def Claims.NestedStopHalts : Prop :=
  ∀ (s : State) (st : Stop) (k : Nat), s.team.sys.handler = true → st.cause < 0x1A →
    freeSlots s s.team (if st.four then 4 else 1) = some k →
    ∃ s1 w, takeStop s st = haltCrew s1 w ∧ w.toNat % 256 = 0x1A ∧ w.toNat / 2 ^ 32 % 256 = st.cause % 256
      ∧ s1.team.pc = s.team.pc ∧ s1.team.regs = s.team.regs ∧ s1.team.sys = s.team.sys

/-- Taking a stop (R332, R333, R354, R361, R362). That other due stops wait for the handler's end is the model's choice (assumption log 8). -/
def Obligations.StopEntersHandler : Prop :=
  Claims.HandlerEntered ∧ Claims.NestedStopHalts

/-- `trap` and `brk` (R196): the stop names the word's own VA and code, and the saved PC is the next word's. -/
def Claims.TrapAndBreakpoint : Prop :=
  ∀ (s : State) (code : BitVec 16),
    (∃ s1 st, exec (.trap code) s = .next (takeStop s1 st) ∧ s1.team.pc = s.team.pc + 4 ∧ OnlyPc s s1
      ∧ st.cause = 0x18 ∧ st.code = code.toNat ∧ st.iva = s.team.pc.toNat)
    ∧ (∃ s1 st, exec (.brk code) s = .next (takeStop s1 st) ∧ s1.team.pc = s.team.pc + 4 ∧ OnlyPc s s1
      ∧ st.cause = 0x19 ∧ st.code = code.toNat ∧ st.iva = s.team.pc.toNat
      ∧ (s.team.sys.dbg.getLsbD 0 = true → s.team.sys.handler = false → (freeSlots s1 s1.team 1).isSome = true →
          ∃ s2 w, takeStop s1 st = haltCrew s2 w ∧ w.toNat % 256 = 0x19 ∧ w.toNat / 256 % 2 = 0
            ∧ s2.team.pc = s.team.pc + 4))

/-- The return from a handler (R364, R365): `sret.resume` and, with nothing held, `sret.replay` go back to EPC at the queue's level;
`sret.abandon` drops held and later stores and removes the team, whose launch fails; the groups of a communication team go into error. That the stops
kept back while the handler ran are due again, where they still are, is the model's choice (assumption log 8). -/
def Claims.HandlerReturns : Prop :=
  ∀ s : State, s.team.sys.handler = true →
    let back (t : State) : Prop := t.team.pc = s.team.sys.epc ∧ t.team.sys.handler = false ∧ levelOf t.team = s.team.card.level
      ∧ t.team.sys.scause = s.team.sys.scause &&& ~~~256#64
      ∧ t.team.sys = { s.team.sys with handler := t.team.sys.handler, scause := t.team.sys.scause }
      ∧ t.team.regs = s.team.regs ∧ t.team.lane = s.team.lane
      ∧ t.team.ord = { s.team.ord with
          replay := none, later := [], stops := s.team.ord.stops ++ s.team.ord.later.filter (stillDue s s.team.card.handle) }
      ∧ t.others = s.others ∧ t.mem = s.mem ∧ t.lm = s.lm
    (∃ t, exec .sretResume s = .next t ∧ back t ∧ t.sb = s.sb)
    ∧ ((∀ e, e ∈ s.sb → e.team = s.team.card.handle → e.held = false) → (∀ e, e ∈ s.sb → e.marked = false) → s.posted = [] →
        s.team.ord.replay = none →
        ∃ t, exec .sretReplay s = .next t ∧ back t ∧ t.sb = s.sb)
    ∧ ∃ s1 t, exec .sretAbandon s = .next t ∧ t = sweepSaved (removeTeam (failLevel s1 s.team.card.launch) s.team.card.handle)
        ∧ s1.team.regs = s.team.regs ∧ s1.mem = s.mem ∧ s1.eng.copies = s.eng.copies
        ∧ (∀ e : SbEntry, e.sent = false → (e ∈ s1.sb ↔ e ∈ s.sb))
        ∧ (∀ r, r ∈ s.link.groups → r.state = 0 → (issuingRank s r s.team).isSome → groupOf s r.number = some r →
            ∃ r1, groupOf s1 r.number = some r1 ∧ r1.state = 1)
        ∧ (∀ c, c ∈ t.eng.copies → ¬ (c.team = s.team.card.handle ∧ c.paused = true))
        ∧ ∀ e, e ∈ t.sb → ¬ (e.team = s.team.card.handle ∧ e.held = true ∧ e.sent = false)

/-- Software traps and the return from a handler (R196, R364, R365). That the stops kept back are due again after it, where they still are, is the model's choice (assumption log 8). -/
def Obligations.TrapsAndReturns : Prop :=
  Claims.TrapAndBreakpoint ∧ Claims.HandlerReturns

/-- Privilege (R197, R332, R364): what level 0 and what a handler may not do. -/
def Obligations.PrivilegeTraps : Prop :=
  ∀ (s : State) (i : Instr),
    let traps (c : Nat) : Prop := ∃ st, exec i s = .next (takeStop s st) ∧ st.cause = c ∧ st.iva = s.team.pc.toNat
    (levelOf s.team = 0 →
      (i = .sretResume ∨ i = .sretReplay ∨ i = .sretAbandon ∨ (∃ a b, i = .rptinv a b) ∨ (∃ a, i = .tstop a)) → traps 0x02)
    ∧ (levelOf s.team = 0 → (∃ l d a, (i = .cancel l a ∨ i = .ctr l d a) ∧ readReg s a ≠ 0) → traps 0x02)
    ∧ (levelOf s.team ≠ 0 → s.team.sys.handler = false → (i = .sretResume ∨ i = .sretReplay ∨ i = .sretAbandon) → traps 0x03)
    ∧ (s.team.sys.handler = true →
        ((∃ a n, i = .lrun a n) ∨ (∃ d a b n, i = .lloop d a b n) ∨ i = .lsync ∨ i = .cbar ∨ (∃ n d a, i = .own n d a)
          ∨ (∃ d a, i = .ownQuery d a) ∨ (∃ a, i = .mxpost a) ∨ (∃ d a, i = .coll d a) ∨ (∃ a b, i = .qpush a b)
          ∨ (∃ d a, i = .qpop d a) ∨ (∃ d a b, i = .post d a b)
          ∨ (∃ ty d a off, i = .st ty d a off
              ∧ inAperture (readReg s a + BitVec.ofInt 64 (off.toInt * (2 ^ ty.toNat : Nat))).toNat = true)) →
        traps 0x02)

/-- `rptinv` (R347), which waits for the accesses that were checked against an entry that it drops, `tstop` (R342), `gseq` (R185) and `ctr`
(R189): what each does and gives where its checks pass. -/
def Claims.SupervisorWords : Prop :=
  (∀ (s : State) (a b : SReg) (asid : Nat), levelOf s.team = 1 → (readReg s b).toNat = asid → asid < 2 ^ 14 →
      (readReg s a).toNat < 2 ^ 56 → asidDomain s asid = some (teamDomain s s.team) →
      let rn := (readReg s a).toNat / 2 ^ 21 % 2 ^ 35
      let here (core : Nat) : Prop := (clusterRec s (core / 16)).domain = teamDomain s s.team
      let dropped (t : State) : Prop :=
        (∀ c, c ∈ t.xl.rptc ↔ c ∈ s.xl.rptc ∧ ¬ (here c.core ∧ c.asid = asid ∧ c.rn = rn))
        ∧ (∀ c, c ∈ t.xl.walks ↔ c ∈ s.xl.walks ∧ ¬ (here c.core ∧ c.asid = asid ∧ c.rn = rn))
        ∧ ∀ c, c ∈ t.cores.code ↔ c ∈ s.cores.code ∧ ¬ (here c.core ∧ c.asid = asid ∧ c.sec / 2 ^ 21 % 2 ^ 35 = rn)
      let waits (x : Team) : Prop := ∃ y, x.ord.load = some y ∧ tagOf x.card.asid y = asid ∧ y / 2 ^ 21 % 2 ^ 35 = rn
      (∀ x, x ∈ s.team :: s.others → teamDomain s x = teamDomain s s.team → x.sys.handler = true → x.lane.busy = false) →
      ((∀ e, e ∈ s.sb → e.held = false → here e.core → e.asid = asid → e.sector / 2 ^ 21 % 2 ^ 35 ≠ rn) →
        (∀ x, x ∈ s.team :: s.others → x.place.run = 1 → teamDomain s x = teamDomain s s.team →
          midWord s x.card.handle = false ∧ ¬ waits x) →
        ∃ t, exec (.rptinv a b) s = .next t ∧ t.team = { s.team with pc := s.team.pc + 4 } ∧ dropped t
          ∧ t = { s with
              team := t.team, xl := { s.xl with rptc := t.xl.rptc, walks := t.xl.walks }, cores := { s.cores with code := t.cores.code } })
      ∧ (s.sb = [] → (∃ x, x ∈ s.others ∧ x.place.run = 1 ∧ teamDomain s x = teamDomain s s.team ∧ waits x) →
        ∃ t, exec (.rptinv a b) s = .next t ∧ t.team = s.team ∧ dropped t))
  ∧ (∀ (s : State) (a : SReg) (x : Team), levelOf s.team = 1 → teamOf s (readReg s a).toNat = some x → x.place.run = 1 →
      teamDomain s x = teamDomain s s.team →
      ∃ t, exec (.tstop a) s = .next t
        ∧ t.team = { s.team with
            pc := s.team.pc + 4
            ord := { s.team.ord with haltReq := s.team.ord.haltReq || decide (s.team.card.handle ∈ crewOf s x) } }
        ∧ t.others = s.others.map (fun y =>
            if y.card.handle ∈ crewOf s x then { y with ord := { y.ord with haltReq := true } } else y)
        ∧ t = { s with team := t.team, others := t.others } ∧ SameMemory s t)
  ∧ (∀ (s : State) (d a : SReg) (g : Group) (va : Nat), va = (readReg s a).toNat → mayAccess s va 1 .r = true →
      kindAt s (tagOf s.team.card.asid va) va = 2 → groupOf s (groupAt s (tagOf s.team.card.asid va) va) = some g →
      ∃ t, exec (.gseq d a) s = .next t ∧ readReg t d = (if d.toNat < 96 then BitVec.ofNat 64 g.applied else 0)
        ∧ t.team.pc = s.team.pc + 4 ∧ OnlyScalar s t d)
  ∧ ∀ (s : State) (k : BitVec 2) (d a : SReg) (l : Level), readReg s a = 0 → ownLevel s s.team k.toNat = some l →
      ∃ t, exec (.ctr k d a) s = .next t
        ∧ readReg t d = (if d.toNat < 96 then
            BitVec.ofNat 64 (l.state * 2 ^ 60 + l.total % 2 ^ 28 * 2 ^ 28 + l.done % 2 ^ 28) else 0)
        ∧ t.team.pc = s.team.pc + 4 ∧ OnlyScalar s t d

/-- `cancel` (R37, R38, R39, R189): the level named, the team's own or one that a supervisor names by its handle, and every running level below it
move to cancelling, and from there to cancelled those of which no part is left; their counter words say so (R388), and every other level but one that
is cancelling already keeps what it has. `yield` (R190) ends the slice: the team is removed where its level is cancelling, its crew is pre-empted
where a team waits for the core, and else it goes on. -/
def Claims.CancelAndYield : Prop :=
  (∀ (s : State) (k : BitVec 2) (a : SReg) (l : Level),
      (readReg s a = 0 ∧ ownLevel s s.team k.toNat = some l)
        ∨ (readReg s a ≠ 0 ∧ levelOf s.team = 1 ∧ levelAt s s.team (readReg s a).toNat = some l ∧ l.kind = k.toNat) →
      ∃ t, exec (.cancel k a) s = .next t ∧ t.team.pc = s.team.pc + 4
        ∧ t.team.regs = s.team.regs ∧ t.team.sys = s.team.sys ∧ t.lm = s.lm
        ∧ (∀ x, levelRec t l.id = some x → x.state ≠ 0)
        ∧ (cancelled t = true → t.team.ord.ownCancel = true)
        ∧ (levelsInOrder s → t.sched.levels.map (·.id) = s.sched.levels.map (·.id)
          ∧ ∀ x y, levelRec s x.id = some x → levelRec t x.id = some y →
            let named : Prop := l.state = 0 ∧ x.state = 0 ∧ Below s.sched.levels l.id x.id
            let parts : Prop := (x.kind = 0 ∧ launchTeams t x.id ≠ [])
              ∨ (x.kind ≠ 0 ∧ ∃ z, z ∈ t.sched.levels ∧ z.parent = x.id ∧ z.state ≤ 1)
            y = { x with state := y.state }
              ∧ (named → y.state = 1 ∨ y.state = 3) ∧ (named ∨ x.state = 1 → parts → y.state = 1)
              ∧ (y.state = 3 → x.state ≠ 3 → x.done < x.total)
              ∧ (¬ named → x.state ≠ 1 → y = x))
        ∧ (levelsInOrder s → (∀ x, x ∈ s.team :: s.others → x.place.run ≠ 2) → s.memOk → countersApart s →
          KeepsBytes s t (s.sched.levels.map (counterOf s))
            ∧ ∀ x y, levelRec s x.id = some x → levelRec t x.id = some y → y.state ≠ x.state → x.va ≠ 0 → counterOk s x = true →
                counterBytes t x = toBytes 8 (y.state * 2 ^ 60 + x.total % 2 ^ 28 * 2 ^ 28 + x.done % 2 ^ 28)))
  ∧ (∀ s : State, cancelled s = false → waitedFor (advance s) (advance s).team = false →
      ∃ t, exec .yield s = .next t ∧ t.team.pc = s.team.pc + 4 ∧ OnlyPc s t)
  ∧ (∀ s : State, cancelled s = false → waitedFor (advance s) (advance s).team = true →
      exec .yield s = .next (preemptCrew (advance s) (advance s).team))
  ∧ ∀ s : State, cancelled s = true →
      (midWord s s.team.card.handle = false → ∃ s1, exec .yield s = .next (cancelTeam s1) ∧ s1.team.pc = s.team.pc + 4 ∧ OnlyPc s s1)
      ∧ (midWord s s.team.card.handle = true → exec .yield s = .next s)

/-- Supervisor words and the levels of work (R38, R39, R185, R189, R190, R342, R347). -/
def Obligations.SupervisorAndLevelWords : Prop :=
  Claims.SupervisorWords ∧ Claims.CancelAndYield

/-- `cache` fn 0 to 2 (R91, R191, R394): a length of 0 does nothing; where the checks pass, what each does to the handoff sectors of
its cluster, to DRAM and to the sector copies, and nothing else but the write-backs that it sends to far memory (R419). -/
def Claims.CacheMaintenance : Prop :=
  ∀ (s : State) (a b : SReg) (va n : Nat), va = (readReg s a).toNat → n = (readReg s b).toNat →
    (n = 0 → ∀ i, i = .cacheWb a b ∨ i = .cacheInv a b ∨ i = .cacheWbinv a b ∨ i = .cacheDiscard a b →
      ∃ t, exec i s = .next t ∧ t.team.pc = s.team.pc + 4 ∧ OnlyPc s t)
    ∧ (n ≠ 0 → cacheTrap s va n .r false = none → noStores s = true →
        (s.hand.map fun c => (c.cluster, c.dpa)).Nodup → (∀ c, c ∈ s.hand → c.dpa % 64 = 0 ∧ c.bytes.length = 64) →
        let here (c : HandCopy) : Bool := c.cluster = (focusWho s).cluster && handIn s (focusWho s) va n c
        let there (c : SectorCopy) : Bool := inRange s.team.card.asid va n c.asid c.sec && snooped (kindAt s c.asid c.sec)
        let home (t : State) : Prop :=
          (∀ c, c ∈ s.hand → here c = true → c.dirty = true → bytesAt t.mem c.dpa 64 = c.bytes)
            ∧ ∀ x, (∀ c, c ∈ s.hand → here c = true → c.dirty = true → ¬ (c.dpa ≤ x ∧ x < c.dpa + 64)) →
                byteAt t.mem x = byteAt s.mem x
        let rest (t : State) : Prop :=
          t.team = { s.team with pc := s.team.pc + 4 }
            ∧ t = { s with
                team := t.team, mem := t.mem, hand := t.hand, fab := t.fab, hostp := { s.hostp with farOut := t.hostp.farOut }
                link := { s.link with ports := t.link.ports, outbox := t.link.outbox } }
            ∧ (noFarPage s = true → t.hostp = s.hostp ∧ t.link = s.link)
        (∃ t, exec (.cacheWb a b) s = .next t ∧ home t ∧ rest t
          ∧ (∀ c, c ∈ t.hand ↔ ∃ c0, c0 ∈ s.hand ∧ c = if here c0 then { c0 with dirty := false } else c0)
          ∧ t.fab.copies = s.fab.copies.map fun c =>
              if there c then { c with st := match c.st with | .M => .E | .O => .S | x => x } else c)
        ∧ (∃ t, exec (.cacheInv a b) s = .next t ∧ t.mem = s.mem ∧ rest t
          ∧ (∀ c, c ∈ t.hand ↔ c ∈ s.hand ∧ ¬ (here c = true ∧ c.dirty = false))
          ∧ t.fab.copies = s.fab.copies.filter fun c => !(there c && (c.st = .S || c.st = .E)))
        ∧ ∃ t, exec (.cacheWbinv a b) s = .next t ∧ home t ∧ rest t
          ∧ (∀ c, c ∈ t.hand ↔ c ∈ s.hand ∧ here c = false)
          ∧ t.fab.copies = s.fab.copies.filter fun c => !(there c && c.st ≠ .I))

/-- `cache` fn 3 (R191, R192, R359): each present byte of the range holds a free value, every copy of its sectors is gone, pages that it
covers whole are clean, and no byte kept elsewhere changes. -/
def Claims.CacheDiscardFreesBytes : Prop :=
  ∀ (s : State) (a b : SReg) (va n : Nat), va = (readReg s a).toNat → n = (readReg s b).toNat → n ≠ 0 →
    cacheTrap s va n .w true = none → noStores s = true → (∀ e, e ∈ s.sb → e.held = false) →
    (∀ x, x ∈ sectorsOf va n → gateAt s (focusWho s) x ≠ .wait) →
    ∃ t, exec (.cacheDiscard a b) s = .next t ∧ t.team = { s.team with pc := s.team.pc + 4 }
      ∧ (∀ i, i < n → placeOf s (focusWho s) (va + i) ≠ .absent →
          ∃ k, readByte t (focusWho s) (va + i) = Config.freeByte k)
      ∧ (∀ w x, (∀ i, i < n → placeOf s w x ≠ placeOf s (focusWho s) (va + i)) → readByte t w x = readByte s w x)
      ∧ (∀ c, c ∈ t.fab.copies → ∀ x, x ∈ sectorsOf va n → placeOf s (focusWho s) x ≠ .absent →
          ¬ (c.asid = tagOf s.team.card.asid x ∧ c.sec = x))
      ∧ t.xl.pages = s.xl.pages.map (fun p =>
          if p.asid = tagOf s.team.card.asid (p.vpage * 65536) ∧ va ≤ p.vpage * 65536 ∧ p.vpage * 65536 + 65536 ≤ va + n then
            { p with dirty := false } else p)
      ∧ t.lm = s.lm ∧ t.sb = s.sb ∧ t.others = s.others

/-- `cache` fn 4 and fn 5 (R96, R98, R193): a binding that may be made is added, one that is not is the operand trap; and a binding
named by its VA ends, its sectors leaving the core's stash; the write-back of one whose page is not present at its home is held as a
store of the team (R350). -/
def Claims.StashBindings : Prop :=
  ∀ (s : State) (d a b : SReg) (va la n : Nat), va = (readReg s a).toNat → la = (readReg s d).toNat → n = (readReg s b).toNat →
    va < 2 ^ 56 →
    (overlap va n Config.aperture 131072 = false → bindOk s va la n = true →
      ∃ t, exec (.cacheBind d a b) s = .next t
        ∧ t.team = { s.team with
            pc := s.team.pc + 4, ord := { s.team.ord with bindings := s.team.ord.bindings ++ [{ va := va, len := n, la := la }] } }
        ∧ OnlyTeam s t)
    ∧ (overlap va n Config.aperture 131072 = false → bindOk s va la n = false →
        ∃ st, exec (.cacheBind d a b) s = .next (takeStop s st) ∧ st.cause = 0x03 ∧ st.va = va ∧ st.iva = s.team.pc.toNat)
    ∧ (inAperture va = false → noStores s = true → ∀ x, s.team.ord.bindings.find? (·.va = va) = some x →
        let mine (c : SectorCopy) : Bool := c.holder = 64 + coreOf s.team && inRange s.team.card.asid x.va x.len c.asid c.sec
        let lost (c : SectorCopy) : Prop := c ∈ s.fab.copies ∧ mine c = true ∧ (c.st = .M ∨ c.st = .O)
          ∧ whereIs s (focusWho s).domain c.asid c.sec = .absent
        ∃ t, exec (.cacheUnbind a) s = .next t
          ∧ t.team.pc = s.team.pc + 4 ∧ t.team.ord.bindings = s.team.ord.bindings.filter (·.va ≠ va)
          ∧ t.team.regs = s.team.regs ∧ t.team.sys = s.team.sys ∧ t.team.lane = s.team.lane ∧ t.lm = s.lm
          ∧ ((∀ c, ¬ lost c) →
              t.team = { s.team with
                pc := s.team.pc + 4, ord := { s.team.ord with bindings := s.team.ord.bindings.filter (·.va ≠ va) } }
              ∧ t = { s with team := t.team, fab := t.fab } ∧ SameMemory s t
              ∧ t.fab.copies = s.fab.copies.filter fun c => !mine c)
          ∧ ∀ c, lost c → ∃ e, e ∈ t.sb ∧ e.held = true ∧ e.team = s.team.card.handle ∧ e.asid = c.asid ∧ e.sector = c.sec
              ∧ e.source = 4)
    ∧ (inAperture va = false → s.team.ord.bindings.find? (·.va = va) = none →
        ∃ st, exec (.cacheUnbind a) s = .next (takeStop s st) ∧ st.cause = 0x03 ∧ st.va = va ∧ st.iva = s.team.pc.toNat)

/-- The `cache` word (R91, R96, R98, R191 to R193, R359, R394). -/
def Obligations.CacheWords : Prop :=
  Claims.CacheMaintenance ∧ Claims.CacheDiscardFreesBytes ∧ Claims.StashBindings

/-- `lrun` and `lloop` (R24, R25, R175 to R177): the words of the range, and the body once for each iteration, go to the end of the lane
queue in order with their VAs and captures, as many as there is room for; the PC advances with the last. A word that has begun goes on
with the count, the address, the body and the step record that it has read. -/
def Claims.WordsAppended : Prop :=
  (∀ (s : State) (a : SReg) (n : BitVec 12) (done base total : Nat) (bs : List Byte), s.team.sys.handler = false →
    total = n.toNat + 1 →
    (s.team.lane.append = none ∧ done = 0 ∧ base = (readReg s a).toNat
      ∨ ∃ p, s.team.lane.append = some p ∧ p.isLoop = false ∧ p.count = total ∧ p.done = done ∧ p.base = base) →
    done ≤ total → fetchTrap s (base + 12 * done) (12 * (total - done)) 4 .lx = none →
    fetchRange s (base + 12 * done) (12 * (total - done)) = .ok bs →
    ∃ t, exec (.lrun a n) s = .next t ∧ Appended s t done total fun i =>
      captureEntry s.team (BitVec.ofNat 96 (field bs (12 * (i - done)) 12)) 0 (base + 12 * i))
  ∧ ∀ (s : State) (d a b : SReg) (len : BitVec 5) (n : Nat) (st : Append), s.team.sys.handler = false → n = len.toNat + 1 →
    (s.team.lane.append = none → readLoop s (readReg s d).toNat (readReg s a).toNat (readReg s b).toNat n = .ok st →
      st.count = (readReg s d).toNat ∧ st.base = (readReg s a).toNat
        ∧ (∃ bs, fetchRange s (readReg s a).toNat (12 * n) = .ok bs
          ∧ st.body = (List.range n).map fun k => BitVec.ofNat 96 (field bs (12 * k) 12))
        ∧ ∃ t, exec (.lloop d a b len) s = .next t
          ∧ Appended s t 0 (st.count * n) fun i => loopEntry s.team st.body st.steps st.base (i / n) (i % n))
    ∧ (s.team.lane.append = some st → st.isLoop = true → st.body.length = n → st.done ≤ st.count * n →
      ∃ t, exec (.lloop d a b len) s = .next t
        ∧ Appended s t st.done (st.count * n) fun i => loopEntry s.team st.body st.steps st.base (i / n) (i % n))

/-- R140, R141: in an iteration the code of a stepped field is the body word's plus the iteration times the step, modulo the wrap; a
code that is no vector register of the team makes the entry illegal when it issues. -/
def Claims.LoopSteps : Prop :=
  ∀ (t : Team) (body : List LWord) (steps : List Half) (e : Half) (base i k slot : Nat), k < body.length → slot < 5 →
    i < 2 ^ 32 → t.card.v ≤ 1536 →
    (steps.filter fun x => (stepFields x).2.2.1 ≠ 0 && (stepFields x).2.2.2 = k) = [e] → (stepFields e).2.2.1 = slot + 1 →
    codeFor (laneFields (body.getD k 0)) slot < 1536 →
    let old := codeFor (laneFields (body.getD k 0)) slot
    let wrap := (stepFields e).1
    let moved : Int := (i : Int) * (stepFields e).2.1
    let code : Int := (old : Int) + (if wrap = 0 then moved else moved % (wrap : Int))
    let x := loopEntry t body steps base i k
    x.iter = i ∧ x.va = base + 12 * k
      ∧ (0 ≤ code → code < t.card.v → overflowed x = false ∧ (codeFor (laneFields x.word) slot : Int) = code)
      ∧ (code < 0 ∨ (t.card.v : Int) ≤ code → overflowed x = true)
      ∧ (∀ j, j < 5 → j ≠ slot → codeFor (laneFields x.word) j = codeFor (laneFields (body.getD k 0)) j)
      ∧ laneOpcode x.word = laneOpcode (body.getD k 0)

/-- Feeding the lane stream (R24, R25, R140, R141, R175 to R177). -/
def Obligations.LaneFeed : Prop :=
  Claims.WordsAppended ∧ Claims.LoopSteps

/-- Words that the spec works out bit by bit (R158, R264, the examples of chapter 7): each decodes to the instruction it stands for. -/
def Obligations.SpecWordsDecode : Prop :=
  let f (t d a b c x y : Nat) : LaneFields := {
    ty := BitVec.ofNat 4 t, md := 0, d := BitVec.ofNat 11 d, a := BitVec.ofNat 11 a, b := BitVec.ofNat 11 b
    c := BitVec.ofNat 11 c, e := 0, g1 := BitVec.ofNat 5 x, g2 := BitVec.ofNat 5 y, hint := 0, sched := 0 }
  decodeS 0x2022468A = .ok (.limm 4 0x2468A) ∧ decodeS 0x24265E40 = .ok (.lsh 4 0x65E40)
    ∧ decodeS 0x7CB14002 = .ok (.own 2 22 20) ∧ decodeS 0x78005000 = .ok (.mxpost 5) ∧ decodeS 0x1838703D = .ok (.shli 7 7 61)
    ∧ decodeS 0x680060E0 = .ok (.cwait 6 7) ∧ decodeS 0x8C488140 = .ok (.post 9 8 10) ∧ decodeS 0 = .error .reservedOpcode
    ∧ decodeL 0x2110004002008020000E8000 = .ok (.vfma (f 4 8 2 4 8 3 0x14))
    ∧ decodeL 0x004000500AE02000003DE000 = .ok (.vadd (f 0 10 10 0x701 0 15 15))
    ∧ (decodeL 0x004000500AE02000003DE001).toOption = none
    ∧ (decodeLFor 8 0x004000500AE02000003DE000).toOption = none

/-- Decode and encode agree on every S-word instruction (R133 to R141): the word of a well-formed instruction decodes to it, and so do its
bytes in memory, whatever follows them. -/
def Obligations.ScalarRoundTrip : Prop :=
  ∀ (i : Instr) (w : Half), wellFormed i = true → encodeS i = some w →
    decodeS w = .ok i ∧ ∀ bs, decodeBytesS (leBytes 4 w.toNat ++ bs) = .ok (i, bs)

/-- Decode and encode agree on every L-word instruction (R142 to R149). -/
def Obligations.LaneRoundTrip : Prop :=
  ∀ (i : Instr) (w : LWord), wellFormed i = true → encodeL i = some w →
    decodeL w = .ok i ∧ ∀ bs, decodeBytesL (leBytes 12 w.toNat ++ bs) = .ok (i, bs)

/-- No S-word has two meanings and no bit of one is ignored: a word that decodes is the word of a well-formed instruction, so every
register field names s0 to s95 or sz (R134) and every field marked zero is zero (R135). -/
def Claims.ScalarWordsUnambiguous : Prop :=
  ∀ (w : Half) (i : Instr), decodeS w = .ok i → encodeS i = some w ∧ wellFormed i = true
    ∧ ∀ r, r ∈ scalarReads i ++ scalarWrites i → r.toNat < 96 ∨ r = 127

/-- No L-word has two meanings and no bit of one is ignored, whatever number of vector registers the team has (R46, R149). -/
def Claims.LaneWordsUnambiguous : Prop :=
  ∀ (V : Nat) (w : LWord) (i : Instr), decodeLFor V w = .ok i →
    encodeL i = some w ∧ wellFormed i = true ∧ decodeL w = .ok i

/-- Decoding determines the word (R46, R134, R135, R149). -/
def Obligations.WordsUnambiguous : Prop :=
  Claims.ScalarWordsUnambiguous ∧ Claims.LaneWordsUnambiguous

/-- A STEP RUNS THE DECODED S-WORD (R160): with nothing due at the boundary, the word at the scalar PC that decodes, and that no
L-word makes wait, is what the step executes, its sector of code then in the core's instruction cache; under DBGCTL.step the crew
halts once each of its teams has run one (R343), and a crew told to leave its partitions leaves them (R30). A trap that meets an L-word
between two passes waits for them, its word not run (R199, R261). -/
def Claims.ScalarWordRuns : Prop :=
  ∀ (s s1 s2 : State) (rest : List Turn) (w : Half), s.agenda = .scalar s.team.card.handle :: rest →
    s1 = tick { s with agenda := rest } → s.team.place.run = 1 → clocked s (coreOf s.team) = true → s.team.ord.ending = false →
    (s.team.scalarAtom = true ∨ s.team.ord.leave = none ∧ s.team.ord.stepped = false ∧ due s1 = false) →
    s.team.ord.load = none → fetchScalar s1 = .word w → s2 = fillCode s1 (focusWho s1) false s.team.pc.toNat →
    s2 = { s1 with cores := { s1.cores with code := s2.cores.code } }
    ∧ (∀ i, decodeS w = .ok i → streamWait s.team i = false →
      (∀ f, exec i s2 = .fault f → step s = .fault f) ∧ (∀ f, exec i s2 = .refused f → step s = .refused f)
      ∧ (∀ t, exec i s2 = .next t → s.team.laneMid = true → s.team.sys.handler = false → t.team.card.handle = s.team.card.handle →
          t.team.sys.handler = true → t.team.ord.leave = none → step s = .next s1)
      ∧ ∀ t, exec i s2 = .next t → s.team.laneMid = false ∨ s.team.sys.handler = true ∨ t.team.sys.handler = false →
        (stepping s = false →
          (t.team.ord.leave = none → step s = .next t)
          ∧ (t.team.ord.leave ≠ none → step s = .next (settleLeave t t.team.card.handle)))
        ∧ (stepping s = true → t.team.card.handle = s.team.card.handle → t.team.place.run = 1 →
            (t.team.sys.handler = false ∨ s.team.sys.handler = true) → t.team.pc ≠ s.team.pc →
            (matesStepped t = true → ∃ h, step s = .next (haltCrew t h) ∧ h.toNat % 256 = 0x1D)
            ∧ (matesStepped t = false →
                step s = .next { t with team := { t.team with ord := { t.team.ord with stepped := true } } })))
    ∧ (∀ i, decodeS w = .ok i → streamWait s.team i = true →
        step s = .next (if waitCancels i = true ∧ cancelled s2 = true ∧ midWord s2 s.team.card.handle = false then cancelTeam s2 else s2))
    ∧ ∀ e, decodeS w = .error e →
        ∃ st, (s.team.laneMid = false ∨ s.team.sys.handler = true ∨ delivers s2 st = false → step s = .next (takeStop s2 st))
          ∧ (s.team.laneMid = true → s.team.sys.handler = false → delivers s2 st = true → step s = .next s1)
          ∧ st.cause = 0x01 ∧ st.iva = s.team.pc.toNat

/-- The fetch of an S-word (R12, R133, R160, R164): four bytes in memory order where the team may execute them, from the core's
instruction cache where it holds their sector as it fetched it, and else the stop. -/
def Claims.InstructionFetch : Prop :=
  ∀ s : State, let pc := s.team.pc.toNat
    (mayAccess s pc 4 .sx = true →
      (codeLine s (focusWho s) false pc = none → gateAt s (focusWho s) pc = .go →
        fetchScalar s = .word (BitVec.ofNat 32 (ofBytes ((List.range 4).map fun i => readByte s (focusWho s) (pc + i)))))
      ∧ ∀ c, codeLine s (focusWho s) false pc = some c →
          fetchScalar s = .word (BitVec.ofNat 32 (ofBytes ((List.range 4).map fun i => c.bytes.getD ((pc + i) % 64) 0))))
    ∧ (codeLine s (focusWho s) false pc = none →
        (codeLine (fillCode s (focusWho s) false pc) (focusWho s) false pc).map (·.bytes)
          = some (readBytes s (focusWho s) (sectorOf pc) 64))
    ∧ ∀ (t : State) (rest : List Turn), t.agenda = .scalar t.team.card.handle :: rest → s = tick { t with agenda := rest } →
      s.team.place.run = 1 → clocked s (coreOf s.team) = true → s.team.ord.ending = false → s.team.ord.load = none →
      s.team.ord.leave = none → s.team.ord.stepped = false → due s = false →
      let stops (c : Nat) : Prop := ∃ st,
        (s.team.laneMid = false ∨ s.team.sys.handler = true ∨ delivers s st = false → step t = .next (takeStop s st))
          ∧ (s.team.laneMid = true → s.team.sys.handler = false → delivers s st = true → step t = .next s)
          ∧ st.cause = c ∧ st.va = pc ∧ st.iva = pc
      (2 ^ 56 ≤ pc → stops 0x04)
      ∧ (pc < 2 ^ 56 → inAperture pc = true → stops 0x06)
      ∧ (pc < 2 ^ 56 → inAperture pc = false → regionAt s (focusWho s) pc = none → stops 0x05)
      ∧ (pc < 2 ^ 56 → inAperture pc = false → ∀ e, regionAt s (focusWho s) pc = some e →
          ((eSup e = true ∧ levelOf s.team ≠ 1) ∨ hasRight e .sx = false) → stops 0x06)
      ∧ (mayAccess s pc 4 .sx = true → codeLine s (focusWho s) false pc = none → gateAt s (focusWho s) pc = .absent →
          s.team.laneMid = false ∨ s.team.sys.handler = true →
          ∃ s2 st, step t = .next (takeStop s2 st) ∧ st.cause = 0x13 ∧ st.va = pc ∧ s2.team.regs = s.team.regs)

/-- A step runs the decoded S-word (R133, R160, R164, R343). -/
def Obligations.StepRunsScalarWord : Prop :=
  Claims.ScalarWordRuns ∧ Claims.InstructionFetch

/-- A STEP RUNS THE DECODED L-WORD (R149): the word at the head of the queue that decodes for the team's registers is what the step
executes, a register line that it needs being fetched first (R338); one that does not decode, and one that `lloop` gave a code that is
no register (R141), is the illegal-instruction trap at its VA. -/
def Obligations.StepRunsLaneWord : Prop :=
  ∀ (s s1 : State) (rest : List Turn) (e : LaneEntry) (es : List LaneEntry),
    s.agenda = .lane s.team.card.handle :: rest → s1 = tick { s with agenda := rest } → s.team.place.run = 1 →
    s.team.sys.handler = false → s.team.scalarAtom = false → clocked s (coreOf s.team) = true →
    (midWord s1 s.team.card.handle = true ∨ s.team.ord.leave = none ∧ s.team.ord.stepped = false ∧ due s1 = false) →
    s.team.lane.queue = e :: es →
    let w := runningWord s.team e.word
    (∀ i later, overflowed e = false → decodeLFor s.team.card.v e.word = .ok i → linePlan s1 w = .run later →
      let s2 := beginPart s1 w later
      step s = afterIssue laneWordDone false s1 (afterPart s2 w later (exec i (gatherApart s2 w later)))
        ∧ (later = [] → s.team.lane.passes = 0 → s.team.lane.skip = 0 → stepping s = false →
          ∃ c, s2 = { s1 with cores := { s1.cores with lines := c } } ∧ c.Perm s1.cores.lines
            ∧ ∀ t, exec i s2 = .next t → t.team.card.handle = s.team.card.handle → t.team.lane.skip = 0 → t.team.ord.leave = none →
              ∃ c', step s = .next { t with cores := { t.cores with lines := c' } }))
    ∧ (∀ i l, overflowed e = false → decodeLFor s.team.card.v e.word = .ok i → linePlan s1 w = .fetch l →
        step s = exec (.registerMissMicroTrap { team := s.team.card.handle, v := l.1, w := l.2 } none) s1)
    ∧ ((overflowed e = true ∨ ∃ r, decodeLFor s.team.card.v e.word = .error r) →
        ∃ st, step s = .next (takeStop s1 st) ∧ st.cause = 0x01 ∧ st.iva = e.va ∧ st.word = e.word.toNat)

/-- A STEP RUNS THE STEP OF THE HARDWARE that the agenda names, writes what the management controller writes to its mailbox (R437), brings another
team's turn into focus, and with an empty agenda goes on with bring-up until that ends, runs the focus team, or finds nothing to do (the model's
agenda, assumption log 2; R436). -/
def Obligations.StepRunsHardwareStep : Prop :=
  (∀ (s : State) (rest : List Turn) (i : Instr), s.agenda = .event i :: rest → step s = exec i (tick { s with agenda := rest }))
  ∧ (∀ (s : State) (rest : List Turn) (off : Nat) (bytes : List Byte), s.agenda = .mail off bytes :: rest →
      step s = .next (mailWrite (tick { s with agenda := rest }) off bytes))
  ∧ (∀ (s : State) (rest : List Turn) (h : Nat) (x : Team), h ≠ s.team.card.handle →
      s.others.find? (fun t => t.card.handle = h) = some x →
      (s.agenda = .scalar h :: rest ∨ s.agenda = .lane h :: rest) →
      (focus s h).team = x ∧ step s = step (focus s h)
        ∧ (s.team.place.run = 1 → (focus s h).others = s.team :: s.others.filter fun y => y.card.handle ≠ h))
  ∧ (∀ s : State, s.agenda = [] →
      (s.fw.phase ≤ 1 → step s = exec .bringUp (tick s))
      ∧ (1 < s.fw.phase → s.team.place.run ≠ 1 → step s = .fault .quiescent)
      ∧ (1 < s.fw.phase → s.team.place.run = 1 →
            let h := s.team.card.handle
            step s = step { s with agenda := [if s.team.lane.queue ≠ [] ∧ s.team.sys.handler = false then .lane h else .scalar h] }))

/-- Boundaries (R30, R39, R342, R360, R366, R438): before a team's word, a stop that is due is taken, in a handler too; a halt request
halts its crew, and a team whose level is cancelling by its own `cancel` is removed; one whose accesses are under way stops at none of
these; one told to leave its partition leaves it with its crew; one that has run its word under DBGCTL.step waits for its crewmates (R343);
and one that is not resident, or whose clocks are stopped, does nothing. -/
def Obligations.StopsAtBoundaries : Prop :=
  ∀ (s s1 : State) (rest : List Turn),
    (s.agenda = .scalar s.team.card.handle :: rest ∨ (s.agenda = .lane s.team.card.handle :: rest ∧ s.team.sys.handler = false)) →
    s1 = tick { s with agenda := rest } →
    let h := s.team.card.handle
    ((s.team.place.run ≠ 1 ∨ clocked s (coreOf s.team) = false) → step s = .next s1)
    ∧ (s.team.place.run = 1 → clocked s (coreOf s.team) = true → s.team.scalarAtom = false → midWord s1 h = false →
        (s.team.ord.leave ≠ none → step s = .next (settleLeave s1 h))
        ∧ (s.team.ord.leave = none → s.team.ord.stepped = true →
          (s.agenda = .lane h :: rest ∨ matesStepped s1 = false → step s = .next s1)
          ∧ (s.agenda = .scalar h :: rest → matesStepped s1 = true →
            ∃ x, step s = .next (haltCrew s1 x) ∧ x.toNat % 256 = 0x1D))
        ∧ (s.team.ord.leave = none → s.team.ord.stepped = false → s.team.ord.ending = false →
          (s.team.ord.ownCancel = true → cancelled s = true →
            step s = .next (cancelTeam s1)
              ∧ (s.team.ord.stops = [] → s.team.ord.later = [] → s.team.ord.load = none → step s = .next (removeTeam s1 h)))
          ∧ ((s.team.ord.ownCancel = false ∨ cancelled s = false) →
            (∀ st more, s.team.ord.stops = st :: more →
              step s = .next (takeStop { s1 with team := { s.team with ord := { s.team.ord with stops := more } } } st))
            ∧ (s.team.ord.stops = [] → s.team.ord.haltReq = true →
              ∃ x, step s = .next (haltCrew s1 x) ∧ x.toNat % 256 = 0x1D))))
    ∧ (s.agenda = .scalar h :: rest → s.team.place.run = 1 → clocked s (coreOf s.team) = true → s.team.scalarAtom = false →
        s.team.ord.leave = none → s.team.ord.ending = false → midWord s1 h = true → due s1 = true → step s = .next s1)

/-- The operand namespaces of the L-words (R25, R47, R48, R50, R200): what a lane reads from a vector, scalar, predicate, special or
constant code in an integer type or b32. -/
def Claims.LaneOperands : Prop :=
  ∀ (t : Team) (f : LaneFields) (slot ty l : Nat), isInt ty = true ∨ ty = 15 →
    let c := codeFor f slot
    let x := readOp t f slot ty l
    let w := widthOf ty
    (c < 1536 → x = laneVal t ty c l % 2 ^ w)
    ∧ (1536 ≤ c → c ≤ 1631 → t.lane.xiss1 = none → ∀ e es, t.lane.queue = e :: es → x = (capFor e slot).toNat % 2 ^ w)
    ∧ (1632 ≤ c → c ≤ 1647 → x = if (predSet t (c - 1632)).getLsbD l then 1 else 0)
    ∧ (1664 ≤ c → c ≤ 2047 → (x : Int) = ((c : Int) - 1792) % 2 ^ w)
    ∧ (c = 1648 → x = l % 2 ^ w) ∧ (c = 1649 → x = l % bandSize t % 2 ^ w) ∧ (c = 1650 → x = l / 32 % 2 ^ w)
    ∧ (c = 1651 → x = t.card.tix % 2 ^ w) ∧ (c = 1652 → x = t.card.crk % 2 ^ w) ∧ (c = 1653 → x = l % 32 / bandSize t % 2 ^ w)
    ∧ (c = 1654 → x = l % 32 % 2 ^ w) ∧ (c = 1655 → x = 32 * t.card.w % 2 ^ w) ∧ (c = 1656 → x = bandSize t % 2 ^ w)
    ∧ (c = 1657 → x = t.place.cluster % 2 ^ w) ∧ (c = 1658 → x = t.place.core % 2 ^ w) ∧ (c = 1659 → x = t.card.tcount % 2 ^ w)

/-- Lane addresses (R227, R228): modulo 2^64, from a pair or a scalar base, sign-extended offsets and strides, indexes scaled and signed or
not, and the lane term of the local forms. -/
def Claims.LaneAddresses : Prop :=
  ∀ (t : Team) (op : Nat) (f : LaneFields) (l : Nat), laneLegal t.card.v op f = true →
    let wide (slot : Nat) : Int :=
      if codeFor f slot < 1536 then (BitVec.ofNat 32 (vreg t (codeFor f slot) l)).toInt else readOp t f slot 2 l
    let a : Int := if codeFor f 1 < 1536 then laneVal t 3 f.a.toNat l else readOp t f 1 2 l
    let n : Int := ((match f.md.toNat % 4 with
      | 0 => l
      | 1 => l % bandSize t
      | 2 => l % 32
      | _ => l / 32 : Nat) : Int)
    let low : BitVec 32 := BitVec.ofInt 32 (wide 3)
    let index : Int := if 1632 ≤ codeFor f 3 then wide 3
      else if 4 ≤ f.md.toNat then (low.toNat : Int) else low.toInt
    let addr : Int := (laneAddr t op f l : Nat)
    (op = 0x201 ∨ op = 0x202 ∨ op = 0x209 ∨ op = 0x20A → addr = (a + wide 2) % 2 ^ 64)
    ∧ (op = 0x203 ∨ op = 0x204 → addr = (a + wide 2 + wide 3 * n) % 2 ^ 64)
    ∧ (op = 0x205 ∨ op = 0x206 → addr = (a + wide 2 + index * 2 ^ (f.md.toNat % 4)) % 2 ^ 64)
    ∧ (op = 0x207 ∨ op = 0x208 →
        let a1 : Int := if codeFor f 1 < 1536 then vreg t (codeFor f 1) l else readOp t f 1 2 l
        addr = (a1 + wide 2 + if 4 ≤ f.md.toNat then ((widthOf f.ty.toNat / 8 : Nat) : Int) * n else 0) % 2 ^ 64)

/-- Operands and addresses of the L-words (R25, R47, R48, R50, R200, R227, R228). -/
def Obligations.LaneOperandsAndAddresses : Prop :=
  Claims.LaneOperands ∧ Claims.LaneAddresses

/-- Integer arithmetic of the lane stream (R199, R202, R204): each lane that takes part gets the exact number, saturated or wrapped in the
type. -/
def Claims.LaneIntegerArithmetic : Prop :=
  ∀ (s : State) (i : Instr) (op : Nat) (f : LaneFields) (g : Int → Int → Int → Int), laneOf i = some (op, f) →
    laneLegal s.team.card.v op f = true → intNumber i (widthOf f.ty.toNat) = some g →
    let ty := f.ty.toNat
    let num (slot l : Nat) : Int := intOf ty (readOp s.team f slot ty l)
    let value (l : Nat) : Int :=
      let x := g (num 1 l) (num 2 l) (num 3 l)
      if f.md.toNat % 2 = 1 then max (leastOf ty) (min x (greatestOf ty)) else x
    ∃ t, exec i s = .next t ∧ LaneWrote s t f ty value 0

/-- Bitwise, shift, counting and bit field forms (R206, R207). -/
def Claims.LaneBitPatterns : Prop :=
  ∀ (s : State) (i : Instr) (op : Nat) (f : LaneFields), laneOf i = some (op, f) → laneLegal s.team.card.v op f = true →
    let ty := f.ty.toNat
    let w := widthOf ty
    ∀ g, bitPattern i w (isSigned ty) = some g →
      let arg (slot l : Nat) : BitVec w := BitVec.ofNat w (readOp s.team f slot ty l)
      ∃ t, exec i s = .next t ∧ LaneWrote s t f ty (fun l => (g (arg 0 l) (arg 1 l) (arg 2 l) (arg 3 l)).toNat) 0

/-- The integer class (R199, R202, R204, R206, R207). -/
def Obligations.LaneIntegerResults : Prop :=
  Claims.LaneIntegerArithmetic ∧ Claims.LaneBitPatterns

/-- R205: quotient, remainder, their limits and FLAGS.dz. -/
def Obligations.LaneDivision : Prop :=
  ∀ (s : State) (f : LaneFields) (i : Instr) (op : Nat), (i = .vdiv f ∧ op = 0x006) ∨ (i = .vrem f ∧ op = 0x007) →
    laneLegal s.team.card.v op f = true →
    let ty := f.ty.toNat
    let x (l : Nat) : Int := intOf ty (readOp s.team f 1 ty l)
    let y (l : Nat) : Int := intOf ty (readOp s.team f 2 ty l)
    ∃ t, exec i s = .next t
      ∧ LaneWrote s t f ty
          (fun l => if op = 0x006 then (if y l = 0 then -1 else (x l).tdiv (y l))
            else (if y l = 0 then x l else x l - (x l).tdiv (y l) * y l))
          (flagsOf s f fun l => if y l = 0 then fDz else 0)
      ∧ ∀ l, takes s f l = true → isSigned ty = true → x l = leastOf ty → y l = -1 →
          laneVal t.team ty f.d.toNat l = stored ty (if op = 0x006 then leastOf ty else 0)

/-- R208: `vsel` moves raw bits by the pattern of its third operand, a predicate source under f32 among them. -/
def Obligations.LaneSelect : Prop :=
  ∀ (s : State) (f : LaneFields), laneLegal s.team.card.v 0x019 f = true →
    let ty := f.ty.toNat
    (∃ t, exec (.vsel f) s = .next t
      ∧ LaneWrote s t f ty (fun l => if readOp s.team f 3 ty l ≠ 0 then readOp s.team f 1 ty l else readOp s.team f 2 ty l) 0)
    ∧ (ty = 4 → ∀ slot l, 1632 ≤ codeFor f slot → codeFor f slot ≤ 1647 →
        readOp s.team f slot 4 l = if (predSet s.team (codeFor f slot - 1632)).getLsbD l then 0x3F800000 else 0)
    ∧ (ty = 4 → ∀ l, takes s f l = true → codeFor f 3 < 1536 → vreg s.team (codeFor f 3) l = 0x80000000 →
        ∃ t, exec (.vsel f) s = .next t ∧ laneVal t.team 4 f.d.toNat l = readOp s.team f 1 4 l)

/-- `vmov`, `vli`, `vlane`, `vbcast` and `vcmp` (R209 to R211). That `vbcast` reads its position as an integer under every type is the model's choice
(assumption log 13). -/
def Obligations.LaneMovesAndCompares : Prop :=
  ∀ (s : State) (f : LaneFields),
    let ty := f.ty.toNat
    let num (slot l : Nat) : Int := intOf ty (readOp s.team f slot ty l)
    let imm : Nat := f.a.toNat * 2 ^ 21 + f.b.toNat * 2 ^ 10 + f.c.toNat
    let band (l : Nat) : Nat := l / bandSize s.team * bandSize s.team
    (laneLegal s.team.card.v 0x01B f = true →
      ∃ t, exec (.vmov f) s = .next t ∧ LaneWrote s t f ty (fun l => readOp s.team f 1 ty l) 0)
    ∧ (laneLegal s.team.card.v 0x01C f = true →
      ∃ t, exec (.vli f) s = .next t
        ∧ LaneWrote s t f ty (fun _ => if ty = 2 ∧ 2 ^ 31 ≤ imm then (imm : Int) - 2 ^ 32 else imm) 0)
    ∧ (laneLegal s.team.card.v 0x01D f = true →
      ∃ t, exec (.vlane f) s = .next t
        ∧ LaneWrote s t f ty (fun l => num 1 l + num 2 l * (match f.md.toNat with
            | 0 => l
            | 1 => l % bandSize s.team
            | 2 => l % 32
            | _ => l / 32 : Nat)) 0)
    ∧ (laneLegal s.team.card.v 0x01E f = true →
      ∃ (t : State) (src : Nat → Nat), exec (.vbcast f) s = .next t ∧ LaneWrote s t f ty (fun l => readOp s.team f 1 ty (src l)) 0
        ∧ ∀ l, takes s f l = true →
            (f.md = 0 → takes s f (src l) = true ∧ band (src l) = band l
              ∧ ∀ j, takes s f j = true → band j = band l → src l ≤ j)
            ∧ (f.md = 1 → src l = band l + readOp s.team f 2 15 l % bandSize s.team))
    ∧ (laneLegal s.team.card.v 0x01A f = true →
      ∃ t, exec (.vcmp f) s = .next t
        ∧ PredWrote s t f fun l => ordersMeet f.md.toNat (decide (num 1 l = num 2 l)) (decide (num 1 l < num 2 l)))

/-- The float class (R67, R212 to R216): the exact value rounded once into the type, with its flags; minima, maxima and signs without
rounding; comparisons, classes, quotients, roots and dot products. The invalid product of zero and infinity beside a NaN addend raises inv (the
model's choice, assumption log 82), and the root of +∞ under control 2 or 3 is the largest finite value (the model's choice, assumption log 83). -/
def Obligations.LaneFloatResults : Prop :=
  ∀ (s : State) (i : Instr) (op : Nat) (f : LaneFields), laneOf i = some (op, f) → laneLegal s.team.card.v op f = true →
    let ty := f.ty.toNat
    let rc := f.md.toNat % 4
    let v (slot l : Nat) : Val := decodeFloat ty (readOp s.team f slot ty l)
    let wrote (k : Nat) (r : Nat → Nat × Flags) : Prop :=
      ∃ t, exec i s = .next t ∧ LaneWrote s t f k (fun l => (r l).1) (flagsOf s f fun l => (r l).2)
    ((∀ x y z, (floatExact i x y z).isSome) →
      wrote ty fun l =>
        let e := (floatExact i (v 1 l) (v 2 l) (v 3 l)).getD (.nan, 0)
        let r := roundTo ty rc e.1
        (r.1, e.2 ||| r.2))
    ∧ ((∀ x y, (floatPlain i x y).isSome) →
      wrote ty fun l => ((roundTo ty 0 ((floatPlain i (v 1 l) (v 2 l)).getD .nan)).1, 0))
    ∧ (i = .vfdiv f → wrote ty fun l => floatQuotient ty rc (v 1 l) (v 2 l))
    ∧ (i = .vfsqrt f → wrote ty fun l => floatRoot ty rc (v 1 l))
    ∧ (i = .vfclass f → wrote 1 fun l => (2 ^ classBit ty (readOp s.team f 1 ty l), 0))
    ∧ (i = .vfcmp f →
      ∃ t, exec i s = .next t
        ∧ PredWrote s t f fun l =>
            let un := (v 1 l).isNan || (v 2 l).isNan
            match f.md.toNat with
            | 6 => un
            | 7 => !un
            | c => if un then c = 1 else ordersMeet c (eqVal (v 1 l) (v 2 l)) (ltVal (v 1 l) (v 2 l)))
    ∧ (∀ n k : Nat, (i = .vdot2 f ∧ n = 16 ∧ k = 2) ∨ (i = .vdot4 f ∧ n = 8 ∧ k = 4) ∨ (i = .vdot8 f ∧ n = 4 ∧ k = 8) →
        let fmtB := if i = .vdot4 f ∧ f.md.toNat / 4 = 1 then 7 else if i = .vdot4 f ∧ f.md.toNat / 4 = 2 then 8
          else if i = .vdot4 f ∧ f.md.toNat / 4 = 3 then 10 else ty
        let el (slot fmt l j : Nat) : Val × Flags := decodeVal fmt (bits (readOp s.team f slot 15 l) (n * j) n)
        wrote 4 fun l =>
          let r := dotResult rc ((List.range k).map fun j => ((el 1 ty l j).1, (el 2 fmtB l j).1))
            (decodeFloat 4 (readOp s.team f 3 4 l))
          (r.1, (List.range k).foldl (fun a j => a ||| ((el 1 ty l j).2 ||| (el 2 fmtB l j).2)) r.2))

/-- Conversions, block scales, packing and the curve unit (R69 to R74, R217 to R225): what each writes in a lane from which operands and
formats, its flags, and the one amax accumulator that `vcvts` and `vamax` fold. An infinity that widens under control 2 or 3 stays one (the model's
choice, assumption log 84), and `vunpk` reads its sources before it writes a destination that is one of them (the model's choice, assumption log 15). -/
def Obligations.LaneConversions : Prop :=
  ∀ (s : State) (f : LaneFields),
    let ty := f.ty.toNat
    let rc := f.md.toNat % 4
    let x (slot fmt l : Nat) : Nat := readOp s.team f slot fmt l
    let base (slot l : Nat) : Int := sInt 8 (x slot 15 l)
    let wrote (i : Instr) (k : Nat) (r : Nat → Nat × Flags) : Prop :=
      ∃ t, exec i s = .next t ∧ LaneWrote s t f k (fun l => (r l).1) (flagsOf s f fun l => (r l).2)
    let folded (n : Nat) (codes : List Nat) : SMap (BitVec 33) :=
      if codes = [] then s.team.regs.amax
      else sset 0 s.team.regs.amax n (amaxUpdate (sget 0 s.team.regs.amax n) codes (f.md.toNat / 4 % 2 = 1))
    (laneLegal s.team.card.v 0x101 f = true →
        let r (l : Nat) : Int × Flags := conversionOf ty f.b.toNat rc (x 1 f.b.toNat l)
        ∃ t, exec (.vcvt f) s = .next t ∧ LaneWrote s t f ty (fun l => (r l).1) (flagsOf s f fun l => (r l).2))
    ∧ (laneLegal s.team.card.v 0x102 f = true →
        let r (l : Nat) : Nat × Flags :=
          let delta := sInt 4 (x 3 15 l)
          if delta = -8 then (0, 0) else roundTo ty rc (scaleVal (decodeFloat 4 (x 1 4 l)) (-(base 2 l + delta)))
        ∃ t u, exec (.vcvts f) s = .next t ∧ LaneWrote s u f ty (fun l => (r l).1) (flagsOf s f fun l => (r l).2)
          ∧ t.team = { u.team with regs := { u.team.regs with
              amax := folded f.e.toNat ((takerList s.team f).map fun l => x 1 4 l) } }
          ∧ t = { s with team := t.team })
    ∧ (laneLegal s.team.card.v 0x103 f = true →
        wrote (.vscl f) 1 fun l =>
          let v := match decodeFloat 4 (x 1 4 l) with
            | .num _ m e => Val.num false m e
            | .inf _ => .inf false
            | .nan => .nan
          let d := deltaOf ty (base 2 l) v
          ((d.1 % 16).toNat, d.2))
    ∧ (laneLegal s.team.card.v 0x104 f = true →
        wrote (.vpack f) 1 fun l =>
          let y (slot : Nat) : Nat := x slot 15 l
          ((if ty = 9 then
              (let new := y 1 % 16 + y 2 % 16 * 2 ^ 4 + y 3 % 16 * 2 ^ 8 + y 4 % 16 * 2 ^ 12
               if f.md = 0 then y 0 / 2 ^ 16 * 2 ^ 16 + new else y 0 % 2 ^ 16 + new * 2 ^ 16)
            else if widthOf ty = 8 then y 1 % 256 + y 2 % 256 * 2 ^ 8 + y 3 % 256 * 2 ^ 16 + y 4 % 256 * 2 ^ 24
            else y 1 % 65536 + y 2 % 65536 * 2 ^ 16), 0))
    ∧ (laneLegal s.team.card.v 0x105 f = true →
        wrote (.vunpk f) 4 fun l =>
          let n := widthOf ty
          let k := f.md.toNat % 8
          let block := (l % 32 * (32 / n) + k) / (if f.md.toNat / 8 % 2 = 1 then 32 else 16)
          let delta := sInt 4 (x 2 15 (l / 32 * 32 + block / 8) / 2 ^ (4 * (block % 8)) % 16)
          if delta = -8 then (0, 0)
          else
            let e := decodeVal ty (x 1 15 l / 2 ^ (n * k) % 2 ^ n)
            let r := roundTo 4 0 (scaleVal e.1 (base 3 l + delta))
            (r.1, e.2 ||| r.2))
    ∧ (laneLegal s.team.card.v 0x106 f = true →
        wrote (.vround f) 4 fun l =>
          if ty = 4 then integralOf rc (x 1 4 l)
          else
            let r := roundTo ty rc (decodeFloat 4 (x 1 4 l))
            ((roundTo 4 0 (decodeVal ty r.1).1).1, r.2))
    ∧ (laneLegal s.team.card.v 0x107 f = true → wrote (.vcrv f) 4 fun l => curveOf s.team (x 1 4 l))
    ∧ (laneLegal s.team.card.v 0x108 f = true →
        let src : Nat → Nat × Flags := fun l =>
          if ty = 4 then (x 1 4 l, 0) else ((roundTo 4 0 (decodeVal ty (x 1 ty l)).1).1, (decodeVal ty (x 1 ty l)).2)
        ∃ t, exec (.vamax f) s = .next t ∧ t = { s with team := t.team }
          ∧ t.team = { s.team with
              regs := { s.team.regs with
                amax := folded f.e.toNat ((takerList s.team f).map fun l => (src l).1)
                flags := s.team.regs.flags ||| flagsOf s f fun l => (src l).2 }
              lane := pastWord s.team.lane })

/-- Cross-lane operations in legal bands (R32, R78, R79, R238 to R243). The flags of an f32 scan are those of the spans that a position combines,
and a `vred` with no lane that takes part raises none (the model's choice, assumption log 19). -/
def Obligations.CrossLane : Prop :=
  ∀ (s : State) (f : LaneFields), 1 ≤ s.team.regs.band.toNat → s.team.regs.band.toNat ≤ 5 →
    let ty := f.ty.toNat
    let n := bandSize s.team
    let base (l : Nat) : Nat := l - l % n
    let x (l : Nat) : Nat := readOp s.team f 1 ty l
    let members (l : Nat) (p : Nat → Bool) : List Nat :=
      ((List.range n).map fun j => base l + j).filter fun k => takes s f k && p k
    let op := f.md.toNat % 8
    let reduced (ks : List Nat) : Int := match ks with
      | [] => identityOf ty op
      | k :: more => (more.foldl (fun a j => combined ty op a (x j)) (x k) : Nat)
    let first (l k : Nat) : List (Option Nat) :=
      (List.range k).map fun j => if takes s f (base l + j) then some (x (base l + j)) else none
    let scanned (l : Nat) : Nat × Flags :=
      f32Result op (f32Spans op 6 (first l (l % n + if f.md.toNat < 8 then 1 else 0)) (none, 0))
    let folded (l : Nat) : Nat × Flags := f32Result op (f32Tree op s.team.regs.band.toNat (first l n))
    (∀ i w, laneOf i = some (w, f) → laneLegal s.team.card.v w f = true → (∀ p y m, (shufflePos i p y m).isSome) →
      ∃ t, exec i s = .next t
        ∧ LaneWrote s t f ty (fun l =>
            let p := (shufflePos i (l % n) (readOp s.team f 2 15 l) n).getD 0
            x (if 0 ≤ p ∧ p < n then base l + p.toNat else l)) 0)
    ∧ (laneLegal s.team.card.v 0x186 f = true →
        let on (l : Nat) : List Nat := members l fun k => decide (readOp s.team f 1 15 k ≠ 0)
        let value (l : Nat) : Nat := match f.md.toNat with
          | 0 => if on l = [] then 0 else 1
          | 1 => if on l = members l (fun _ => true) then 1 else 0
          | 2 => (on l).foldl (fun a k => a + 2 ^ (k % n)) 0
          | _ => (on l).length
        (preCode f.d.toNat = true → ∃ t, exec (.vvote f) s = .next t ∧ PredWrote s t f fun l => decide (value l = 1))
        ∧ (preCode f.d.toNat = false → ∃ t, exec (.vvote f) s = .next t ∧ LaneWrote s t f 1 (fun l => value l) 0))
    ∧ (laneLegal s.team.card.v 0x187 f = true →
        (ty ≠ 4 → ∃ t, exec (.vscan f) s = .next t
          ∧ LaneWrote s t f ty (fun l =>
              reduced (members l fun k => decide (if 8 ≤ f.md.toNat then k < l else k ≤ l))) 0)
        ∧ (ty = 4 → ∃ t, exec (.vscan f) s = .next t
          ∧ LaneWrote s t f 4 (fun l => (scanned l).1) (flagsOf s f fun l => (scanned l).2)))
    ∧ (laneLegal s.team.card.v 0x188 f = true →
        let whole (l : Nat) : Int := if ty = 4 then (folded l).1 else reduced (members l fun _ => true)
        let fl (l : Nat) : Flags := if ty = 4 then (folded l).2 else 0
        (scaCode f.d.toNat = false → ∃ t, exec (.vred f) s = .next t ∧ LaneWrote s t f ty whole (flagsOf s f fl))
        ∧ (scaCode f.d.toNat = true →
            ∃ t, exec (.vred f) s = .next t ∧ t = { s with team := t.team }
              ∧ t.team = { s.team with
                  regs := { s.team.regs with s := t.team.regs.s, flags := t.team.regs.flags }, lane := pastWord s.team.lane }
              ∧ (∀ r, r.toNat + 1536 ≠ f.d.toNat → readReg t r = readReg s r)
              ∧ ((takerList s.team f) = [] → t.team.regs.s = s.team.regs.s ∧ t.team.regs.flags = s.team.regs.flags)
              ∧ t.team.regs.flags = s.team.regs.flags ||| flagsOf s f fl
              ∧ ∀ l, takes s f l = true → (∀ j, takes s f j = true → l ≤ j) →
                  readReg t (BitVec.ofNat 7 (f.d.toNat - 1536)) = BitVec.ofInt 64 (inType ty (whole l))))
    ∧ (laneLegal s.team.card.v 0x189 f = true →
        ∃ t, exec (.vext f) s = .next t ∧ t = { s with team := t.team }
          ∧ t.team = { s.team with regs := { s.team.regs with v := t.team.regs.v }, lane := pastWord s.team.lane }
          ∧ (∀ l, l < teamLanes s.team → ∀ k, (members l fun _ => true)[l % n]? = some k →
              laneVal t.team ty f.d.toNat l = stored ty (inType ty (x k)))
          ∧ ∀ r l, l < 1024 → ¬ (l < teamLanes s.team ∧ l % n < (members l fun _ => true).length
              ∧ (r = f.d.toNat ∨ (ty64 ty = true ∧ r = f.d.toNat + 1))) → vreg t.team r l = vreg s.team r l)

/-- Masks and predicates (R51, R245 to R250). -/
def Obligations.MasksAndPredicates : Prop :=
  ∀ (s : State) (f : LaneFields),
    let m (l : Nat) : Bool := s.team.regs.mask.getLsbD l
    let old := s.team.regs.mask
    let stack := s.team.regs.stack
    let p (slot l : Nat) : Bool := (predSet s.team (codeFor f slot - 1632)).getLsbD l
    let cond (l : Nat) : Bool := (takers s.team f).getLsbD l && (p 1 l != (f.md.toNat % 2 == 1))
    let wide (slot : Nat) : Nat := readOp s.team f slot 3 0
    let word (b : Nat) : Nat := (List.range 32).foldl (fun a k => if m (32 * b + k) then a + 2 ^ k else a) 0
    let stops (i : Instr) (c : Nat) : Prop := ∃ st, exec i s = .next (takeStop s st) ∧ st.cause = c
    let scalar (i : Instr) (x : Nat) : Prop := ∃ t, exec i s = .next t ∧ t = { s with team := t.team }
      ∧ t.team = { s.team with regs := { s.team.regs with s := t.team.regs.s }, lane := pastWord s.team.lane }
      ∧ (∀ r, r.toNat + 1536 ≠ f.d.toNat → readReg t r = readReg s r)
      ∧ readReg t (BitVec.ofNat 7 (f.d.toNat - 1536)) = BitVec.ofNat 64 x
    let ok (op : Nat) : Prop := laneLegal s.team.card.v op f = true
    (ok 0x18A → stack.length < 256 → ∃ t, exec (.mif f) s = .next t ∧ MaskWrote s t cond ((false, old) :: stack))
    ∧ (ok 0x18E → stack.length < 256 →
        ∃ t, exec (.mloop f) s = .next t ∧ MaskWrote s t m ((true, old) :: stack))
    ∧ ((ok 0x18A → 256 ≤ stack.length → stops (.mif f) 0x0A) ∧ (ok 0x18E → 256 ≤ stack.length → stops (.mloop f) 0x0A))
    ∧ (∀ e st, stack = e :: st →
        (ok 0x18B → ∃ t, exec (.melse f) s = .next t ∧ MaskWrote s t (fun l => e.2.getLsbD l && !m l) stack)
        ∧ (ok 0x18C → ∃ t, exec (.mend f) s = .next t ∧ MaskWrote s t (fun l => e.2.getLsbD l) st))
    ∧ (stack = [] → (ok 0x18B → stops (.melse f) 0x0B) ∧ (ok 0x18C → stops (.mend f) 0x0B))
    ∧ (ok 0x18D →
        (∀ inner e outer, stack = inner ++ e :: outer → (∀ x, x ∈ inner → x.1 = false) → e.1 = true →
          ∃ t st, exec (.mbrk f) s = .next t ∧ MaskWrote s t (fun l => m l && !cond l) (st ++ e :: outer)
            ∧ st.length = inner.length
            ∧ ∀ (k : Nat) (a b : Bool × Lanes), inner[k]? = some a → st[k]? = some b → b.1 = false
                ∧ ∀ l, b.2.getLsbD l = (a.2.getLsbD l && !cond l))
        ∧ ((∀ x, x ∈ stack → x.1 = false) → stops (.mbrk f) 0x0B))
    ∧ (ok 0x18F →
        (f.md.toNat % 4 = 0 →
          ∃ t, exec (.msetPred f) s = .next t ∧ MaskWrote s t (fun l => p 1 l != (f.md.toNat / 4 % 2 == 1)) stack)
        ∧ (f.md.toNat = 2 → ∃ t, exec (.msetAll f) s = .next t ∧ MaskWrote s t (fun _ => true) stack)
        ∧ (f.md.toNat = 1 → (wide 2 < s.team.card.w → s.team.card.w ≤ 32 →
            ∃ t, exec (.msetWord f) s = .next t
              ∧ MaskWrote s t (fun l => if l / 32 = wide 2 then wide 1 / 2 ^ (l % 32) % 2 = 1 else m l) stack)
          ∧ (s.team.card.w ≤ wide 2 → stops (.msetWord f) 0x03)))
    ∧ (ok 0x190 →
        (f.md.toNat = 0 → ∃ t, exec (.mgetPred f) s = .next t ∧ t = { s with team := t.team }
          ∧ t.team = { s.team with regs := { s.team.regs with p := t.team.regs.p }, lane := pastWord s.team.lane }
          ∧ ∀ k l, l < teamLanes s.team → (predSet t.team k).getLsbD l =
              if k + 1632 = f.d.toNat ∧ k ≠ 15 then m l else (predSet s.team k).getLsbD l)
        ∧ (f.md.toNat = 1 →
            scalar (.mgetSum f) ((List.range 32).foldl (fun a b => if word b ≠ 0 then a + 2 ^ b else a) 0))
        ∧ (f.md.toNat = 2 → scalar (.mgetWord f) (if s.team.card.w ≤ wide 2 then 0 else word (wide 2))))
    ∧ (∀ op i, (op = 0x191 ∧ i = .pand f) ∨ (op = 0x192 ∧ i = .por f) ∨ (op = 0x193 ∧ i = .pxor f) → ok op →
        ∃ t, exec i s = .next t
          ∧ PredWrote s t f fun l =>
              let a := p 1 l != (f.md.toNat % 2 == 1)
              let b := p 2 l != (f.md.toNat / 2 % 2 == 1)
              if op = 0x191 then a && b else if op = 0x192 then a || b else a != b)
    ∧ (ok 0x194 → ∃ t, exec (.pnot f) s = .next t ∧ PredWrote s t f fun l => !p 1 l)
    ∧ (ok 0x195 → ∃ t, exec (.pmov f) s = .next t
        ∧ PredWrote s t f fun l => decide (readOp s.team f 1 f.ty.toNat l ≠ 0))

/-- Lane loads (R228 to R231): each lane that takes part gets the bytes at its address under R47; the first check that any lane fails stops
the word whole, with the lanes that fail it; and lanes whose page is not present are left for a second issue. Where the register lines of
some passes come later (R338), the lanes of the others load. -/
def Obligations.LaneLoads : Prop :=
  ∀ (s : State) (i : Instr) (op : Nat) (f : LaneFields),
    (i = .vld f ∧ op = 0x201) ∨ (i = .vlds f ∧ op = 0x203) ∨ (i = .vldx f ∧ op = 0x205) →
    laneLegal s.team.card.v op f = true → s.team.lane.again = none → s.team.lane.passes = 0 → s.team.lane.busy = false →
    let w := widthOf f.ty.toNat / 8
    let va (l : Nat) : Nat := laneAddr s.team op f l
    let asked (l : Nat) : Prop := l < teamLanes s.team ∧ (allTakers s.team f).getLsbD l = true
    let value (l : Nat) : Nat := ofBytes ((List.range w).map fun j => readByte s (focusWho s) (va l + j))
    let gate (l : Nat) : Gate := gateAt s (focusWho s) (va l)
    let here (t : State) : State := { t with hand := s.hand, fab := s.fab }
    ((∀ l, asked l → mayAccess s (va l) w .r = true) → noStores s = true →
      ((∀ l, takes s f l = true → gate l = .go) →
        ∃ t, exec i s = .next t ∧ LaneWrote s (here t) f f.ty.toNat (fun l => value l) 0 ∧ SameMemory s t)
      ∧ ((∀ l, takes s f l = true → gate l = .go ∨ gate l = .absent) → (∃ l, takes s f l = true ∧ gate l = .absent) →
        s.team.lane.skip = 0 →
        ∃ s1 st, exec i s = .next (takeStop s1 st) ∧ st.cause = 0x13 ∧ s1.team.lane.queue = s.team.lane.queue
          ∧ (∃ m, s1.team.lane.again = some m ∧ ∀ l, l < 1024 → m.getLsbD l = (takes s f l && gate l = .absent))
          ∧ ∀ l, takes s f l = true → laneVal s1.team f.ty.toNat f.d.toNat l =
              if gate l = .go then stored f.ty.toNat (inType f.ty.toNat (value l))
              else laneVal s.team f.ty.toNat f.d.toNat l))
    ∧ ∀ c, 0x04 ≤ c → c ≤ 0x07 → s.team.lane.skip = 0 → (∃ l, takes s f l = true ∧ addrTrap s (focusWho s) (va l) w .r = some c) →
        (∀ l, takes s f l = true → ∀ c', addrTrap s (focusWho s) (va l) w .r = some c' → c ≤ c') →
        ∃ st, exec i s = .next (takeStop s st) ∧ st.cause = c
          ∧ ∀ l, l < 1024 → st.lanes.getLsbD l = (takes s f l && addrTrap s (focusWho s) (va l) w .r = some c)

/-- Lane stores (R105, R116, R232, R352): with room for them the word completes at once; the buffer gains entries that hold each lane's
bytes at its address, one sequence number a pass in ascending order, with writes or without, and the mask of every lane of the pass on its
page (R352, R355); and no byte of memory changes. -/
def Obligations.LaneStores : Prop :=
  ∀ (s : State) (i : Instr) (op slot : Nat) (rel : Bool) (f : LaneFields),
    (i = .vst f ∧ op = 0x202 ∧ slot = 3 ∧ rel = f.md.getLsbD 1) ∨ (i = .vsts f ∧ op = 0x204 ∧ slot = 4 ∧ rel = false)
      ∨ (i = .vstx f ∧ op = 0x206 ∧ slot = 4 ∧ rel = false) →
    laneLegal s.team.card.v op f = true → unbegun s.team →
    let w := widthOf f.ty.toNat / 8
    let va (l : Nat) : Nat := laneAddr s.team op f l
    let data (l j : Nat) : Byte := BitVec.ofNat 8 (readOp s.team f slot f.ty.toNat l / 256 ^ j)
    (∀ l, takes s f l = true → mayAccess s (va l) w .w = true ∧ groupTrap s (va l) = none) →
    (∀ e, e ∈ s.sb → e.held = false) → teamShare s s.team.card.handle + (takerList s.team f).length ≤ 128 →
    coreShare s (coreOf s.team) + (takerList s.team f).length ≤ 512 →
    ∃ t es, exec i s = .next t ∧ t.sb = s.sb ++ es
      ∧ (∀ e, e ∈ es → e.team = s.team.card.handle ∧ e.core = coreOf s.team ∧ e.lane = true ∧ e.held = false
          ∧ e.asid = tagOf s.team.card.asid e.sector ∧ e.covers = (if rel then s.team.ord.seq + 1 else s.team.ord.cover)
          ∧ s.team.ord.seq < e.seq ∧ e.seq ≤ t.team.ord.seq
          ∧ (∀ e', e' ∈ es → (e.pass = e'.pass → e.seq = e'.seq) ∧ (e.pass < e'.pass → e.seq < e'.seq))
          ∧ (∀ m, m < 32 → e.lanes.getLsbD m =
              (takes s f (32 * e.pass + m) && decide (va (32 * e.pass + m) / 65536 = e.sector / 65536)))
          ∧ ∀ b, b ∈ e.bytes → ∃ l j, takes s f l = true ∧ l / 32 = e.pass ∧ j < w ∧ e.sector + b.1 = va l + j ∧ b.2 = data l j)
      ∧ (∀ l, takes s f l = true → ∃ l' e, takes s f l' = true ∧ va l' = va l ∧ e ∈ es ∧ e.pass = l' / 32
          ∧ e.sector = va l / 64 * 64 ∧ ∀ j, j < w → (va l % 64 + j, data l' j) ∈ e.bytes)
      ∧ t.team.ord.seq = s.team.ord.seq + (passesLeft s.team).length
      ∧ (∀ l, takes s f l = true → l / 32 ∈ passesLeft s.team)
      ∧ t.team = { s.team with ord := { s.team.ord with seq := t.team.ord.seq }, lane := pastWord s.team.lane }
      ∧ t = { s with team := t.team, sb := t.sb } ∧ SameMemory s t

/-- Local memory (R92 to R94, R228 to R232): `vldm` and `vstm` act at once on the core's own local memory, and no other byte of it
changes; two lanes at one address leave one of their values. A store that a crewmate would see waits for the stores that the team's last
release fence covers (R95, R108). -/
def Obligations.LocalMemory : Prop :=
  ∀ (s : State) (f : LaneFields) (op : Nat), unbegun s.team → laneLegal s.team.card.v op f = true →
    let w := widthOf f.ty.toNat / 8
    let core := coreOf s.team
    let la (l : Nat) : Nat := laneAddr s.team op f l
    (∀ l, takes s f l = true → localTrap s w (la l) = none) →
    (op = 0x207 → ∃ t, exec (.vldm f) s = .next t
      ∧ LaneWrote s t f f.ty.toNat (fun l => ofBytes ((List.range w).map fun j => byteAt s.lm (core * 2 ^ 18 + la l + j))) 0)
    ∧ (op = 0x208 → s.team.card.crew ≤ 1 ∨ s.team.ord.cover = 0 ∨ noStores s = true → ∃ t, exec (.vstm f) s = .next t
        ∧ (∀ l, takes s f l = true → ∃ l', takes s f l' = true ∧ la l' = la l
            ∧ ∀ j, j < w → byteAt t.lm (core * 2 ^ 18 + la l + j) = BitVec.ofNat 8 (readOp s.team f 3 f.ty.toNat l' / 256 ^ j))
        ∧ (∀ x, (∀ l, takes s f l = true → ¬ (core * 2 ^ 18 + la l ≤ x ∧ x < core * 2 ^ 18 + la l + w)) →
            byteAt t.lm x = byteAt s.lm x)
        ∧ t.team = { s.team with lane := pastWord s.team.lane } ∧ t = { s with team := t.team, lm := t.lm })
    ∧ (op = 0x208 → (∃ l, takes s f l = true) → 1 < s.team.card.crew → (∀ e, e ∈ s.sb → e.held = false) →
        (∃ e, e ∈ s.sb ∧ e.team = s.team.card.handle ∧ e.seq < s.team.ord.cover) →
        ∃ t, exec (.vstm f) s = .next t ∧ t.lm = s.lm ∧ t.team.lane = s.team.lane ∧ t.team.regs = s.team.regs)

/-- Lanes in group windows (R236, R295, R408): a `vamo` of one lane leaves as one request under the lane's number and waits at the head of the queue;
once every open lane's value has come each lane receives its own; and a store or an atomic of a lane whose group is in error is the group-error stop
before any lane acts. -/
def Claims.LaneGroupWindows : Prop :=
  ∀ (s : State) (f : LaneFields),
    let ty := f.ty.toNat
    let tag (x : Nat) : Nat := tagOf s.team.card.asid x
    (∀ (i : Instr) (op : Nat) (need : Right) (l : Nat) (r : Group), unbegun s.team → laneLegal s.team.card.v op f = true →
      (i = .vst f ∧ op = 0x202 ∧ need = .w) ∨ (i = .vsts f ∧ op = 0x204 ∧ need = .w) ∨ (i = .vstx f ∧ op = 0x206 ∧ need = .w)
        ∨ (i = .vamo f ∧ op = 0x209 ∧ need = .rw) →
      let va (m : Nat) : Nat := laneAddr s.team op f m
      let broken (m : Nat) : Prop := kindAt s (tag (va m)) (va m) = 2
        ∧ ∃ r, groupOf s (groupAt s (tag (va m)) (va m)) = some r ∧ r.state = 1
      (∀ m, takes s f m = true → mayAccess s (va m) (widthOf ty / 8) need = true) → takes s f l = true →
      kindAt s (tag (va l)) (va l) = 2 → groupOf s (groupAt s (tag (va l)) (va l)) = some r → r.state = 1 →
      (∀ m, takes s f m = true → m < l → ¬ broken m) →
      ∃ st, exec i s = .next (takeStop s st) ∧ st.cause = 0x12 ∧ st.va = va l ∧ st.detail = groupAt s (tag (va l)) (va l))
    ∧ (laneLegal s.team.card.v 0x209 f = true →
      let k := laneAmoKind ty
      let va (m : Nat) : Nat := laneAddr s.team 0x209 f m
      (∀ (l g : Nat) (r : Group), unbegun s.team → takerList s.team f = [l] → mayAccess s (va l) k.bytes .rw = true →
        kindAt s (tag (va l)) (va l) = 2 → g = groupAt s (tag (va l)) (va l) → groupOf s g = some r → r.state ≠ 1 → r.waiting = [] →
        s.team.ord.atoms.find? (·.key = l) = none → noStores s = true → s.fw.lev.state = 0 →
        ∃ t, exec (.vamo f) s = .next t
          ∧ groupLeft s t g r
              { group := g, src := s.link.moduleId, number := 0, team := s.team.card.handle, asid := tag (va l)
                op := .atomic (va l) (BitVec.ofNat 3 f.e.toNat) k.code (BitVec.ofNat 64 (readOp s.team f 3 ty l))
                  (BitVec.ofNat 64 (readOp s.team f 0 ty l)) }
          ∧ t.team.ord = { s.team.ord with seq := s.team.ord.seq + 1, atoms := s.team.ord.atoms ++ [{ key := l, group := g }] }
          ∧ t.team.regs = s.team.regs ∧ t.team.lane.queue = s.team.lane.queue ∧ openLanes t.team f = [l])
      ∧ (∀ val : Nat → Word, s.team.lane.busy = true → s.team.lane.skip = 0 →
        (∀ l, l ∈ openLanes s.team f → kindAt s (tag (va l)) (va l) = 2 ∧ (val l).toNat < 256 ^ k.bytes
          ∧ ∃ x, s.team.ord.atoms.find? (·.key = l) = some x ∧ x.value = some (val l)) →
        ∃ t, exec (.vamo f) s = .next t
          ∧ (∀ l, l ∈ openLanes s.team f → laneVal t.team ty f.d.toNat l = (val l).toNat)
          ∧ (∀ r l, l < 1024 → ¬ (l ∈ openLanes s.team f ∧ (r = f.d.toNat ∨ (ty64 ty = true ∧ r = f.d.toNat + 1))) →
              vreg t.team r l = vreg s.team r l)
          ∧ t.team = { s.team with
              regs := { s.team.regs with v := t.team.regs.v }, lane := pastWord s.team.lane
              ord := { s.team.ord with atoms := s.team.ord.atoms.filter fun x => x.key ∉ openLanes s.team f } }
          ∧ t = { s with team := t.team } ∧ SameMemory s t))

/-- `vamo` (R106, R170, R171, R235) on lanes at distinct places outside group windows, where no lane's access makes another one's wait, and `vpref`
(R237). -/
def Claims.LaneAtomics : Prop :=
  ∀ (s : State) (f : LaneFields), unbegun s.team →
    (laneLegal s.team.card.v 0x209 f = true →
      let ty := f.ty.toNat
      let k := laneAmoKind ty
      let n := k.bytes
      let va (l : Nat) : Nat := laneAddr s.team 0x209 f l
      let place (l j : Nat) : Where := placeOf s (focusWho s) (va l + j)
      let old (l : Nat) : Nat := ofBytes ((List.range n).map fun j => readByte s (focusWho s) (va l + j))
      (∀ l, takes s f l = true → mayAccess s (va l) n .rw = true ∧ kindAt s (tagOf s.team.card.asid (va l)) (va l) ≠ 2
        ∧ gateAt s (focusWho s) (va l) = .go) →
      (∀ l m, takes s f l = true → takes s f m = true → l ≠ m → ∀ i j, i < n → j < n → place l i ≠ place m j) →
      (takerList s.team f).length ≤ 1
        ∨ (cacheRoom s (takerList s.team f).length = true ∧ ∀ l, takes s f l = true → steady s (focusWho s) (va l) = true) →
      noStores s = true → s.fw.lev.state = 0 → s.memOk →
      ∃ t, exec (.vamo f) s = .next t
        ∧ LaneWrote s { t with
            team := { t.team with ord := s.team.ord }, mem := s.mem, hand := s.hand, fab := s.fab, xl := s.xl, hostp := s.hostp }
            f ty (fun l => old l) 0
        ∧ t.team.ord = { s.team.ord with seq := t.team.ord.seq }
        ∧ (∀ l, takes s f l = true →
            let new := amoNumber k f.e.toNat (old l) (readOp s.team f 3 ty l) (readOp s.team f 0 ty l)
            ∀ j, j < n → readByte t (focusWho s) (va l + j) = BitVec.ofNat 8 (new.getD (old l) / 256 ^ j))
        ∧ ∀ w x, (∀ l j, takes s f l = true → j < n → placeOf s w x ≠ place l j) → readByte t w x = readByte s w x)
    ∧ (laneLegal s.team.card.v 0x20A f = true →
        ∃ t, exec (.vpref f) s = .next t ∧ t.team = { s.team with lane := pastWord s.team.lane }
          ∧ t = { s with team := t.team, hand := t.hand, fab := t.fab } ∧ SameMemory s t)

/-- The atomics and the prefetch of lanes (R106, R170, R171, R235 to R237, R295). -/
def Obligations.LaneAtomicsAndPrefetch : Prop :=
  Claims.LaneAtomics ∧ Claims.LaneGroupWindows

/-- `xiss` (R251 to R260): it captures the distinct words with their suppliers in order of the lowest, or stops with the failing lanes; it
is a no-op without suppliers; and then runs each word as the same L-word under its suppliers. -/
def Obligations.IssueRegister : Prop :=
  ∀ (s : State) (f : LaneFields),
    let word (l : Nat) : LWord :=
      BitVec.ofNat 32 (vreg s.team (f.a.toNat + 2) l) ++ BitVec.ofNat 32 (vreg s.team (f.a.toNat + 1) l)
        ++ BitVec.ofNat 32 (vreg s.team f.a.toNat l)
    let bad (l : Nat) : Bool := takes s f l && supplyReason s.team 1 (word l) ≠ 0
    (laneLegal s.team.card.v 0x280 f = true → s.team.lane.xiss1 = none →
      ((∀ l, takes s f l = false) →
        ∃ t, exec (.xiss f) s = .next t ∧ t = { s with team := { s.team with lane := pastWord s.team.lane } })
      ∧ ((∃ l, takes s f l = true) → (∀ l, bad l = false) →
        ∃ t b, exec (.xiss f) s = .next t ∧ t = { s with team := { s.team with lane := { s.team.lane with xiss1 := some b } } }
          ∧ b.next = 0 ∧ (b.words.map (·.1)).Nodup
          ∧ (∀ l, takes s f l = true → ∃ m, (word l, m) ∈ b.words ∧ m.getLsbD l = true)
          ∧ (∀ w m l, (w, m) ∈ b.words → m.getLsbD l = true → takes s f l = true ∧ word l = w)
          ∧ ∀ (j k : Nat) (x y : LWord × Lanes), j < k → b.words[j]? = some x → b.words[k]? = some y →
              ∀ l, y.2.getLsbD l = true → ∃ l', l' < l ∧ x.2.getLsbD l' = true)
      ∧ ∀ l0, bad l0 = true → (∀ l, bad l = true → l0 ≤ l) →
        ∃ st, exec (.xiss f) s = .next (takeStop s st) ∧ st.cause = 0x0C ∧ st.reason = supplyReason s.team 1 (word l0)
          ∧ st.word = (word l0).toNat ∧ ∀ l, l < 1024 → st.lanes.getLsbD l = bad l)
    ∧ (∀ b w m i, s.team.lane.xiss1 = some b → s.team.lane.xiss2 = none → b.words[b.next]? = some (w, m) →
        decodeLFor s.team.card.v w = .ok i → barredOp (laneOpcode w) = false → laneOpcode w ≠ 0x280 →
        exec (.xiss f) s = exec i s ∧ wholeMask s.team = m)
    ∧ ∀ b c w m i, s.team.lane.xiss1 = some b → s.team.lane.xiss2 = some c → c.words[c.next]? = some (w, m) →
        decodeLFor s.team.card.v w = .ok i → barredOp (laneOpcode w) = false → laneOpcode w ≠ 0x280 →
        exec (.xiss f) s = exec i s ∧ wholeMask s.team = m

/-- Draining a late-fault store buffer (R87, R116, R119, R352): an entry that nothing holds back leaves it and its bytes stand in memory;
one whose page is not present is held with the later entries of its team on the page; a release whose stores are not yet performed marks
its sector; and a store to a group window leaves for the group's root, behind a request of the group that waits for its number (R408). -/
def Claims.StoreBufferDrains : Prop :=
  ∀ (s : State) (i : Nat) (e : SbEntry), s.sb[i]? = some e → e.held = false → e.sent = false → clocked s e.core = true →
    s.posted = [] → (∀ k, k ∈ s.eng.tasks → k.due = [] ∧ k.ended = none) →
    (∀ j x, j < i → s.sb[j]? = some x → ¬ (x.team = e.team ∧ x.asid = e.asid ∧ x.sector = e.sector)) →
    (∀ x, x ∈ s.sb → x.held = true → ¬ (x.team = e.team ∧ x.asid = e.asid ∧ x.sector / 65536 = e.sector / 65536)) →
    (∀ x, x ∈ s.team :: s.others → x.ord.kept = []) →
    let w := entryWho s e
    let ready : Prop := e.covers = 0 ∨ ((∀ x, x ∈ s.sb → x.team = e.team → e.covers ≤ x.seq) ∧ owedBy s e.team = false)
    (gateAt s w e.sector = .go → kindAt s e.asid e.sector ≠ 2 → ready → (∀ x, x ∈ s.sb → x.marked = false) →
      ∃ t, exec (.storeBufferDrain i) s = .next t ∧ t.sb = s.sb.erase e
        ∧ t = { s with
            sb := t.sb, mem := t.mem, hand := t.hand, fab := t.fab, xl := { s.xl with pages := t.xl.pages }
            hostp := { s.hostp with far := t.hostp.far } }
        ∧ (s.memOk → e.sector % 64 = 0 → (∀ b, b ∈ e.bytes → b.1 < 64) → (e.bytes.map (·.1)).Nodup →
          (∀ b, b ∈ e.bytes → readByte t w (e.sector + b.1) = b.2)
            ∧ ∀ w' a, (∀ b, b ∈ e.bytes → placeOf s w' a ≠ placeOf s w (e.sector + b.1)) → readByte t w' a = readByte s w' a))
    ∧ (e.bytes ≠ [] → gateAt s w e.sector = .go → kindAt s e.asid e.sector ≠ 2 → ¬ ready → e.marked = false →
      ∃ t, exec (.storeBufferDrain i) s = .next t ∧ t = { s with sb := t.sb, fab := t.fab } ∧ SameMemory s t
        ∧ t.sb = s.sb.map fun x => if x = e then { x with marked := true } else x)
    ∧ (e.bytes ≠ [] → gateAt s w e.sector = .absent →
      ∃ t, exec (.storeBufferDrain i) s = .next t ∧ t.lm = s.lm ∧ t.eng = s.eng ∧ t.sched = s.sched
        ∧ t.sb = s.sb.take i ++ (s.sb.drop i).map fun x =>
            if x.team = e.team && x.asid = e.asid && x.sector / 65536 = e.sector / 65536 then { x with held := true } else x)
    ∧ (e.bytes ≠ [] → gateAt s w e.sector = .go → kindAt s e.asid e.sector = 2 →
      groupFree s (groupAt s e.asid e.sector) = false → exec (.storeBufferDrain i) s = .next s)
    ∧ (e.bytes ≠ [] → gateAt s w e.sector = .go → kindAt s e.asid e.sector = 2 → sendReady s e = true →
      (∃ r, groupOf s (groupAt s e.asid e.sector) = some r ∧ r.state = 0 ∧ r.waiting = []) →
      ∃ t, exec (.storeBufferDrain i) s = .next t ∧ t.mem = s.mem ∧ t.team = s.team ∧ t.others = s.others ∧ t.lm = s.lm
        ∧ t.sb = s.sb.map fun x => if x = e then { x with sent := true } else x)

/-- R352, R354, R438: `storeBufferDrain` acts in every state; with an entry of that number whose core's clocks run it drains the entry as far as it
goes; and then the hardware's writes that waited are made where their homes let them through now, the records that wait for a slot are written where
one is free, and the tasks go on whose control words waited. -/
def Claims.StoreBufferDrainCompletes : Prop :=
  ∀ (s : State) (i : Nat),
    let rest (x : State) : State := settleTasks (settleKept (settlePosted x))
    (∀ e, s.sb[i]? = some e → clocked s e.core = true → exec (.storeBufferDrain i) s = .next (rest (drainEntry s e)))
    ∧ (s.sb[i]? = none ∨ (∃ e, s.sb[i]? = some e ∧ clocked s e.core = false) → exec (.storeBufferDrain i) s = .next (rest s))

/-- R104, R271, R277, R352: the control word of a task that ends is a store of its team behind the team's earlier ones: it takes a place of the
buffer, or waits for one; it does not pass a store that has not left the buffer, and one that meets a translation fault is held as an engine's
write. -/
def Claims.ControlWordsInOrder : Prop :=
  ∀ (s : State) (k : Task) (status : Nat) (x : Team), taskOf s k.id = some k → k.due = [] → teamOf s k.team = some x → k.recVa % 64 = 0 →
    (∀ e, e ∈ s.sb → e.held = false ∧ (e.team = k.team → e.seq ≠ x.ord.seq + 1)) →
    (teamShare s k.team < 128 → coreShare s k.core < 512 →
      (∃ e, e ∈ s.sb ∧ e.team = k.team ∧ e.asid = tagOf k.asid k.recVa ∧ e.sector = k.recVa ∧ e.sent = false) →
      ∃ t e, putControl s k status = t ∧ t.sb = s.sb ++ [e] ∧ e.team = k.team ∧ e.sector = k.recVa ∧ e.source = 4 ∧ e.access = 3
        ∧ e.seq = x.ord.seq + 1
        ∧ e.bytes = (toBytes 8 (field k.desc 0x38 8 % 2 ^ 44 + k.progress % 2 ^ 16 * 2 ^ 44 + status * 2 ^ 60)).zipIdx.map
            (fun b => (0x38 + b.2, b.1))
        ∧ t.mem = s.mem ∧ t.hand = s.hand ∧ t.lm = s.lm)
    ∧ (128 ≤ teamShare s k.team ∨ 512 ≤ coreShare s k.core →
      ∃ t, putControl s k status = t ∧ t.sb = s.sb ∧ (taskOf t k.id).map (·.due) = some [(k.progress, status)] ∧ t.mem = s.mem
        ∧ t.hand = s.hand ∧ t.lm = s.lm ∧ t.team = s.team ∧ t.others = s.others)

/-- The late-fault store buffers (R87, R104, R116, R119, R271, R277, R352, R354). That a control word waits for
room is the model's choice (assumption log 92). -/
def Obligations.StoreBufferDrains : Prop :=
  Claims.StoreBufferDrains ∧ Claims.StoreBufferDrainCompletes ∧ Claims.ControlWordsInOrder

/-- Register lines (R59, R338): a word whose lines are all in the partition's register cache runs whole; one that needs the line of a
pass that is not there runs the passes before it, or has the line fetched. -/
def Claims.RegisterLinesNeeded : Prop :=
  ∀ (s : State) (w : LWord),
    ((∀ v, v ∈ wordRegisters w → ∀ k, k ∈ pendingWords s.team → holdsLine s (v, k) = true) → linePlan s w = .run [])
    ∧ (pendingWords s.team = [] → linePlan s w = .run [])
    ∧ (∀ l, linePlan s w = .fetch l →
        l.1 ∈ wordRegisters w ∧ l.2 ∈ pendingWords s.team ∧ l.1 < s.team.card.v ∧ holdsLine s l = false)
    ∧ ∀ k ks, linePlan s w = .run (k :: ks) →
        (∃ v, v ∈ wordRegisters w ∧ v < s.team.card.v ∧ holdsLine s (v, k) = false)
        ∧ ∃ before, before ≠ [] ∧ pendingWords s.team = before ++ k :: ks
          ∧ ∀ j, j ∈ before → ∀ v, v ∈ wordRegisters w → v < s.team.card.v → holdsLine s (v, j) = true

/-- R51, R335: a push onto a stack of 32 entries or more puts the entry that leaves the top 32 into the context image, as the hardware reads it. -/
def Claims.DeepMaskEntries : Prop :=
  ∀ (s : State) (f : LaneFields) (i : Instr) (op : Nat), (i = .mif f ∧ op = 0x18A) ∨ (i = .mloop f ∧ op = 0x18E) →
    laneLegal s.team.card.v op f = true → s.memOk → 32 ≤ s.team.regs.stack.length → s.team.regs.stack.length < 256 →
    let w := hwWho (teamDomain s s.team) 0
    let va := s.team.card.handle + 0x1000 + 128 * (s.team.regs.stack.length - 32)
    present s w va 128 = true →
    (∀ i j, i < 128 → j < 128 → placeOf s w (va + i) = placeOf s w (va + j) → i = j) →
    ∃ t e, exec i s = .next t ∧ s.team.regs.stack[31]? = some e ∧ hwRead t (teamDomain s s.team) 0 va 128 = toBytes 128 e.2.toNat
      ∧ t.team.regs.stack.length = s.team.regs.stack.length + 1

/-- Registers that are not held in the core (R51, R59, R335, R338). -/
def Obligations.RegisterState : Prop :=
  Claims.RegisterLinesNeeded ∧ Claims.DeepMaskEntries

/-- A load's reply (R164, R231): the team's word may run again with it; at a page that is not present the load-translation stop, which an
L-word that has begun its passes completes before (R199, R261); in a cluster whose clocks are stopped nothing happens (R438). -/
def Claims.LoadReplies : Prop :=
  ∀ (s : State) (h va : Nat) (x : Team), teamOf s h = some x → x.ord.load = some va →
    (clocked s (coreOf x) = false → exec (.loadReply h) s = .next s)
    ∧ (clocked s (coreOf x) = true →
    (gateAt s (whoOf s x) va = .go →
      ∃ t, exec (.loadReply h) s = .next t ∧ teamOf t h = some { x with ord := { x.ord with load := none } }
        ∧ (∀ k, k ≠ h → teamOf t k = teamOf s k) ∧ t = { s with team := t.team, others := t.others } ∧ SameMemory s t)
    ∧ (gateAt s (whoOf s x) va = .absent → x.sys.handler = true ∨ x.laneMid = false →
      ∃ s2 st, exec (.loadReply h) s = .next (takeStop s2 st) ∧ st.cause = 0x13 ∧ st.va = va ∧ s2.team.card.handle = h
        ∧ s2.team.regs = x.regs ∧ s2.team.pc = x.pc)
    ∧ (gateAt s (whoOf s x) va = .absent → x.sys.handler = false → x.laneMid = true → exec (.loadReply h) s = .next s))

/-- A missing register line (R59, R337 to R339): it is read from the team's image into its partition's register cache, and no other
register changes; a full cache gives up a line first, one of a team that is not resident if there is one, else a clean one before a dirty
one; another partition's line is moved; a page of the bytes used that is not present and a reserved format byte stop the team with the
context-image cause. A line that the head word does not need, or a word frozen in a handler, is not fetched, and no line in a cluster whose clocks
are stopped (R438); one that must wait at its home is waited for (R116). -/
def Claims.RegisterMisses : Prop :=
  ∀ (s : State) (l : RegLine) (victim : Option RegLine) (x : Team), teamOf s l.team = some x → x.place.run = 1 →
    l.v < x.card.v → l.w < x.card.w →
    (clocked s (coreOf x) = false → exec (.registerMissMicroTrap l victim) s = .next s)
    ∧ (needsLine x l = false → exec (.registerMissMicroTrap l victim) s = .next s)
    ∧ (∀ e es, x.lane.queue = e :: es → needsLine x l =
        (!x.sys.handler && decide (l.v ∈ wordRegisters (runningWord x e.word)) && decide (l.w ∈ pendingWords x)))
    ∧ (needsLine x l = true → clocked s (coreOf x) = true →
    let mine (y : HeldLine) : Prop := y.core = coreOf x ∧ y.team = l.team ∧ y.v = l.v ∧ y.w = l.w
    let held := s.cores.lines.filter fun y => y.core = coreOf x && y.part = x.place.part
    let new : HeldLine := { core := coreOf x, part := x.place.part, team := l.team, v := l.v, w := l.w }
    let w := hwWho (teamDomain s x) 0
    let k := l.v * x.card.w + l.w
    let fmt := x.card.handle + 0x13000 + k
    let slot := x.card.handle + 0x13000 + padF x.card.v x.card.w + 128 * k
    let used := match (readByte s w fmt).toNat with
      | 0x00 => 0
      | 0x10 => 4
      | 0x11 => 35
      | 0x12 => 66
      | _ => 128
    (held.length = 3072 → (∀ y, y ∈ held → ¬ mine y) →
      ∃ e, e ∈ held
        ∧ (lineWaits (evictLine s e) x l.v l.w = true → exec (.registerMissMicroTrap l victim) s = .next s)
        ∧ (lineWaits (evictLine s e) x l.v l.w = false →
            exec (.registerMissMicroTrap l victim) s = exec (.registerMissMicroTrap l none) (evictLine s e))
        ∧ (evictLine s e).cores.lines = s.cores.lines.erase e
        ∧ (e.dirty = false → evictLine s e = { s with cores := { s.cores with lines := s.cores.lines.erase e } })
        ∧ ((∃ y, y ∈ held ∧ ∀ z, teamOf s y.team = some z → z.place.run ≠ 1) → ∀ z, teamOf s e.team = some z → z.place.run ≠ 1)
        ∧ ((∀ y, y ∈ held → ∃ z, teamOf s y.team = some z ∧ z.place.run = 1) → (∃ y, y ∈ held ∧ y.dirty = false) → e.dirty = false))
    ∧ (held.length < 3072 → (∀ y, y ∈ s.cores.lines → ¬ mine y) → lineWaits s x l.v l.w = true →
      exec (.registerMissMicroTrap l victim) s = .next s)
    ∧ (held.length < 3072 → (∀ y, y ∈ s.cores.lines → ¬ mine y) → lineWaits s x l.v l.w = false → s.posted = [] →
      (∀ vals, present s w fmt 1 = true → present s w slot used = true →
        lineOf (readByte s w fmt).toNat (readBytes s w slot 128) = some vals →
        ∃ t y, exec (.registerMissMicroTrap l victim) s = .next t ∧ teamOf t l.team = some y
          ∧ (∀ i, i < 32 → (sget 0 y.regs.v (l.v * 1024 + l.w * 32 + i)).toNat = vals.getD i 0 % 2 ^ 32)
          ∧ (∀ j, j < l.v * 1024 + l.w * 32 ∨ l.v * 1024 + l.w * 32 + 32 ≤ j → sget 0 y.regs.v j = sget 0 x.regs.v j)
          ∧ y = { x with regs := { x.regs with v := y.regs.v } }
          ∧ t.cores = { s.cores with lines := s.cores.lines ++ [new] }
          ∧ (∀ k, k ≠ l.team → teamOf t k = teamOf s k)
          ∧ t = { s with team := t.team, others := t.others, cores := t.cores } ∧ SameMemory s t)
      ∧ (present s w fmt 1 = false ∨ present s w slot used = false
          ∨ lineOf (readByte s w fmt).toNat (readBytes s w slot 128) = none →
        ∃ s1 st, exec (.registerMissMicroTrap l victim) s = .next (takeStop s1 st) ∧ st.cause = 0x1B
          ∧ s1.team = { x with lane := { x.lane with busy := false } } ∧ s1.mem = s.mem))
    ∧ (∀ y, s.cores.lines.find? (fun y => y.core = coreOf x && y.team = l.team && y.v = l.v && y.w = l.w) = some y →
      (y.part = x.place.part → exec (.registerMissMicroTrap l victim) s = .next s)
      ∧ (y.part ≠ x.place.part → held.length < 3072 →
        exec (.registerMissMicroTrap l victim) s = .next { s with cores := { s.cores with
          lines := s.cores.lines.erase y ++ [{ y with part := x.place.part }] } })))

/-- Stops noted for a team are delivered at its boundary (R332, R333, R342, R343, R360): the first of them is taken, in a handler too, and
a team asked to halt enters HALTED with its registers, its PC and its lane queue as they stood, and its queue's owner is told (R373). -/
def Claims.BoundaryEvents : Prop :=
  ∀ (s : State) (h : Nat) (x : Team), teamOf s h = some x → x.place.run = 1 → midWord s h = false → x.ord.leave = none →
    x.ord.ownCancel = false →
    (∀ st rest, x.ord.stops = st :: rest →
      (focus s h).team = x
        ∧ exec (.handlerEntry h) s =
            .next (takeStop { focus s h with team := { x with ord := { x.ord with stops := rest } } } st))
    ∧ (x.ord.stops = [] → x.ord.haltReq = true → crewOf (focus s h) x = [h] → (∀ k, k ∈ s.eng.tasks → k.team ≠ h) →
      (∀ y, y ∈ s.team :: s.others → y.ord.kept = []) →
      ∃ t y, exec (.haltedEntry h) s = .next t ∧ teamOf t h = some y ∧ y.place.run = 3
        ∧ y.place.halt.toNat = 0x1D + 2 ^ 9 + (if x.ord.expired then 2 ^ 10 else 0)
        ∧ y.pc = x.pc ∧ y.regs = x.regs ∧ y.sys = x.sys ∧ y.lane = x.lane ∧ y.card = x.card ∧ t.lm = s.lm ∧ t.sb = s.sb
        ∧ (∀ k, k ∈ t.cores.lines ↔ k ∈ s.cores.lines ∧ k.team ≠ h)
        ∧ (∀ q, queueOf s x.card.queue = some q → queueOf t x.card.queue = some { q with lasthalt := h, halts := q.halts + 1 })
        ∧ ∀ k z, k ≠ h → teamOf s k = some z → 1 ≤ z.place.run → z.place.run ≤ 3 → teamOf t k = some z)

/-- Steps of the hardware on a team (R164, R231, R332, R338, R339, R342, R343, R360, R373). -/
def Obligations.TeamEvents : Prop :=
  Claims.LoadReplies ∧ Claims.RegisterMisses ∧ Claims.BoundaryEvents

/-- Placement (R385, R377, R45, R94): where a crew's turn has come and its cores can take it, each of its teams is resident with the
registers and the program counter that its card gives, its local windows are reset, and no other team changes; a header that must wait at its home
(R116, R420) is waited for. -/
def Obligations.TeamsArePlaced : Prop :=
  ∀ (s : State) (launch crew cl : Nat) (cores : List Nat) (c : Card) (q : Queue),
    (readyPool s).find? (fun c => c.level = launch) = some c → queueOf s c.id.queue = some q → crew ∈ unplaced c →
    clusterAllowed s c crew cl = true → cores.length = c.crewCores → cores.Nodup → (∀ x, x ∈ cores → x < 16) →
    (∀ j, j < c.crewCores → coreFits s (liveTeams s) c crew cl (cores.getD j 0) (crewShare c j) = true) →
    earlierFits s c crew = false → savedFirst s q.prio cl cores = false →
    let dom := (clusterRec s cl).domain
    let tix (j : Nat) : Nat := crew * c.crewSize + j
    (∀ j, j < c.crewSize → imageOk s dom (c.image (tix j)) (imageSize c.regs c.words) = true
      ∧ headerOk s dom q c (tix j) = true) →
    ((∃ j, j < c.crewSize ∧ gateWaits s (hwWho dom 0) (c.image (tix j)) 64 = true) →
      ∃ t, exec (.teamPlacement launch crew cl cores) s = .next t ∧ t.team = s.team ∧ t.others = s.others ∧ t.sched = s.sched
        ∧ t.tiles = s.tiles ∧ SameMemory s t)
    ∧ ((∀ j, j < c.crewSize → gateWaits s (hwWho dom 0) (c.image (tix j)) 64 = false) →
    ∃ t, exec (.teamPlacement launch crew cl cores) s = .next t
      ∧ (∀ j, j < c.crewSize → ∃ y, y ∈ t.team :: t.others
          ∧ y.pc = BitVec.ofNat 64 (field c.bytes 0x38 8) ∧ y.lane = {} ∧ y.ord = {}
          ∧ y.place.run = 1 ∧ y.place.cluster = cl ∧ y.place.core = cores.getD (j % c.crewCores) 0
          ∧ y.card.handle = c.image (tix j) ∧ y.card.fault = field c.bytes 0x50 8 + 4096 * tix j ∧ y.card.asid = q.asid
          ∧ y.card.launch = c.level ∧ y.card.tix = tix j ∧ y.card.tcount = c.teams ∧ y.card.crew = c.crewSize
          ∧ y.card.v = c.regs ∧ y.card.w = c.words ∧ (y.card.lbase, y.card.lcount) = c.window
          ∧ (∀ r, sget 0 y.regs.s r = if r = 94 then BitVec.ofNat 64 (slotVa q c.id.slot) else 0)
          ∧ (∀ l, y.regs.mask.getLsbD l = decide (l < 32 * c.words))
          ∧ y.regs = { s := y.regs.s, mask := y.regs.mask }
          ∧ y.sys.tvec = BitVec.ofNat 64 (field c.bytes 0x58 8 / 4 * 4) ∧ y.sys.handler = false ∧ y.sys.resumes = 0
          ∧ (s.memOk → placeOf s (hwWho dom 0) (c.image (tix j) + 4) ≠ .absent → hwRead t dom 0 (c.image (tix j) + 4) 1 = [1]))
      ∧ (∀ j i, j < c.crewCores → j < c.crewSize → i < c.window.2 →
          sget {} t.tiles ((cl * 16 + cores.getD j 0) * 64 + c.window.1 + i) = {})
      ∧ (∀ a, (∀ j i, j < c.crewCores → i < 4096 * c.window.2 → a ≠ lmAddr (cl * 16 + cores.getD j 0) (4096 * c.window.1) + i) →
          byteAt t.lm a = byteAt s.lm a)
      ∧ t.sched = { s.sched with
          cards := s.sched.cards.map fun x => if x.id = c.id then { x with crews := x.crews ++ [crew] } else x }
      ∧ (∀ z, z ∈ s.team :: s.others → 1 ≤ z.place.run → z.place.run ≤ 3 → z ∈ t.team :: t.others)
      ∧ (s.memOk → ∀ w' a, (∀ j, j < c.crewSize → placeOf s w' a ≠ placeOf s (hwWho dom 0) (c.image (tix j) + 4)) →
          readByte t w' a = readByte s w' a))

/-- The end of a slice (R42, R39, R366): an expiry that meets a stop is void and shows in its cause; a team whose level is cancelling is
removed; a crew that another waits for is saved as it stands; and else the team keeps its core. No slice ends where the core's clocks are stopped
(R438). -/
def Claims.SliceExpiry : Prop :=
  ∀ (s : State) (h : Nat) (x : Team), teamOf s h = some x → x.place.run = 1 → x.ord.leave = none →
    (midWord s h = true ∨ clocked s (coreOf x) = false → exec (.timeSliceExpiry h) s = .next s)
    ∧ (midWord s h = false → clocked s (coreOf x) = true →
      (cancelling s x = true →
        ∃ t, exec (.timeSliceExpiry h) s = .next t ∧ t.team.card = x.card ∧ t.team.place = { x.place with run := 5 }
          ∧ t.team.regs = x.regs ∧ t.team.lane = {} ∧ h ∈ t.sched.ended)
      ∧ (cancelling s x = false →
          (x.ord.stops ≠ [] ∨ x.ord.haltReq = true ∨ ∃ va, x.ord.load = some va ∧ gateAt s (whoOf s x) va = .absent) →
        ∃ t, exec (.timeSliceExpiry h) s = .next t ∧ t.team = { x with ord := { x.ord with expired := true } }
          ∧ t.others = (focus s h).others)
      ∧ (cancelling s x = false → x.ord.stops = [] → x.ord.haltReq = false → x.ord.load = none →
        (waitedFor (focus s h) x = false → exec (.timeSliceExpiry h) s = .next (focus s h) ∧ (focus s h).team = x)
        ∧ (waitedFor (focus s h) x = true → crewOf (focus s h) x = [h] → (∀ k, k ∈ s.eng.tasks → k.team ≠ h) →
          ∃ t y, exec (.timeSliceExpiry h) s = .next t ∧ teamOf t h = some y
            ∧ y = { x with
                place := { x.place with run := 2, savedAt := s.fresh }, ord := { x.ord with stepped := false, closing := none } }
            ∧ t.lm = s.lm ∧ t.sb = s.sb ∧ t.sched = s.sched ∧ t.cores = s.cores
            ∧ ∀ k z, k ≠ h → teamOf s k = some z → 1 ≤ z.place.run → z.place.run ≤ 3 → teamOf t k = some z)))

/-- R30, R340, R367: a crew told to leave its partitions leaves them only once no team of it has accesses under way, and then all of its
teams leave in the same step. -/
def Claims.CrewsLeaveTogether : Prop :=
  ∀ (s : State) (h : Nat) (x : Team), teamOf s h = some x → x.ord.leave ≠ none →
    ((∃ k, k ∈ crewOf s x ∧ midWord s k = true) → settleLeave s h = s)
    ∧ ((∀ k, k ∈ crewOf s x → midWord s k = false) → (∀ k, k ∈ crewOf s x → ∃ y, teamOf s k = some y ∧ y.ord.leave ≠ none) →
      (crewOf s x).Nodup →
      ∀ k, k ∈ crewOf s x → ∃ y z, teamOf s k = some y ∧ teamOf (settleLeave s h) k = some z ∧ z.ord.leave = none
        ∧ z.pc = y.pc ∧ z.regs = y.regs ∧ z.sys = y.sys ∧ z.lane = y.lane ∧ z.card = y.card
        ∧ (y.ord.leave = some .preempt → z.place.run = 2) ∧ (∀ c, y.ord.leave = some (.halt c) → z.place.run = 3 ∧ z.place.halt = c))

/-- Resumption (R30, R340, R386): a saved crew that can be resumed is resident again with every register as it was saved, and RESUMES
has risen by one. -/
def Claims.TeamsAreResumed : Prop :=
  ∀ (s : State) (h part : Nat) (x : Team), teamOf s h = some x → x.place.run = 2 → part < 6 →
    partLoad (liveTeams s) x.place.cluster x.place.core part < 8 → crewResumes s x = true → savedBefore s x = false →
    newBefore s x = false → (∀ y, y ∈ s.team :: s.others → y.ord.kept = []) →
    ∃ t, exec (.teamResumption h part) s = .next t
      ∧ teamOf t h = some { x with
          place := { x.place with run := 1, part := part, spared := false }, sys := { x.sys with resumes := x.sys.resumes + 1 }
          ord := { x.ord with stepped := false } }
      ∧ (∀ k z, k ∈ crewOf s x → k ≠ h → teamOf s k = some z →
          ∃ y, teamOf t k = some y ∧ y.place.run = 1 ∧ y.pc = z.pc ∧ y.regs = z.regs ∧ y.lane = z.lane ∧ y.card = z.card)
      ∧ (∀ k, k ∉ crewOf s x → teamOf t k = teamOf s k) ∧ t.lm = s.lm ∧ t.sb = s.sb ∧ t.sched = s.sched

/-- Retirement (R28, R36, R37): a team that is ending, with nothing left to wait for, has retired; its launch counts it done, and
completes when it was the last. -/
def Claims.TeamsRetire : Prop :=
  ∀ (s : State) (h : Nat) (x : Team), teamOf s h = some x → x.place.run = 1 → x.ord.ending = true → x.ord.stops = [] →
    x.ord.leave = none → (∀ c, c ∈ s.fab.copies → c.holder = 64 + coreOf x → (c.st = .M ∨ c.st = .O) →
      whereIs s (teamDomain s x) c.asid c.sec ≠ .absent) →
    x.lane.queue = [] → (∀ k, k ∈ s.eng.copies → k.team ≠ h) → (∀ k, k ∈ s.eng.tasks → k.team ≠ h) →
    (∀ e, e ∈ s.sb → e.team ≠ h) → s.link.groups.all (fun r => !groupOwes r h) = true →
    ∃ t, exec (.teamRetirement h) s = .next t ∧ t.team.card = x.card ∧ t.team.place = { x.place with run := 4 }
      ∧ t.team.regs = x.regs ∧ t.team.pc = x.pc ∧ t.team.ord.bindings = [] ∧ h ∈ t.sched.ended ∧ t.lm = s.lm ∧ t.sb = s.sb
      ∧ (∀ k z, k ≠ h → teamOf s k = some z → 1 ≤ z.place.run → z.place.run ≤ 3 → teamOf t k = some z)
      ∧ ∀ l, levelRec s x.card.launch = some l →
          (l.state = 0 → l.done + 1 < l.total → levelRec t l.id = some { l with done := l.done + 1 })
          ∧ (l.state ≤ 1 → l.done + 1 = l.total → levelsRise s = true →
              levelRec t l.id = some { l with done := l.done + 1, state := 2 })

/-- The life of a team (R28, R30, R36, R37, R39, R42, R340, R366, R367, R386). -/
def Obligations.TeamLifecycle : Prop :=
  Claims.SliceExpiry ∧ Claims.CrewsLeaveTogether ∧ Claims.TeamsAreResumed ∧ Claims.TeamsRetire

/-- CARD_FETCH (R375, R376, R379): the slot at the head is taken once its lap is written, as a card of its job or as a refusal that the
queue's status counts; a slot not written yet is left, and one that cannot be read stops the queue. A node that was filled before, and a
second header of a graph, are counted and dropped. -/
def Claims.CardsAreFetched : Prop :=
  ∀ (s : State) (qid : QueueId) (q : Queue) (j : Level) (bs : List Byte), queueOf s qid = some q → q.status < 2 → q.kind ≠ 2 →
    (∀ x, q.sealat = some x → q.head < x) → openCards s qid < 1024 → s.fw.lev.state = 0 →
    let w := queueWho s q
    let line := slotVa q q.head / 256 * 256
    let c : Card := { id := { queue := qid, slot := q.head }, job := q.job, bytes := bs }
    ((rangeTrap s w line 256 .r).isSome = true ∨ present s w line 256 = false →
      ∃ t, exec (.cardFetch qid) s = .next t ∧ queueOf t qid = some { q with status := 2, faultva := slotVa q q.head }
        ∧ t = { withBytes s t with sched := { s.sched with queues := t.sched.queues } } ∧ KeepsBytes s t [blockOf s q])
    ∧ (rangeTrap s w line 256 .r = none → present s w line 256 = true → gateRange s w line 256 = .go →
        bs = readBytes s w (slotVa q q.head) 128 →
      (field bs 0x7C 4 ≠ (q.head / 2 ^ q.k + 1) % 2 ^ 32 → exec (.cardFetch qid) s = .next s)
      ∧ (field bs 0x7C 4 = (q.head / 2 ^ q.k + 1) % 2 ^ 32 → levelRec s q.job = some j → j.state = 0 →
          (∀ code, cardRefusal s q c = some code ∨ cardRefusal s q c = none ∧ cardDropped s c = false ∧ lateRefusal s q c = some code →
            ∃ t, exec (.cardFetch qid) s = .next t
              ∧ queueOf t qid = some { q with head := q.head + 1, code := code, refused := q.refused + 1 }
              ∧ t.sched.cards.map (·.id) = s.sched.cards.map (·.id))
          ∧ (cardRefusal s q c = none → cardDropped s c = true → c.kind = 3 ∨ lateRefusal s q c = none →
            ∃ t, exec (.cardFetch qid) s = .next t
              ∧ queueOf t qid = some { q with head := q.head + 1, code := 10, refused := q.refused + 1 }
              ∧ t = { withBytes s t with sched := { s.sched with queues := t.sched.queues } } ∧ KeepsBytes s t [blockOf s q])
          ∧ (cardRefusal s q c = none → cardDropped s c = false → c.kind < 2 →
            ∃ t, exec (.cardFetch qid) s = .next t ∧ queueOf t qid = some { q with head := q.head + 1 }
              ∧ CardsAre (s.sched.cards ++ [c]) s.fresh t.sched.cards
              ∧ t = { withBytes s t with sched := { s.sched with queues := t.sched.queues, cards := t.sched.cards } }
              ∧ KeepsBytes s t [blockOf s q])))

/-- GRAPH_OPEN (R382): the graph opens when its phase is its job's current one and the graphs of lower number have completed, one
graph of a phase at a time. Which phase counts as current while headers are still to come, and that a graph waits for one of a lower number
whose cards have come without their header, is the model's choice (assumption log 36). -/
def Claims.GraphsOpen : Prop :=
  ∀ (s : State) (job graph : Nat) (g p j : Level), graphLevel s job graph = some g → levelRec s g.parent = some p →
    levelRec s p.parent = some j → g.state = 0 → g.opened = false → p.state = 0 → j.state = 0 →
    (∀ y, y ∈ s.sched.levels → y.kind = 2 → y.parent = p.parent → y.number < p.number → y.state = 2) →
    let mate (l : Level) : Prop := l ∈ s.sched.levels ∧ l.kind = 1 ∧ l.parent = p.id ∧ l.id ≠ g.id
    ((∀ l, mate l → (l.number < g.number → l.state = 2) ∧ (g.number ≤ l.number → l.opened = false ∨ 2 ≤ l.state)) →
      earlierGraphDue s job graph = false →
      ∃ t, exec (.graphOpen job graph) s = .next t
        ∧ t.sched = { s.sched with
            levels := s.sched.levels.map (fun x => if x.id = g.id then { g with opened := true } else x), cards := t.sched.cards }
        ∧ CardsAre s.sched.cards s.fresh t.sched.cards
        ∧ (∀ c, c ∈ t.sched.cards → c.job = job → c.graph = graph → c.standing = 0 → c.kind ≠ 3 → c.preds = [] → levelsRise s = true →
            c.readyAt ≠ none)
        ∧ t = { withBytes s t with sched := t.sched } ∧ KeepsBytes s t [counterOf s g])
    ∧ ((∃ l, mate l ∧ ((l.number < g.number ∧ l.state ≠ 2) ∨ (g.number ≤ l.number ∧ l.opened = true ∧ l.state < 2)))
          ∨ earlierGraphDue s job graph = true →
        exec (.graphOpen job graph) s = .next s)

/-- NODE_START (R382 to R384): a node of an open graph whose predecessors have completed starts, its handoff buffers flushed from the
caches of its domain; a launch gets its level, and its teams may be placed. -/
def Claims.NodesStart : Prop :=
  ∀ (s : State) (n : NodeId) (c : Card) (g : Level) (q : Queue), nodeCard s n = some c → graphLevel s n.job n.graph = some g →
    queueOf s c.id.queue = some q → c.standing = 0 → g.state = 0 → g.opened = true →
    (∀ p, p ∈ c.preds → ∃ x, nodeCard s { job := c.job, graph := c.graph, node := p } = some x ∧ x.standing = 2) →
    (∀ b, b ∈ c.handoffs → handoffOk s (queueWho s q) b = true) →
    let flushed (t : State) : Prop := t.team = s.team ∧ t.others = s.others ∧ t.lm = s.lm ∧ t.sb = s.sb
      ∧ ∀ x, x ∈ t.hand → x ∈ s.hand
        ∧ ∀ b, b ∈ c.handoffs → x.cluster ∈ clustersOf s (queueDom s q) → handIn s (queueWho s q) b.1 b.2 x = false
    (c.kind = 0 → c.teams ≠ 0 →
        (∀ i, i < 8 → kindAt s (tagOf q.asid (field c.bytes 0x18 8 + i)) (field c.bytes 0x18 8 + i) ≠ 3) →
      ∃ t l, exec (.nodeStart n) s = .next t ∧ flushed t
        ∧ l = { kind := 0, id := s.sched.nextId, parent := g.id, number := c.node, total := c.teams
                va := field c.bytes 0x18 8, asid := q.asid }
        ∧ t.sched = { s.sched with
            levels := s.sched.levels ++ [l], nextId := s.sched.nextId + 1
            cards := s.sched.cards.map fun x => if x.id = c.id then { x with standing := 1, level := l.id } else x })
    ∧ (c.kind ≠ 0 → (∀ x, x ∈ s.sched.cards → x.id.queue = q.id → x.kind = 2 → operandTable x.opcode ≠ none) →
      ∃ t, exec (.nodeStart n) s = .next t ∧ flushed t
        ∧ t.sched = { s.sched with cards := s.sched.cards.map fun x => if x.id = c.id then { x with standing := 1 } else x })

/-- TILE_TASK_NODE_POSTING (R378): a started tile-task node is posted as its team while that is resident, waits while it is saved or
halted, and fails with a record that breaks a check, where the team is of another job, or where its launch is cancelling or has ended. -/
def Claims.TileTaskNodes : Prop :=
  ∀ (s : State) (n : NodeId) (c : Card) (q : Queue) (x : Team), nodeCard s n = some c → queueOf s c.id.queue = some q →
    c.kind = 1 → c.standing = 1 → (∀ k, k ∈ s.eng.tasks → k.node ≠ some n) → teamOf s (field c.bytes 0x40 8) = some x →
    (x.card.job ≠ c.job ∨ launchStopped s x = true → 1 ≤ x.place.run → x.place.run ≤ 3 →
      ∃ t, exec (.tileTaskNodePosting n) s = .next t ∧ nodeCard t n = some { c with standing := 3 } ∧ t.eng.tasks = s.eng.tasks)
    ∧ (x.card.job = c.job → launchStopped s x = false →
    let va := field c.bytes 0x38 8
    let f := focus s x.card.handle
    let core := coreOf x
    (x.place.run = 2 ∨ x.place.run = 3 → exec (.tileTaskNodePosting n) s = .next s)
    ∧ (x.place.run = 1 → ∀ r, mayAccess f va 64 .rw = true → teamRead f va 64 = .ok r →
      (taskReason r ≠ none →
        ∃ t, exec (.tileTaskNodePosting n) s = .next t ∧ nodeCard t n = some { c with standing := 3 } ∧ t.eng.tasks = s.eng.tasks)
      ∧ (taskReason r = none →
          (∀ x, x ∈ tilesOf (readRanges r) → x ∉ tilesOf (rowRanges r 2)) →
          (∀ y, y ∈ readRanges r ++ rowRanges r 2 → inWindow x y.1 = true ∧ inWindow x (y.1 + y.2 - 1) = true) →
          (∀ y, y ∈ tilesOf (readRanges r) ++ tilesOf (rowRanges r 2) →
            (tileRec s core y).owner = 2 ∧ (tileRec s core y).flip = none ∧ (tileRec s core y).readers ≠ 255) →
          (coreTaskList s core).length < 64 →
          ∃ t k, exec (.tileTaskNodePosting n) s = .next t ∧ t.eng.tasks = s.eng.tasks ++ [k] ∧ k.node = some n ∧ k.recVa = va
            ∧ k.desc = r ∧ k.core = core ∧ k.team = x.card.handle ∧ k.progress = 0 ∧ k.running = false
            ∧ k.reads = tilesOf (readRanges r) ∧ k.writes = tilesOf (rowRanges r 2)
            ∧ (∀ y, y ∈ k.reads → (tileRec t core y).readers = (tileRec s core y).readers + 1)
            ∧ teamOf t x.card.handle = some x ∧ t.lm = s.lm ∧ t.sb = s.sb ∧ t.sched = s.sched)))

/-- QUEUE_DESTROY_COMPLETE (R390): a destroyed queue is gone once its cards are, its job and every level below it have ended, and none of its
cards is open; with a card open, or its job not ended, it stays. -/
def Claims.QueuesEnd : Prop :=
  ∀ (s : State) (qid : QueueId) (q : Queue) (j : Level), queueOf s qid = some q → q.dropping = true → q.status ≠ 3 →
    levelRec s q.job = some j →
    (openCards s qid ≠ 0 ∨ j.state < 2 → exec (.queueDestroyComplete qid) s = .next s)
    ∧ ((∀ y, y ∈ s.sched.levels → Below s.sched.levels q.job y.id → 2 ≤ y.state) → openCards s qid = 0 →
      (3 ≤ j.state ∨ ∃ x, q.sealat = some x ∧ x ≤ q.head) →
    ∃ t, exec (.queueDestroyComplete qid) s = .next t ∧ queueOf t qid = some { q with status := 3 }
      ∧ t = { withBytes s t with sched := { s.sched with queues := t.sched.queues } } ∧ KeepsBytes s t [blockOf s q]
      ∧ (∀ x, x ≠ qid → queueOf t x = queueOf s x))

/-- The graph scheduler (R375, R376, R378, R379, R382 to R384, R390). Which phase is current and
which graph waits is the model's choice (assumption log 36). -/
def Obligations.SchedulerSteps : Prop :=
  Claims.CardsAreFetched ∧ Claims.GraphsOpen ∧ Claims.NodesStart ∧ Claims.TileTaskNodes ∧ Claims.QueuesEnd

/-- The matrix engines (R76, R276 to R278, R282): a task starts once no earlier task of its core conflicts with it and an engine is
free; a step adds the products of one chunk into a 64 × 64 block of C; the last one ends the task, which is over, with its control word
written and its readers gone, once that word is performed (R121); in redundant mode results that differ end it and stop its team. -/
def Obligations.MatrixEngines : Prop :=
  ∀ (s : State) (id : Nat) (k : Task), taskOf s id = some k → clocked s k.core = true →
    let earlier (y : Task) : Prop := y ∈ (coreTaskList s k.core).takeWhile fun y => y.id ≠ id
    let meets (y : Task) : Prop := (∃ x, x ∈ y.writes ∧ (x ∈ k.reads ∨ x ∈ k.writes)) ∨ ∃ x, x ∈ y.reads ∧ x ∈ k.writes
    (k.running = false → k.ended = none → teamRuns s k.team = true →
      busyEngines s k.core + (if redundant k.desc then 2 else 1) ≤ 4 → (∀ y, earlier y → ¬ meets y) →
      ∃ t, exec (.tileTaskStart id) s = .next t ∧ t = { s with eng := { s.eng with tasks := t.eng.tasks } }
        ∧ t.eng.tasks = s.eng.tasks.map fun y => if y.id = id then { y with running := true } else y)
    ∧ ((∃ y, earlier y ∧ meets y) → exec (.tileTaskStart id) s = .next s)
    ∧ (k.running = true → ∀ agree : Bool, redundant k.desc = false ∨ agree = true →
      let nq := chunks k.desc
      let q := k.progress % nq
      let row (m : Nat) : Nat := 64 * (k.progress / nq / outCols k.desc) + m
      let col (n : Nat) : Nat := 64 * (k.progress / nq % outCols k.desc) + n
      let a := operandOf k.desc 0 k.expA
      let b := operandOf k.desc 1 k.expB
      let c := operandOf k.desc 2 0
      let la (m n : Nat) : Nat := lmAddr k.core (operandLa c (row m) 0 (4 * col n))
      let terms := (List.range (min 32 (kExtent k.desc - 32 * q))).map (32 * q + ·)
      let sum (m n : Nat) : Nat :=
        accumulate (if q = 0 ∧ zeroInit k.desc = true then 0 else ofBytes (bytesAt s.lm (la m n) 4))
          (terms.map fun e => ((operandElem s k.core a (row m) e).1, (operandElem s k.core b (col n) e).1))
      (∀ m n m' n', m < 64 → n < 64 → m' < 64 → n' < 64 → ¬ (m = m' ∧ n = n') → la m n + 4 ≤ la m' n' ∨ la m' n' + 4 ≤ la m n) →
      ∃ t, exec (.engineStep id agree) s = .next t
        ∧ (∀ m n, m < 64 → n < 64 → bytesAt t.lm (la m n) 4 = toBytes 4 (sum m n))
        ∧ (∀ x, (∀ m n, m < 64 → n < 64 → ¬ (la m n ≤ x ∧ x < la m n + 4)) → byteAt t.lm x = byteAt s.lm x)
        ∧ (k.progress + 1 ≠ taskSteps k.desc → taskOf t id = some { k with
              progress := k.progress + 1
              ts8 := k.ts8 || stepReserved s k (k.progress / nq / outCols k.desc) (k.progress / nq % outCols k.desc) q }
            ∧ t = { s with lm := t.lm, eng := { s.eng with tasks := t.eng.tasks } })
        ∧ (k.progress + 1 = taskSteps k.desc → k.node = none → k.reads.Nodup → k.recVa % 64 = 0 → s.memOk →
            let w : Who := {
              core := k.core, domain := (clusterRec s (k.core / 16)).domain, asid := k.asid, sup := true, team := k.team }
            gateAt s w k.recVa = .go → kindAt s (tagOf k.asid k.recVa) k.recVa ≠ 2 →
            (∀ e, e ∈ s.sb → e.team ≠ k.team ∧ e.marked = false) → owedBy s k.team = false → coreShare s k.core < 512 →
            (∀ x, teamOf s k.team = some x → x.ord.cover ≤ x.ord.seq + 1) → s.posted = [] →
            (∀ y, y ∈ s.eng.tasks → y.due = [] ∧ y.ended = none) →
            (∀ y, y ∈ t.eng.tasks → y.id ≠ id)
              ∧ (∀ x, x ∈ k.reads → (tileRec t k.core x).readers = (tileRec s k.core x).readers - 1)
              ∧ field (readBytes t w (k.recVa + 0x38) 8) 0 8 = field k.desc 0x38 8 % 2 ^ 44 + (k.progress + 1) % 65536 * 2 ^ 44
                  + (if k.ts8 ∨ stepReserved s k (k.progress / nq / outCols k.desc) (k.progress / nq % outCols k.desc) q = true
                      then 3 else 2) * 2 ^ 60
              ∧ KeepsBytes s t [(w, k.recVa + 0x38, 8)]))
    ∧ (k.running = true → redundant k.desc = true → (s.eng.tasks.map (·.id)).Nodup →
      ∀ x, teamOf s k.team = some x → x.place.run = 1 →
      ∃ t y, exec (.engineStep id false) s = .next t ∧ (∀ z, z ∈ t.eng.tasks → z.id = id → z.running = false ∧ z.ended = some 4)
        ∧ teamOf t k.team = some y
        ∧ (∃ st, st ∈ y.ord.stops ∧ st.cause = 0x15 ∧ st.iva = k.recVa ∧ st.detail = k.progress) ∧ t.lm = s.lm)

/-- The copy engine (R286 to R292): an accepted copy that may run reads its index list in 64 B chunks and then moves one row at a time,
each element's bytes to its place in memory or in local memory; a row that meets a fault pauses the copy and stops its team. -/
def Claims.CopyRows : Prop :=
  ∀ (s : State) (id : Nat) (c : CopyJob) (tm : Template) (src dst : Shape), copyOf s id = some c → copyMayRun s c = true →
    tm = templateOf c.tmpl → src = shapeOf c.src → dst = shapeOf c.dst →
    let w := copyWho s c
    let els := rowOffsets tm c.arg c.index src dst c.row
    let src0 (e : Int × Int) : Nat := toBits 56 (elemByte src.bits src.base e.1)
    let size := src.bits / 8
    let moved (t : State) : Prop := ∃ h ts, copyOf t id = some { c with
      row := c.row + 1, started := true, moved := decide (rowsOf tm dst ≤ c.row + 1), hashed := c.hashed ++ h, tiles := ts }
    let live := els.filter fun e => !skips c tm dst e
    (tm.kind ≠ 0 → c.index.length < tm.icount →
      let k := min (64 / tm.indexBytes) (tm.icount - c.index.length)
      let va := toBits 56 (tm.firstIndex c.arg + (c.index.length * tm.indexBytes : Nat))
      engineMeets s w va (k * tm.indexBytes) .r = .go →
      ∃ t xs, exec (.copyRow id) s = .next t ∧ copyOf t id = some { c with index := c.index ++ xs, started := true }
        ∧ xs.length = k ∧ t = { s with eng := { s.eng with copies := t.eng.copies } }
        ∧ ∀ i, i < k → let v := ofBytes (readBytes s w (va + i * tm.indexBytes) tm.indexBytes)
            xs.getD i 0 = if tm.itype = 0 then sInt 32 v else if tm.itype = 2 then sInt 64 v else (v : Int))
    ∧ (tm.kind = 0 ∨ tm.icount ≤ c.index.length → c.row < rowsOf tm dst → rowInRange tm c.index src dst c.row = true →
        src.bits = dst.bits → src.bits ≠ 4 → src.scaled = false →
      (tm.isLocal = true → s.memOk → (∀ e, e ∈ els → engineMeets s w (src0 e) size .r = .go) →
        let dst0 (e : Int × Int) : Nat := lmAddr c.core (elemByte dst.bits (tm.dla : Int) e.2).toNat
        (∀ e, e ∈ live → sectorOpen s c.core ((elemByte dst.bits (tm.dla : Int) e.2).toNat / 64) = true) →
        live.Pairwise (fun e f => dst0 e + size ≤ dst0 f ∨ dst0 f + size ≤ dst0 e) →
        ∃ t, exec (.copyRow id) s = .next t ∧ moved t
          ∧ (∀ e, e ∈ live → bytesAt t.lm (dst0 e) size = readBytes s w (src0 e) size)
          ∧ (∀ x, (∀ e, e ∈ live → ¬ (dst0 e ≤ x ∧ x < dst0 e + size)) → byteAt t.lm x = byteAt s.lm x)
          ∧ t = { s with lm := t.lm, eng := { s.eng with copies := t.eng.copies } })
      ∧ (tm.isLocal = false → (∀ e, e ∈ els → engineMeets s w (src0 e) size .r = .go) → s.memOk →
        let dst0 (e : Int × Int) : Nat := toBits 56 (elemByte dst.bits dst.base e.2)
        (∀ e, e ∈ els → engineMeets s w (dst0 e) size .w = .go ∧ kindAt s (tagOf w.asid (dst0 e)) (dst0 e) ≠ 2) →
        els.Pairwise (fun e f => ∀ i j, i < size → j < size → placeOf s w (dst0 e + i) ≠ placeOf s w (dst0 f + j)) →
        (∀ e, e ∈ els → ∀ i j, i < size → j < size → i ≠ j → placeOf s w (dst0 e + i) ≠ placeOf s w (dst0 e + j)) →
        (∀ e f, e ∈ els → f ∈ els → ∀ i j, i < size → j < size → placeOf s w (src0 e + i) ≠ placeOf s w (dst0 f + j)) →
        ∃ t, exec (.copyRow id) s = .next t ∧ moved t
          ∧ (∀ e, e ∈ els → readBytes t w (dst0 e) size = readBytes s w (src0 e) size)
          ∧ KeepsBytes s t (els.map fun e => (w, dst0 e, size)) ∧ t.lm = s.lm ∧ t.team = s.team ∧ t.others = s.others))
    ∧ (tm.kind = 0 ∨ tm.icount ≤ c.index.length → c.row < rowsOf tm dst → ∀ x, teamOf s c.team = some x → x.place.run ≤ 3 →
      let stops (va : Nat) : Prop := ∃ t y st, exec (.copyRow id) s = .next t
        ∧ copyOf t id = some { c with paused := true, started := true }
        ∧ teamOf t c.team = some y ∧ st ∈ y.ord.stops ∧ st.cause = 0x14 ∧ st.va = va ∧ st.iva = c.tmplVa ∧ t.lm = s.lm
      (rowInRange tm c.index src dst c.row = true → ∀ va kind,
        rowMeets s c tm src dst els (rowBlocks tm c.arg c.index src dst c.row) = .fault va kind → stops va)
      ∧ (rowInRange tm c.index src dst c.row = false →
        stops (toBits 56 (tm.firstIndex c.arg + ((rowTuples tm c.index dst c.row).2.2 * tm.indexBytes : Nat)))))

/-- The end of a copy (R291, R292): once its writes are performed its digest is checked, its counter is added to, and it leaves its
channel and its batch; where the counter lies in a group window it leaves once the add has been applied; a digest that differs pauses it
and stops its team, but for one that an early flip kept from reading its source (assumption log 95). With its core's clocks stopped no copy ends
(R438). -/
def Claims.CopyCompletion : Prop :=
  ∀ (s : State) (id : Nat) (c : CopyJob) (tm : Template) (src : Shape), copyOf s id = some c → c.moved = true → c.paused = false →
    (clocked s c.core = false → exec (.copyCompletion id) s = .next s) ∧ (clocked s c.core = true →
    tagOwed s id = false → tm = templateOf c.tmpl → src = shapeOf c.src →
    let w := copyWho s c
    let same := readBytes s w src.digest 32 = sha256 c.hashed
    let away := s.eng.copies.filter (·.id ≠ id)
    (c.added = true → s.fw.lev.state = 0 → exec (.copyCompletion id) s = .next { s with eng := { s.eng with copies := away } })
    ∧ (c.added = false → (tm.digested = true → engineMeets s w src.digest 32 .r = .go) →
      (tm.counted = true → engineMeets s w tm.counter 8 .rw = .go) →
      (tm.digested = false ∨ c.unread = true ∨ same →
        (s.fw.lev.state = 0 → tm.counted = false ∨ kindAt s (tagOf w.asid tm.counter) tm.counter ≠ 2 →
          ∃ t, exec (.copyCompletion id) s = .next t ∧ t.eng = { s.eng with copies := away }
            ∧ t = { withBytes s t with eng := t.eng, fab := t.fab }
            ∧ (tm.counted = false → SameMemory s t)
            ∧ (tm.counted = true → tm.counter % 8 = 0 → s.memOk →
                ofBytes (readBytes t w tm.counter 8) = (ofBytes (readBytes s w tm.counter 8) + tm.incr) % 2 ^ 64)
            ∧ KeepsBytes s t [(w, tm.counter, 8)])
        ∧ (tm.counted = true → kindAt s (tagOf w.asid tm.counter) tm.counter = 2 →
          ∀ r, groupOf s (groupAt s (tagOf w.asid tm.counter) tm.counter) = some r →
          ∃ t, exec (.copyCompletion id) s = .next t ∧ copyOf t id = some { c with added := true } ∧ tagOwed t id = true
            ∧ SameMemory s t ∧ t.team = s.team ∧ t.others = s.others))
      ∧ (tm.digested = true → c.unread = false → ¬ same → ∀ x, teamOf s c.team = some x → x.place.run ≤ 3 →
        ∃ t y st, exec (.copyCompletion id) s = .next t ∧ copyOf t id = some { c with paused := true, started := true }
          ∧ teamOf t c.team = some y ∧ st ∈ y.ord.stops ∧ st.cause = 0x14 ∧ st.va = src.digest ∧ st.iva = c.tmplVa)))

/-- Asynchronous copies (R286 to R292). -/
def Obligations.CopyEngine : Prop :=
  Claims.CopyRows ∧ Claims.CopyCompletion

/-- The collective engine (R298, R299, R301 to R303): a rank's next tile is read and sent to the ranks that need it; a tile of a peer
is kept and goes to its place in a local destination; its entry is appended to the arrival queue; and a tile whose collective
is another one than this rank's stops the teams and puts the group in error. In a cluster whose clocks are stopped nothing is read or
appended (R438). -/
def Obligations.CollectiveEngine : Prop :=
  (∀ (s : State) (id : Nat) (c : Coll), collOf s id = some c → clocked s c.core = false →
    exec (.contributionRead id) s = .next s ∧ ∀ slot, s.fw.lev.state = 0 → exec (.arrivalAppend id slot) s = .next s)
  ∧ (∀ (s : State) (id : Nat) (c : Coll) (src : Shape), collOf s id = some c → c.paused = false → c.sent < c.reads → clocked s c.core = true →
    sealed s = false ∨ goesOut s c = false → src = shapeOf c.src →
    let w := collWho s c
    let off (i : Nat) : Int := offsetAt src.strides (tupleOf src.dims (c.sent * c.perTile + i))
    let n := min c.perTile (c.hash.elems - c.sent * c.perTile)
    (∀ i, i < n → engineMeets s w (toBits 56 (elemByte src.bits src.base (off i))) (elemBytes src) .r = .go) →
    let data := packCodes src.bits ((List.range n).map fun i => readElem s w src.bits src.base (off i))
    ∃ t, exec (.contributionRead id) s = .next t
      ∧ t.link.sentTiles = s.link.sentTiles ++ ((collDests c.hash).filter (· ≠ c.rank)).map (fun r =>
          { group := c.group, issue := c.issue, rank := r, slot := c.slot, tile := c.sent, data := data, hash := c.hash })
      ∧ ∀ c1, collOf t id = some c1 → c1.sent = c.sent + 1)
  ∧ (∀ (s : State) (x : CollTile) (c : Coll) (g : Group), c ∈ s.eng.colls → c.group = x.group → c.issue = x.issue → x.hash ≠ c.hash →
    groupOf s x.group = some g → g.state ≠ 1 →
    ∃ t, exec (.collectiveTileReceive x) s = .next t ∧ groupOf t x.group = some { g with state := 1 }
      ∧ (∀ k, k ∈ t.eng.colls → k.group ≠ x.group)
      ∧ ∀ z, teamOf s c.team = some z → ∃ y st, teamOf t c.team = some y ∧ st ∈ y.ord.stops ∧ st.cause = 0x16 ∧ st.iva = c.descVa)
  ∧ (∀ (s : State) (x : CollTile) (c : Coll), s.memOk →
    s.eng.colls.find? (fun c => c.group = x.group && c.issue = x.issue && c.rank = x.rank) = some c → collOf s c.id = some c →
    (∀ k, k ∈ s.eng.colls → k.group = x.group → k.issue = x.issue → x.hash = k.hash) → x.data ≠ [] → (∀ e, e ∈ c.inbox → ¬ (e.1 = x.slot ∧ e.2.1 = x.tile)) →
    ∃ t, exec (.collectiveTileReceive x) s = .next t ∧ t.link.sentTiles = s.link.sentTiles.erase x
        ∧ (∀ c1, collOf t c.id = some c1 → c1.inbox = c.inbox ++ [(x.slot, x.tile, x.data)])
        ∧ let d := collDesc c.desc
          let la := d.dst + x.slot * d.dstride + 4096 * x.tile
          let width := widthOf c.hash.fmt
          let n := min c.perTile (c.slotSize - x.tile * c.perTile)
          (c.paused = false → c.hash.kind = 0 → c.writes = true → d.isLocal = true → c.done = false →
            slotReady s c = none → x.slot ≠ c.slot →
            tilesWritten c c.slot = c.slotTiles → x.tile = tilesWritten c x.slot → 0 < n →
            (∀ e, e ∈ c.inbox → e.1 ≠ c.slot →
              e.2.1 ≠ tilesWritten c e.1 ∧ ¬ (e.1 = x.slot ∧ e.2.1 = x.tile + 1)) →
            (∀ k, k ∈ rangeTiles [(la, packedBytes width n)] →
              k ∉ c.closed ∧ (tileRec s c.core k).owner = 3 ∧ (tileRec s c.core k).readers = 0) →
            (∀ i, i < n → packedCode width (lmBytes t c.core la (packedBytes width n)) i = packedCode width x.data i)
              ∧ ∀ y, ¬ (lmAddr c.core la ≤ y ∧ y < lmAddr c.core la + packedBytes width n) → byteAt t.lm y = byteAt s.lm y))
  ∧ ∀ (s : State) (id slot tile la : Nat) (c : Coll) (d : CollDesc) (q : QHeader), s.memOk → collOf s id = some c → c.paused = false →
    d = collDesc c.desc → d.queued = true → (c.written.filter (!c.appended.contains ·)).head? = some (slot, tile) → s.fw.lev.state = 0 →
    clocked s c.core = true →
    nextOut c = none → q = qheader s c.core d.queue → q.ok = true → q.used < 2 ^ q.lcap →
    la = d.queue + 16 + 8 * (q.tail % 2 ^ q.lcap) → (tileRec s c.core (d.queue / 4096)).owner = 0 →
    (tileRec s c.core (la / 4096)).owner = 0 →
    ∃ t, exec (.arrivalAppend id slot) s = .next t
      ∧ lmBytes t c.core la 8
          = toBytes 8 (slot % 1024 * 2 ^ 54 + tile % 4096 * 2 ^ 42 + (d.dst + slot * d.dstride + 4096 * tile) % 2 ^ 18)
      ∧ (qheader t c.core d.queue).tail = (q.tail + 1) % 2 ^ 32 ∧ (qheader t c.core d.queue).head = q.head
      ∧ (∀ x, ¬ (lmAddr c.core la ≤ x ∧ x < lmAddr c.core la + 8) →
          ¬ (lmAddr c.core d.queue + 4 ≤ x ∧ x < lmAddr c.core d.queue + 8) → byteAt t.lm x = byteAt s.lm x)
      ∧ ∀ c1, collOf t id = some c1 → c1.appended = c.appended ++ [(slot, tile)]

/-- The root of a group (R304, R305, R409, R410): the next request of a source gets the next stamp, one that comes early is held, one
that has a stamp is answered with it again, and at another member a request climbs to the parent. -/
def Claims.GroupStamps : Prop :=
  ∀ (s : State) (q : GroupReq) (r : Group), groupOf s q.group = some r → (q.src = s.link.moduleId → q ∈ s.link.requests) →
    let x := sourceOf r q.src
    let only (t : State) : Prop := t = { sentAs s t with link := { (sentAs s t).link with
      requests := t.link.requests, replies := t.link.replies, stamped := t.link.stamped, groups := t.link.groups } }
    (r.root ≠ s.link.moduleId → q.src ≠ s.link.moduleId →
      exec (.stamp q) s = .next (transmit { s with link := { s.link with requests := s.link.requests ++ [q] } } r.parent (.request q)))
    ∧ (r.root = s.link.moduleId →
      (q.number = x.high + 1 → r.state = 0 → r.kept.length < 65536 → s.fw.lev.state = 0 →
          (∀ y, y ∈ x.held → y.number ≠ q.number + 1) →
        ∃ t g, exec (.stamp q) s = .next t ∧ only t ∧ groupOf t q.group = some g
          ∧ g = { r with nextStamp := r.nextStamp + 1, kept := r.kept ++ [(r.nextStamp, q)], sources := g.sources }
          ∧ (sourceOf g q.src).high = q.number ∧ (q.number, r.nextStamp) ∈ (sourceOf g q.src).window
          ∧ (∀ m, m ≠ q.src → sourceOf g m = sourceOf r m)
          ∧ t.link.requests = s.link.requests.erase q
          ∧ t.link.replies = s.link.replies ++ [(q.src, q.group, q.number, r.nextStamp)]
          ∧ t.link.stamped = s.link.stamped ++ (r.children ++ [s.link.moduleId]).map fun m => (m, r.nextStamp, q))
      ∧ (x.high + 1 < q.number → q.number ≤ x.high + 4096 → (∀ y, y ∈ x.held → y.number ≠ q.number) →
        ∃ t g, exec (.stamp q) s = .next t ∧ only t ∧ groupOf t q.group = some g ∧ g = { r with sources := g.sources }
          ∧ sourceOf g q.src = { x with held := x.held ++ [q] } ∧ t.link.replies = s.link.replies
          ∧ t.link.stamped = s.link.stamped)
      ∧ (q.number ≤ x.high → ∀ st, x.window.find? (·.1 = q.number) = some (q.number, st) →
        exec (.stamp q) s = .next (transmit { s with link := { s.link with
          requests := s.link.requests.erase q, replies := s.link.replies ++ [(q.src, q.group, q.number, st)] } } q.src
          (.reply q.group q.number st))))

/-- What makes group requests reach every member once (R408, R410, R411): a reply ends a request's wait and lets the next one be
numbered; a request without one is sent again, and after 16 times the group is in error; a member's report lets the root forget; and
the root sends again what a member has not reported. -/
def Claims.GroupRecovery : Prop :=
  ∀ (s : State) (n : Nat) (r : Group), groupOf s n = some r →
    (∀ number stamp, (r.root = s.link.moduleId → (s.link.moduleId, n, number, stamp) ∈ s.link.replies) →
      let left := r.outstanding.filter fun x => x.1.number ≠ number
      (r.waiting = [] → ∃ t, exec (.stampReply n number stamp) s = .next t ∧ groupOf t n = some { r with outstanding := left }
        ∧ t = { s with link := { s.link with
            replies := s.link.replies.erase (s.link.moduleId, n, number, stamp), groups := t.link.groups } })
      ∧ ∀ q, r.waiting = [q] → r.state = 0 → left.length < 4096 → sealed s = false →
        ∃ t q1, exec (.stampReply n number stamp) s = .next t ∧ q1 = { q with number := r.nextNumber }
          ∧ groupOf t n = some { r with
              waiting := [], nextNumber := r.nextNumber + 1, outstanding := left ++ [(q1, 0)]
              unapplied := r.unapplied ++ [(q1.number, q1.team)] }
          ∧ t.link.requests = s.link.requests ++ [q1])
    ∧ (∀ number q k, r.outstanding.find? (fun x => x.1.number = number) = some (q, k) → sealed s = false → r.state ≠ 1 →
      (k < 16 → ∃ t, exec (.endToEndResend n number) s = .next t ∧ t.link.requests = s.link.requests ++ [q]
        ∧ groupOf t n = some { r with
            outstanding := r.outstanding.map fun x => if x.1.number = number then (x.1, x.2 + 1) else x }
        ∧ t = { sentAs s t with link := { (sentAs s t).link with requests := t.link.requests, groups := t.link.groups } })
      ∧ (16 ≤ k → ∃ t, exec (.endToEndResend n number) s = .next t ∧ groupOf t n = some { r with state := 1 }
        ∧ ∀ c, c ∈ t.eng.colls → c.group ≠ n))
    ∧ (∀ member applied, r.root = s.link.moduleId → member ≠ s.link.moduleId →
      ∃ t g, exec (.appliedReport n member applied) s = .next t ∧ groupOf t n = some g
        ∧ t = { s with link := { s.link with groups := t.link.groups } }
        ∧ g = { r with reports := g.reports, kept := g.kept } ∧ reportOf g member = (max applied (reportOf r member).1, 0)
        ∧ (∀ m, m ≠ member → reportOf g m = reportOf r m) ∧ (∀ k, k ∈ g.kept → k ∈ r.kept)
        ∧ ∀ k, k ∈ r.kept → reachable s member = true → max applied (reportOf r member).1 < k.1 → k ∈ g.kept)
    ∧ (r.root ≠ s.link.moduleId →
      exec (.appliedReport n s.link.moduleId r.applied) s = .next (transmit
        { s with link := { s.link with groups := s.link.groups.map fun x =>
          if x.number = r.number ∧ x.state ≠ 2 then { r with reports := [(r.root, r.applied, 0)], unread := 0 } else x } }
        r.root (.report r.number r.applied)))
    ∧ (∀ member, r.root = s.link.moduleId → member ∈ groupMembers s r → sealed s = false → r.state ≠ 1 →
      (∃ k, k ∈ r.kept ∧ (reportOf r member).1 < k.1) → (reportOf r member).2 < 16 →
      ∃ t g, exec (.rootResend n member) s = .next t ∧ groupOf t n = some g ∧ g = { r with reports := g.reports }
        ∧ reportOf g member = ((reportOf r member).1, (reportOf r member).2 + 1)
        ∧ t.link.stamped = s.link.stamped ++ (r.kept.filter fun k => (reportOf r member).1 < k.1).map fun k => (member, k.1, k.2))

/-- Requests of a group (R304, R305, R408 to R411). -/
def Obligations.GroupRequests : Prop :=
  Claims.GroupStamps ∧ Claims.GroupRecovery

/-- A stamped request at a member (R172, R304, R305, R401, R411): the next stamp is applied to the local replica as one step and goes on
to the children, a store of this module has then been performed and leaves its team's buffer, the value that an atomic read goes to the
first of the team's atomics under way in the group that has none, an early one is held, and any other is dropped. A member reports to the root
after every 64 (R411). -/
def Obligations.StampedRequests : Prop :=
  ∀ (s : State) (stamp : Nat) (q : GroupReq) (r : Group), groupOf s q.group = some r →
    (r.root = s.link.moduleId → (s.link.moduleId, stamp, q) ∈ s.link.stamped) →
    let erased := s.link.stamped.erase (s.link.moduleId, stamp, q)
    let reports : Bool := decide (r.root ≠ s.link.moduleId) && decide (63 ≤ r.unread)
    let r1 (g : Group) : Group := { r with
      applied := stamp, unread := if reports then 0 else r.unread + 1, reports := if reports then [(r.root, stamp, 0)] else r.reports
      kept := g.kept
      unapplied := if q.src = s.link.moduleId then r.unapplied.filter fun x => x.1 ≠ q.number else r.unapplied }
    let after (t : State) : Prop := (∃ g, groupOf t q.group = some g ∧ g = r1 g)
      ∧ (r.root ≠ s.link.moduleId → t.link.stamped = erased ++ r.children.map fun m => (m, stamp, q))
      ∧ t.lm = s.lm
    (stamp = r.applied + 1 → (∀ e, e ∈ r.early → e.1 ≠ stamp + 1) → s.memOk → (∀ e, e ∈ s.sb → e.marked = false) → s.posted = [] →
      (∀ bytes, q.op = .store bytes →
        (∀ b, b ∈ bytes → placeOf s (windowWho s r b.1) b.1 ≠ .absent) →
        bytes.Pairwise (fun b c => placeOf s (windowWho s r b.1) b.1 ≠ placeOf s (windowWho s r c.1) c.1) →
        ∃ t, exec (.stampedRequestApply stamp q) s = .next t ∧ after t ∧ t.team = s.team ∧ t.others = s.others
          ∧ (∀ b, b ∈ bytes → readByte t (windowWho s r b.1) b.1 = b.2)
          ∧ (let mine (e : SbEntry) : Prop := q.src = s.link.moduleId ∧ e.sent = true ∧ e.team = q.team ∧ e.asid = q.asid
                ∧ (e.bytes.map fun b => (e.sector + b.1, b.2)) = bytes
             ((∀ e, e ∈ s.sb → ¬ mine e) → t.sb = s.sb)
              ∧ ∀ before e rest, s.sb = before ++ e :: rest → (∀ x, x ∈ before → ¬ mine x) → mine e → t.sb = before ++ rest)
          ∧ KeepsBytes s t (bytes.map fun b => (windowWho s r b.1, b.1, 1)))
      ∧ ∀ va aop kind opnd cmp n, q.op = .atomic va aop kind opnd cmp → n = (kindOfCode kind).bytes → va % n = 0 →
        opnd.toNat < 256 ^ n → cmp.toNat < 256 ^ n → s.fw.lev.state = 0 → placeOf s (windowWho s r va) va ≠ .absent →
        let w := windowWho s r va
        let old := ofBytes (readBytes s w va n)
        ∃ t, exec (.stampedRequestApply stamp q) s = .next t ∧ after t
          ∧ (match amoNumber (kindOfCode kind) aop.toNat old opnd.toNat cmp.toNat with
             | some x => readBytes t w va n = toBytes n x ∧ KeepsBytes s t [(w, va, n)]
             | none => KeepsBytes s t [])
          ∧ (q.src = s.link.moduleId → ∀ x before a rest, teamOf s q.team = some x → x.ord.atoms = before ++ a :: rest →
              (∀ y, y ∈ before → ¬ (y.group = q.group ∧ y.value = none)) → a.group = q.group → a.value = none →
              teamOf t q.team = some { x with
                ord := { x.ord with atoms := before ++ { a with value := some (BitVec.ofNat 64 old) } :: rest } })
          ∧ t.sb = s.sb
          ∧ ∀ k, k ≠ q.team → teamOf t k = teamOf s k)
    ∧ (r.applied + 1 < stamp → stamp ≤ r.applied + 4096 → (∀ e, e ∈ r.early → e.1 ≠ stamp) →
      ∃ t, exec (.stampedRequestApply stamp q) s = .next t ∧ groupOf t q.group = some { r with early := r.early ++ [(stamp, q)] }
        ∧ t = { s with link := { s.link with stamped := erased, groups := t.link.groups } })
    ∧ (stamp ≤ r.applied → exec (.stampedRequestApply stamp q) s = .next { s with link := { s.link with stamped := erased } })

/-- The coherence messages that move no value (R97, R116, R351, R392 to R396, R421), of a cluster's slice or of a core's stash: the MOESI
state of every holder of a sector and its home bits after each message, by their states before it; O and M data are on their way home
where the table sends them; a request's data is due under its tag from the cluster whose mark withholds the sector, else from the holder of E, O or M,
else from the home; and no other sector and no value changes. A slice that has no room left for the line evicts another one first (R13), the
line itself where it can keep no other; a slice asks for nothing that a stash of its cluster holds; and a home's message that meets a release-pending
sector does nothing yet. What RC's flag does to a frame's name is the model's choice (assumption log 113). -/
def Claims.CoherenceMessages : Prop :=
  ∀ (s : State) (m : BusMsg) (sec : Nat), msgTaken s m = true → snooped (kindAt s m.asid m.va) = true → m.cluster < 64 → msgSecs m = [sec] →
    (s.fab.copies.map fun c => (c.holder, c.asid, c.sec)).Nodup →
    let holder := match m.stash with | some core => 64 + core | none => m.cluster
    let was (h : Nat) : Moesi := copyState s h m.asid sec
    let me := was holder
    let slice := was m.cluster
    let victim := if m.stash = none then slotVictim s m.cluster (m.asid, m.va / 256) else none
    let bits := homeBits s m.asid sec
    let marks (e : SbEntry) : Prop := e ∈ s.sb ∧ e.marked = true ∧ e.asid = m.asid ∧ e.sector = sec ∧ e.core / 16 ≠ m.cluster
    let asked (t : State) : Prop := ∃ d, t.fab.due = s.fab.due ++ [d] ∧ d.holder = holder ∧ d.asid = m.asid ∧ d.sec = sec ∧ d.tag = m.tag
      ∧ ((∃ e, marks e) → ∃ e, marks e ∧ d.supplier = some (e.core / 16))
      ∧ ((∀ e, ¬ marks e) →
          (∀ h, d.supplier = some h → h ≠ holder ∧ (was h = .E ∨ was h = .O ∨ was h = .M))
          ∧ (d.supplier = none → ∀ h, h ≠ holder → was h = .I ∨ was h = .S))
    let becomes (i : Instr) (st : Nat → Moesi) (owner shared data asks unnames : Bool) : Prop :=
      ∃ t, exec i s = .next t ∧ (∀ h, copyState t h m.asid sec = st h) ∧ homeBits t m.asid sec = (owner, shared)
        ∧ (∀ h a x, (a, x) ≠ (m.asid, sec) → copyState t h a x = copyState s h a x)
        ∧ (∀ a x, (a, x) ≠ (m.asid, sec) → homeBits t a x = homeBits s a x)
        ∧ (∀ e, e ∈ t.fab.evicts ↔ e ∈ s.fab.evicts ∨ (data = true ∧ e = (m.asid, sec)))
        ∧ (if asks then asked t else t.fab.due = s.fab.due)
        ∧ t = { s with fab := t.fab, xl := { s.xl with unnamed := t.xl.unnamed } } ∧ SameMemory s t
        ∧ ∀ x, x ∈ t.xl.unnamed ↔ x ∈ s.xl.unnamed ∨ (unnames = true ∧ ∃ p, homePlace s m.asid sec = .dram p ∧ x = p / 4096)
    let at_ (x : Moesi) (rest : Nat → Moesi) : Nat → Moesi := fun h => if h = holder then x else rest h
    let dirty : Prop := ∃ h, was h = .M ∨ was h = .O
    let served : Prop := m.stash = none → stashHolder s m.cluster m.asid sec = none
    (me ≠ .I → exec (.rd m) s = .next s)
    ∧ (¬ served → me ≠ .E → me ≠ .M → (me = .I → exec (.rd m) s = .next s ∧ exec (.up m) s = .next s) ∧ exec (.ro m) s = .next s)
    ∧ (served → me = .I → victim = none → bits = (false, false) → becomes (.rd m) (at_ .E was) true false false true false)
    ∧ (served → me = .I → victim = none → bits ≠ (false, false) →
        let pair : Bool := decide (m.stash ≠ none) && (decide (slice = .M) || decide (slice = .O))
        becomes (.rd m) (at_ .S fun h =>
            if m.stash ≠ none ∧ h = m.cluster then .I else match was h with | .M => .O | .E => .S | x => x)
          (bits.1 && !pair && !s.fab.copies.any fun c => c.asid = m.asid && c.sec = sec && c.st = .E) true pair true false)
    ∧ (∀ i, i = .ro m ∨ i = .up m →
        (me = .E ∨ me = .M → exec i s = .next s)
        ∧ (served → me ≠ .E → me ≠ .M → victim = none →
            becomes i (at_ .M fun _ => .I) true false false (decide (i = .ro m) || decide (me = .I)) false))
    ∧ (∀ i v, i = .rd m ∨ i = .ro m ∨ i = .up m → served → me = .I → victim = some v →
        ∃ t, exec i s = .next t ∧ (∀ k, k < 4 → copyState t m.cluster v.1 (256 * v.2 + 64 * k) = .I)
          ∧ (v ≠ (m.asid, m.va / 256) → copyState t holder m.asid sec ≠ .I) ∧ t = { s with fab := t.fab } ∧ SameMemory s t)
    ∧ (me = .I → ∃ t, exec (.ev m) s = .next t ∧ t = { s with fab := { s.fab with l1 := t.fab.l1 } })
    ∧ (me = .S → becomes (.ev m) (at_ .I was) bits.1 bits.2 false false false)
    ∧ (me = .E → becomes (.ev m) (at_ .I was) false bits.2 false false false)
    ∧ (me = .O ∨ me = .M → becomes (.ev m) (at_ .I was) false bits.2 true false false)
    ∧ (markedSector s m.asid sec = true → exec (.rc m) s = .next s ∧ exec (.hw m) s = .next s ∧ exec (.hr m) s = .next s
        ∧ exec (.dc m) s = .next s)
    ∧ (markedSector s m.asid sec = false → ∀ data : Bool, (data = true ↔ dirty) →
        becomes (.rc m) (fun _ => .I) false bits.2 data false m.flag ∧ becomes (.hw m) (fun _ => .I) false false data false false
          ∧ becomes (.hr m) (fun h => if was h = .I then .I else .S) false true data false false)

/-- The sector mask of a message (R393): a message acts on the sectors that it names in their order, as the messages of its parts would in turn. -/
def Claims.SectorMasks : Prop :=
  ∀ (s : State) (m : BusMsg) (f : BusMsg → Instr) (a b : BitVec 4), f ∈ [Instr.rd, .ro, .up, .ev, .rc, .dc, .hr, .hw] → m.sectors = a ||| b →
    (∀ i j, a.getLsbD i = true → b.getLsbD j = true → i < j) →
    ∃ t, exec (f { m with sectors := a }) s = .next t ∧ exec (f m) s = exec (f { m with sectors := b }) t

/-- The messages that carry or drop values (R91, R358, R395, R397, R398): a discard leaves every byte of the sector a free value; an update
and an update atomic act at every replica of a broadcast window; data that is due arrives once its supplier may send it, and a write-back at its
home, in a far page through the adapter (R417, R419); and a handoff sector that leaves a cluster is written to its DRAM when it is modified. -/
def Claims.DataMessages : Prop :=
  ∀ (s : State) (m : BusMsg) (sec : Nat), msgSecs m = [sec] →
    let w : Who := { hwWho (clusterRec s m.cluster).domain m.asid with core := m.cluster * 16 }
    let holder := match m.stash with | some core => 64 + core | none => m.cluster
    (msgTaken s m = true → snooped (kindAt s m.asid m.va) = true → markedSector s m.asid sec = false →
      (∀ e, e ∈ s.sb → e.held = false) →
      tagOf m.asid sec = m.asid → placeOf s (hwWho (clusterRec s m.cluster).domain m.asid) sec ≠ .absent →
      let v := hwWho (clusterRec s m.cluster).domain m.asid
      ∃ t, exec (.dc m) s = .next t ∧ (∀ i, i < 64 → ∃ k, readByte t v (sec + i) = Config.freeByte k)
        ∧ (∀ h, copyState t h m.asid sec = .I) ∧ homeBits t m.asid sec = (false, false) ∧ KeepsBytes s t [(v, sec, 64)]
        ∧ t.team = s.team ∧ t.others = s.others ∧ t.lm = s.lm ∧ t.sb = s.sb)
    ∧ (msgTaken s m = true → kindAt s m.asid m.va = 1 → s.memOk → ∀ upd : List (Nat × Byte),
      (∀ b, b ∈ upd → b.1 < 256 ∧ placeOf s w (m.va / 256 * 256 + b.1) ≠ .absent) → (upd.map (·.1)).Nodup →
      ∃ t, exec (.uh m upd) s = .next t ∧ (∀ b, b ∈ upd → readByte t w (m.va / 256 * 256 + b.1) = b.2)
        ∧ t = withBytes s t ∧ KeepsBytes s t (upd.map fun b => (w, m.va / 256 * 256 + b.1, 1)))
    ∧ (msgTaken s m = true → kindAt s m.asid m.va = 1 → s.memOk → ∀ (a : UpdAtomic) (n va : Nat),
      n = (if a.wide ∧ a.f32 = false then 8 else 4) → a.off % n = 0 → a.off < 256 → va = m.va / 256 * 256 + a.off →
      a.operand.toNat < 256 ^ n → a.compare.toNat < 256 ^ n → placeOf s w va ≠ .absent →
      ∃ t k, exec (.ua m a) s = .next t ∧ t = { withBytes s t with fab := t.fab }
        ∧ (k = if a.f32 then .f32 else if a.wide then (if k = .z64 then .z64 else .w64) else (if k = .z32 then .z32 else .s32))
        ∧ match amoNumber k a.aop.toNat (ofBytes (readBytes s w va n)) a.operand.toNat a.compare.toNat with
          | some x => readBytes t w va n = toBytes n x ∧ KeepsBytes s t [(w, va, n)]
          | none => KeepsBytes s t [])
    ∧ (let waits (d : DataDue) : Prop := d.holder = holder ∧ d.asid = m.asid ∧ d.sec = sec ∧ d.tag = m.tag
       ((∀ d, d ∈ s.fab.due → ¬ waits d) → exec (.dataSupply m) s = .next s)
       ∧ ∀ before d after, s.fab.due = before ++ d :: after → (∀ x, x ∈ before → ¬ waits x) → waits d →
          let withheld : Prop := ∃ e, e ∈ s.sb ∧ e.marked = true ∧ e.asid = m.asid ∧ e.sector = sec
            ∧ e.core / 16 ≠ (match m.stash with | some core => core / 16 | none => m.cluster)
          let lacks (h : Nat) : Prop := (∃ x, x ∈ before ∧ x.holder = h ∧ x.asid = m.asid ∧ x.sec = sec)
            ∨ ∃ e, e ∈ s.sb ∧ e.asid = m.asid ∧ e.sector = sec ∧ e.covers = 0 ∧ e.held = false ∧ e.sent = false
              ∧ (if 64 ≤ h then e.core = h - 64 else e.core / 16 = h)
          let may : Prop := ¬ withheld ∧ (d.supplier = none → (m.asid, sec) ∉ s.fab.evicts) ∧ ∀ h, d.supplier = some h → ¬ lacks h
          (m.stash = none → m.cluster < 64) →
          (may → exec (.dataSupply m) s = .next { s with fab := { s.fab with due := before ++ after } })
          ∧ (¬ may → exec (.dataSupply m) s = .next s))
    ∧ (kindAt s m.asid m.va = 3 → s.memOk → ∀ p c, whereIs s (clusterRec s m.cluster).domain m.asid sec = .dram p →
      handCopy s m.cluster (p / 64 * 64) = some c →
      ∃ t, exec (.ev m) s = .next t ∧ handCopy t m.cluster (p / 64 * 64) = none
        ∧ (∀ h x, (h, x) ≠ (m.cluster, p / 64 * 64) → handCopy t h x = handCopy s h x)
        ∧ (c.dirty = true → bytesAt t.mem (p / 64 * 64) 64 = c.bytes
            ∧ ∀ x, x / 64 ≠ p / 64 → byteAt t.mem x = byteAt s.mem x)
        ∧ (c.dirty = false → t.mem = s.mem) ∧ t = { s with mem := t.mem, hand := t.hand })
    ∧ ((m.asid, sec) ∉ s.fab.evicts → exec (.evictionWriteBack m) s = exec .hostBiasFlip s)
    ∧ ((m.asid, sec) ∈ s.fab.evicts → (m.stash = none ∨ whereIs s (clusterRec s m.cluster).domain m.asid sec ≠ .absent) →
      ∃ t, exec (.evictionWriteBack m) s = exec .hostBiasFlip t
        ∧ t = { sentAs s t with
            fab := { s.fab with evicts := s.fab.evicts.filter (· ≠ (m.asid, sec)) }, hostp := { s.hostp with farOut := t.hostp.farOut } }
        ∧ (dirtyCopy s m.asid sec = false → ∀ i, i < 64 → homeByte t m.asid (sec + i) = byteIn s (homePlace s m.asid (sec + i)))
        ∧ (∀ a y, homePlace s m.asid sec = .far a y → ∃ r, t.hostp.farOut = s.hostp.farOut ++ [r] ∧ r.adapter = a % 4
            ∧ r.op = (if a < 4 then .dirtyEvict else .memWr) ∧ r.addr = y / 64 * 64
            ∧ r.data = (List.range 64).map fun i => byteAt s.hostp.far (farKey a (y / 64 * 64) + i)))

/-- Region walks (R345): the table controller's entry goes to the core, which keeps a valid one. -/
def Claims.RegionWalks : Prop :=
  ∀ s : State,
    (∀ core asid rn, ∃ t, exec (.walkRequest core asid rn) s = .next t ∧ t = { s with xl := { s.xl with walks := t.xl.walks } }
      ∧ t.xl.walks = s.xl.walks
          ++ [{ core := core, asid := asid, rn := rn, entry := sget 0 s.xl.regions (asid * 2 ^ 35 + rn) }])
    ∧ ∀ c rest, s.xl.walks = c :: rest →
      (eValid c.entry.toNat = true →
        ∃ t, exec .walkReply s = .next t ∧ t = { s with xl := { s.xl with walks := rest, rptc := t.xl.rptc } } ∧ c ∈ t.xl.rptc
          ∧ (∀ x, x ∈ t.xl.rptc → x = c ∨ x ∈ s.xl.rptc)
          ∧ ∀ x, x ∈ t.xl.rptc → x.core = c.core → x.asid = c.asid → x.rn = c.rn → x = c)
      ∧ (eValid c.entry.toNat = false → exec .walkReply s = .next { s with xl := { s.xl with walks := rest } })

/-- The fabric (R345, R351, R358, R392 to R398, R421). -/
def Obligations.FabricMessages : Prop :=
  Claims.CoherenceMessages ∧ Claims.SectorMasks ∧ Claims.DataMessages ∧ Claims.RegionWalks

/-- Flits, replays and training (R403 to R407, R416): a flit in sequence with its CRC is taken, and with the last flit of a packet one for another
module goes out on its route's port, waits there for room, or is dropped and logged; any other flit is dropped, and a replay is asked for; a replay
sends what is not acknowledged again; and training settles a port's up bit, a port that is given up dropping what waits there. That a port whose
retraining has failed drops what waits for it is the model's choice (assumption log 41). -/
def Claims.LinkTraffic : Prop :=
  ∀ (s : State) (port : Nat) (r : Port), port < 16 → r = portRec s port → r.role ≠ 0 →
    let others (t : State) (n : Nat) : Prop := ∀ k, k ≠ port → k ≠ n → portRec t k = portRec s k
    let bytes (f : Flit) : List Byte := (if f.first then [] else sget [] r.parts f.chan) ++ fit 64 f.payload
    let whole (f : Flit) : Prop := f.last = true ∧ (if r.role = 2 then 4 ≤ f.chan ∧ f.chan ≤ 7 else f.chan ≤ 4)
    let taken (f : Flit) (t : State) : Prop := ∃ p, p = { r with
      expect := (r.expect + 1) % 4096, buffer := p.buffer, asked := 0, replays := p.replays, parts := p.parts }
      ∧ (∀ c, sget [] p.parts c = if c = f.chan then (if f.last then [] else bytes f) else sget [] r.parts c)
      ∧ (∀ k post, r.buffer = k ++ post → (∀ x, x ∈ k.dropLast → x.hseq ≠ f.hack) →
          (∃ x, k.getLast? = some x ∧ x.hseq = f.hack) → p.buffer = post ∧ p.replays = 0)
      ∧ ((∀ x, x ∈ r.buffer → x.hseq ≠ f.hack) → p.buffer = r.buffer ∧ p.replays = r.replays)
      ∧ portRec t port = p
    (r.up = true → r.waiting = [] → ∀ f : Flit, f.crc = flitCrc f → f.hseq = r.expect →
      let x := packetOf (bytes f)
      (¬ whole f ∨ r.role = 2 ∨ x.dst = s.link.moduleId →
        ∃ t, exec (.flitReceive port f) s = .next t ∧ taken f t ∧ others t port
          ∧ t = { s with link := { s.link with ports := t.link.ports } })
      ∧ (whole f → r.role ≠ 2 → x.dst ≠ s.link.moduleId →
        (∀ n, routePort s x.dst = some n → n ≠ port → (portRec s n).up = true →
          ∃ t, exec (.flitReceive port f) s = .next t ∧ taken f t ∧ others t n
            ∧ ((portRec s n).waiting = [] → (portRec s n).buffer.length + (16 + x.body.length + 63) / 64 ≤ 2048 →
                (portRec s n).nextSend < 4096 → leftOn s t n f.chan x)
            ∧ ((portRec s n).waiting ≠ [] ∨ 2048 < (portRec s n).buffer.length + (16 + x.body.length + 63) / 64 →
                t.link.outbox = s.link.outbox
                  ∧ portRec t n = { portRec s n with waiting := (portRec s n).waiting ++ [(f.chan, x)] }))
        ∧ (routePort s x.dst = none ∨ (∃ n, routePort s x.dst = some n ∧ n ≠ port ∧ (portRec s n).up = false) →
          ∃ t e, exec (.flitReceive port f) s = .next t ∧ taken f t ∧ others t port ∧ t.link.outbox = s.link.outbox
            ∧ t.fw.log.getLast? = some e ∧ e.seq = s.fw.logSeq ∧ e.kind = 2 ∧ e.aux = x.dst)))
    ∧ (r.up = true → ∀ f : Flit, f.crc ≠ flitCrc f ∨ f.hseq ≠ r.expect →
      ∃ t, exec (.flitReceive port f) s = .next t ∧ others t port
        ∧ t = { s with link := { s.link with ports := t.link.ports, asks := s.link.asks ++ [(port, r.expect)] } }
        ∧ portRec t port = (if 15 ≤ r.asked then { r with up := false, training := true, replays := 0, asked := 0 }
          else { r with asked := r.asked + 1 }))
    ∧ (r.up = true → ∀ seq,
      ∃ t, exec (.replay port seq) s = .next t ∧ others t port
        ∧ t = { s with link := { s.link with ports := t.link.ports, outbox := t.link.outbox } }
        ∧ t.link.outbox = s.link.outbox ++ (r.buffer.dropWhile fun f => f.hseq ≠ seq).map (fun f => (port, f))
        ∧ portRec t port = (if r.replays < 15 then { r with replays := r.replays + 1 }
          else { r with up := false, training := true, replays := 0, asked := 0 }))
    ∧ (r.training = true → s.link.change = none →
      (r.waiting = [] → ∃ t, exec (.portTrained port true) s = .next t ∧ others t port
        ∧ portRec t port = { r with up := true, training := false, fails := 0 }
        ∧ t = { s with link := { s.link with ports := t.link.ports } })
      ∧ ∃ t, exec (.portTrained port false) s = .next t ∧ others t port
        ∧ portRec t port = (if r.fails < 3 then { r with fails := r.fails + 1 }
          else { r with up := false, training := false, fails := 0, waiting := [] })
        ∧ t.link.state = (if 3 ≤ r.fails ∧ r.role = 1 ∧ sealed s = false then 4 else s.link.state))

/-- A topology change (R414, R415): once the module ports have drained the switch message goes, its answer brings the new routes and
training, the last port trained raises the generation, with which or after which the traffic is released, and a drain limit gives up, or goes on to a
refusal. What a drain limit does after the switch message, and which of both comes in one step, is the model's choice (assumption log 41). -/
def Claims.TopologyChanges : Prop :=
  ∀ (s : State) (c : Topology), s.link.change = some c →
    let drains : Prop := (∀ n, n ∈ modulePorts s → (portRec s n).buffer = [] ∧ (portRec s n).waiting = [])
      ∧ ∀ r, r ∈ s.link.groups → r.root = s.link.moduleId ∨ r.outstanding = []
    let loads (i : Instr) (failed : Bool) : Prop :=
      ∃ t, exec i s = .next t ∧ t.link.state = 3 ∧ t.link.change = some { c with step := 4, failed := failed }
        ∧ (∀ k, k < 4096 → sget 0 t.link.routes k = field c.table (2 * k) 2)
        ∧ (∀ n, portRec t n =
            if n ∈ modulePorts s then { portRec s n with training := true, fails := 0 } else portRec s n)
        ∧ t = { s with link := { s.link with
            state := 3, change := t.link.change, routes := t.link.routes, ports := t.link.ports } }
    (c.step = 1 →
      (drains → ∃ t, exec .drainComplete s = .next t ∧ t.link.state = 2 ∧ t.link.change = some { c with step := 3 }
        ∧ t.link.switchOut = s.link.switchOut ++ c.msg
        ∧ (∀ n, portRec t n = portRec s n ∨ (n ∈ modulePorts s ∧ portRec t n = { portRec s n with up := false }))
        ∧ t = { s with link := { s.link with
            state := 2, change := t.link.change, switchOut := t.link.switchOut, ports := t.link.ports } })
      ∧ (¬ drains → exec .drainComplete s = .next s)
      ∧ ∃ t, exec .drainLimitExpiry s = .next t ∧ t.link.state = 0 ∧ t.link.change = none ∧ t.link.heldOut = []
        ∧ t.link.gen = s.link.gen ∧ t.link.routes = s.link.routes)
    ∧ (c.step = 3 → modulePorts s ≠ [] → loads .switchStatus (decide (s.link.switchIn ≠ 0)) ∧ loads .drainLimitExpiry true)
    ∧ (c.step = 4 → ∀ port, port < 16 → (portRec s port).role ≠ 0 → (portRec s port).training = true →
        (∀ n, n ∈ modulePorts s → n ≠ port → (portRec s n).training = false) →
        ∃ t, exec (.portTrained port true) s = .next t ∧ t.link.gen = s.link.gen + 1
          ∧ ((t.link.change = some { c with step := 5 } ∧ t.link.state = s.link.state)
            ∨ (t.link.change = none
              ∧ t.link.state = (if (routedPorts s).all (fun n => n = port || (portRec s n).up) then 0 else 4))))
    ∧ (c.step = 5 → ∀ port ok,
        ∃ t, exec (.portTrained port ok) s = .next t ∧ t.link.gen = s.link.gen ∧ t.link.change = none ∧ t.link.heldOut = []
          ∧ t.link.state = (if (routedPorts s).all (fun n => (portRec s n).up) then 0 else 4))

/-- Links (R403 to R407, R414 to R416). What a drain limit does around the switch message, and what a dropped packet logs, is
the model's choice (assumption log 41). -/
def Obligations.LinksAndTopology : Prop :=
  Claims.LinkTraffic ∧ Claims.TopologyChanges

/-- Host requests (R417, R418, R420, R422): a read of a biased page of a host-coherent region from an attached adapter gets the sector's
data, every device copy then being shared; ownership and a write leave no device copy, and a write's bytes stand in memory; no copy is granted under
device bias (R431); a request that reaches no such page is logged; one that a flip of its granule holds waits (R423); and one of a release-pending
sector is not answered (R116): that the adapter makes it again is the model's choice (assumption log 75). -/
def Claims.HostRequests : Prop :=
  ∀ (s : State) (r : HostReq) (data : List Byte),
    let biased : Bool := s.xl.hostBias.contains (r.dpa / 4096)
    let tells (t : State) (kind : Nat) (bs : List Byte) (grant : Nat) : Prop := t.hostp = { s.hostp with replies := s.hostp.replies
      ++ [{ adapter := r.adapter, dpa := r.dpa, kind := kind, data := bs, grant := if biased then grant else 0 }] }
    let logged (t : State) : Prop := ∃ e, t.fw.log.getLast? = some e ∧ e.seq = s.fw.logSeq ∧ e.kind = 8 ∧ e.addr = r.dpa
    let same (t : State) : Prop := t.team = s.team ∧ t.others = s.others ∧ t.lm = s.lm ∧ t.hand = s.hand ∧ t.sb = s.sb
    let reads (i : Instr) : Prop := i = .memrd r ∨ i = .memrddata r
    (hostTarget s r = none →
      (∀ i, reads i → ∃ t, exec i s = .next t ∧ tells t 0 (List.replicate 64 0) 0 ∧ logged t ∧ same t ∧ t.mem = s.mem)
      ∧ ∀ i, i = .memwr r data ∨ i = .meminv r → ∃ t, exec i s = .next t ∧ t.hostp = s.hostp ∧ logged t ∧ same t ∧ t.mem = s.mem)
    ∧ ∀ p va, hostTarget s r = some (p, va) →
      let sec := va / 64 * 64
      let known := homeBits s p.asid sec ≠ (false, false)
      let shared (t : State) (st : Nat → Moesi) : Prop := (known → (s.fab.copies.map fun c => (c.holder, c.asid, c.sec)).Nodup →
          ∀ h, copyState t h p.asid sec = st h)
        ∧ (¬ known → t.fab = { s.fab with cleared := t.fab.cleared })
      let holds (t : State) : Prop := ∀ l, l ∈ t.fab.cleared ↔ l ∈ s.fab.cleared ∧ ¬ (l = r.dpa / 256 ∧ biased = true)
      (markedSector s p.asid sec = true → (∀ i, reads i → exec i s = .next s) ∧ exec (.meminv r) s = .next s
        ∧ exec (.memwr r data) s = .next s)
      ∧ (markedSector s p.asid sec = false → (∀ f, f ∈ s.hostp.flips → f.granule ≠ r.dpa / 4096) →
        (∀ i, reads i → ∃ t, exec i s = .next t ∧ tells t 0 (bytesAt s.mem (r.dpa / 64 * 64) 64) 1 ∧ t.mem = s.mem ∧ same t ∧ holds t
          ∧ shared t fun h => if copyState s h p.asid sec = .I then .I else .S)
        ∧ (∃ t, exec (.meminv r) s = .next t ∧ tells t 1 [] 2 ∧ t.mem = s.mem ∧ same t ∧ holds t ∧ shared t fun _ => .I)
        ∧ (data.length = 64 → r.dpa % 64 = 0 →
          ∃ t, exec (.memwr r data) s = .next t ∧ tells t 2 [] 0 ∧ same t ∧ holds t ∧ (shared t fun _ => .I)
            ∧ bytesAt t.mem r.dpa 64 = data ∧ ∀ x, ¬ (r.dpa ≤ x ∧ x < r.dpa + 64) → byteAt t.mem x = byteAt s.mem x))
      ∧ ∀ f, s.hostp.flips.find? (fun f => f.granule = r.dpa / 4096) = some f → markedSector s p.asid sec = false →
        ∀ i h, (f.toHost = true ∧ (p.asid, sec) ∈ s.fab.evicts) ∨ (f.toHost = false ∧ ¬ (i = .memwr r data ∧ r.adapter ∈ f.waiting)) →
          (reads i ∧ h = { kind := 0, req := r, data := [] }) ∨ (i = .memwr r data ∧ h = { kind := 2, req := r, data := data })
            ∨ (i = .meminv r ∧ h = { kind := 1, req := r, data := [] }) →
          exec i s = .next { s with hostp := { s.hostp with
            flips := s.hostp.flips.map fun x => if x = f then { f with held := f.held ++ [h] } else x } }

/-- Far memory and a host's answers (R419 to R423, R429): a snoop of a far-mapped line answers with its data and leaves the device's copies
shared or gone; a fill's data becomes the line; the responses to a back-invalidation clear the line, or end a flip to device bias when the last has
come; and a flip to host bias takes effect once no write-back of its granule is in flight, and then serves the requests it held under the new bias. -/
def Claims.HostAnswers : Prop :=
  ∀ s : State,
    (∀ (r : HostReq) (i : Instr), i = .snpdata r ∨ i = .snpcur r ∨ i = .snpinv r →
      let tells (t : State) (bs : List Byte) : Prop := t.hostp = { s.hostp with replies := s.hostp.replies
        ++ [{ adapter := r.adapter, dpa := r.dpa, kind := 3, data := bs }] }
      let key := r.adapter * 2 ^ 64 + r.dpa / 64 * 64
      (attached s r.adapter = false → ∃ t e, exec i s = .next t ∧ tells t (List.replicate 64 0) ∧ t.mem = s.mem ∧ t.fab = s.fab
        ∧ t.fw.log.getLast? = some e ∧ e.kind = 8 ∧ e.addr = r.dpa)
      ∧ (attached s r.adapter = true → farTarget s r = none → ∃ t, exec i s = .next t ∧ tells t [] ∧ t.fab = s.fab ∧ SameMemory s t)
      ∧ ∀ p va, attached s r.adapter = true → farTarget s r = some (p, va) →
          (markedSector s p.asid (va / 64 * 64) = true → exec i s = .next s)
          ∧ (markedSector s p.asid (va / 64 * 64) = false → (s.fab.copies.map fun c => (c.holder, c.asid, c.sec)).Nodup →
        ∃ t, exec i s = .next t ∧ tells t (bytesAt s.hostp.far key 64)
          ∧ (∀ h, copyState t h p.asid (va / 64 * 64) =
              if i = .snpinv r ∨ copyState s h p.asid (va / 64 * 64) = .I then .I else .S)
          ∧ (∀ k, k ∈ t.fab.farKnown ↔ k ∈ s.fab.farKnown ∧ ¬ (i = .snpinv r ∧ k = key))
          ∧ t = { sentAs s t with fab := t.fab, hostp := t.hostp }))
    ∧ (∀ asid va data p a x b c, pageOf s asid va = some p → p.far = some (a, x, b, c) →
        (asid, va / 64 * 64) ∈ s.hostp.farFills → s.posted = [] →
      let k := a * 2 ^ 64 + (x + va % 65536) % 2 ^ 64 / 64 * 64
      ∃ t, exec (.farFillReply asid va data) s = .next t ∧ (∀ i, i < 64 → byteAt t.hostp.far (k + i) = data.getD i 0)
        ∧ (∀ y, ¬ (k ≤ y ∧ y < k + 64) → byteAt t.hostp.far y = byteAt s.hostp.far y)
        ∧ (∀ y, y ∈ t.fab.farKnown ↔ y ∈ s.fab.farKnown ∨ y = k)
        ∧ (asid, va / 64 * 64) ∉ t.hostp.farFills
        ∧ t = { s with
            fab := { s.fab with farKnown := t.fab.farKnown }, hostp := { s.hostp with far := t.hostp.far, farFills := t.hostp.farFills } })
    ∧ (∀ adapter blk place, s.posted = [] →
      let q : Snoop := { adapter := adapter, blk := blk, place := place }
      let left := s.hostp.snoops.filter (· ≠ q)
      let answered (f : Flip) : Flip :=
        if blk ∧ f.granule = place ∧ f.toHost = false then { f with waiting := f.waiting.filter (· ≠ adapter) } else f
      ((∀ f, f ∈ s.hostp.flips → blk = true → f.granule = place → f.toHost = false → ∃ a, a ∈ f.waiting ∧ a ≠ adapter) →
        ∃ t, exec (.birsp adapter { blk := blk, place := place }) s = .next t
          ∧ (∀ l, l ∈ t.fab.cleared ↔ l ∈ s.fab.cleared
              ∨ (l = place ∧ blk = false ∧ q ∈ s.hostp.snoops ∧ (∀ x, x ∈ left → ¬ (x.blk = false ∧ x.place = place))
                ∧ place / 16 ∈ s.xl.hostBias))
          ∧ t = { s with
              fab := { s.fab with cleared := t.fab.cleared }
              hostp := { s.hostp with snoops := left, flips := s.hostp.flips.map answered } })
      ∧ ∀ f, f ∈ s.hostp.flips → blk = true → f.granule = place → f.toHost = false → (∀ a, a ∈ f.waiting → a = adapter) →
        ∃ t, exec (.birsp adapter { blk := blk, place := place }) s = .next t ∧ place ∉ t.xl.hostBias ∧ ∀ x, x ∈ t.hostp.flips → x.granule ≠ place)
    ∧ (s.hostp.flips.find? (fun f => f.toHost && !granuleBusy s f.granule) = none → exec .hostBiasFlip s = .next s)
    ∧ ∀ f, s.hostp.flips.find? (fun f => f.toHost && !granuleBusy s f.granule) = some f →
      ∃ t, exec .hostBiasFlip s = .next t ∧ f.granule ∈ t.xl.hostBias ∧ (∀ x, x ∈ t.hostp.flips → x.granule ≠ f.granule)
        ∧ ∀ h, f.held = [h] → h.kind = 0 → h.req.dpa / 4096 = f.granule → hostTarget s h.req ≠ none →
            ∃ a, a ∈ t.hostp.replies ∧ a.adapter = h.req.adapter ∧ a.dpa = h.req.dpa ∧ a.kind = 0 ∧ a.grant = 1

/-- Hosts (R417 to R423, R429, R431). That an access of a release-pending sector is made again is the model's choice
(assumption log 75). -/
def Obligations.HostMessages : Prop :=
  Claims.HostRequests ∧ Claims.HostAnswers

/-- What every command does (R371, R380, R381, R412, R448): a card that is not the command's turn waits; reserved bits, and a link state
that forbids it, refuse it; and a command's end writes its result word and takes the card from the device queue, or ends its node. -/
def Claims.CommandResults : Prop :=
  (∀ (s : State) (id : CardId) (i : Instr) (op : Nat) (linked : Bool),
    (i, op, linked) ∈ [(Instr.queueCreate id, 0x01, false), (.queueSeal id, 0x02, false), (.queueDestroy id, 0x03, false),
      (.queueRestart id, 0x04, false), (.asidCreate id, 0x05, false), (.regionSet id, 0x06, false), (.pageMap id, 0x07, false),
      (.pageUnmap id, 0x08, false), (.pageQuery id, 0x09, false), (.teamResume id, 0x0A, false), (.domainAssign id, 0x0B, false),
      (.linkConfigure id, 0x20, true), (.topologyChange id, 0x21, true), (.groupBind id, 0x22, true), (.groupDissolve id, 0x23, true),
      (.biasSet id, 0x24, false), (.farMap id, 0x25, false), (.adapterAttach id, 0x26, false)] →
    (cmdOf s id op = none → exec i s = .next s)
    ∧ ∀ c q, cmdOf s id op = some (c, q) →
      (operandsOk c = false → exec i s = .next (cmdDone s c 1))
      ∧ (operandsOk c = true → linked = true → 1 ≤ s.link.state.toNat → s.link.state.toNat ≤ 3 → exec i s = .next (cmdDone s c 8)))
  ∧ ∀ (s : State) (c : Card) (q : Queue) (code : Nat), queueOf s c.id.queue = some q → code < 2 ^ 64 →
    (∀ x, x ∈ s.sched.cards → x.id.queue = q.id → x.kind = 2 → operandTable x.opcode ≠ none) →
    let t := cmdDone s c code
    let w := hwWho (queueDom s q) q.asid
    (q.kind = 2 → t = { withBytes s t with sched := { s.sched with cards := s.sched.cards.filter (·.id ≠ c.id) } }
        ∧ KeepsBytes s t [(w, c.resultVa, 8)]
        ∧ (s.memOk → cmdWritable s q c.resultVa = true → hwRead t (queueDom s q) q.asid c.resultVa 8 = toBytes 8 code))
    ∧ (q.kind ≠ 2 → c.level = 0 → nodeCard s c.nodeId = some c →
        nodeCard t c.nodeId = some { c with standing := if code = 0 then 2 else 3 })

/-- The commands on queues (R371, R372, R375, R390, R448); a control block that must wait at its home is waited for. That a queue's creation writes no
word of software's, and that a job of no phases is complete at once, is the model's choice (assumption log 45, 36). -/
def Claims.QueueCommands : Prop :=
  ∀ (s : State) (id : CardId) (c : Card) (q : Queue), operandsOk c = true →
    let named (z : Queue) : Prop := queueOf s { cluster := c.arg 0x48 1, index := c.arg 0x4A 2 } = some z ∧ z.status ≠ 3 ∧ z.kind ≠ 2
    let rest (s1 : State) (z : Queue) : Prop :=
      s1 = { withBytes s s1 with sched := { s.sched with queues := s1.sched.queues } } ∧ KeepsBytes s s1 [blockOf s z]
        ∧ ∀ x, x ≠ z.id → queueOf s1 x = queueOf s x
    let waits (z : Queue) : Bool := gateWaits s (queueWho s z) z.ring 8
    (cmdOf s id 0x01 = some (c, q) →
      let qid : QueueId := { cluster := c.arg 0x48 1, index := c.arg 0x4A 2 }
      c.arg 0x49 1 ≤ 1 → 1 ≤ c.arg 0x4C 1 → c.arg 0x4C 1 ≤ 16 → c.arg 0x50 8 % 256 = 0 → c.arg 0x58 8 % 8 = 0 →
      (clusterRec s (c.arg 0x48 1)).lost = false → asidDomain s (c.arg 0x4E 2) = some (clusterRec s (c.arg 0x48 1)).domain →
      (∀ z, queueOf s qid = some z → z.status = 3) →
      (c.arg 0x60 4 = 0 → levelRec s 0 = none ∧ 0 < s.sched.nextId ∧ ∀ x, x ∈ s.sched.levels → x.state ≠ 1) →
      ∃ s1 z l, exec (.queueCreate id) s = .next (cmdDone s1 c 0) ∧ queueOf s1 qid = some z
        ∧ z = { id := qid, kind := c.arg 0x49 1, openPost := bit (c.arg 0x4D 1) 0, job := l.id, asid := c.arg 0x4E 2
                prio := c.arg 0x64 1, ring := c.arg 0x50 8, k := c.arg 0x4C 1 }
        ∧ l = { kind := 3, id := s.sched.nextId, parent := 0, number := 0, total := c.arg 0x60 4
                state := if c.arg 0x60 4 = 0 then 2 else 0, va := c.arg 0x58 8, asid := c.arg 0x4E 2 }
        ∧ s1.sched.levels = s.sched.levels ++ [l] ∧ s1.sched.cards = s.sched.cards.filter (·.id.queue ≠ qid)
        ∧ (∀ x, x ≠ qid → queueOf s1 x = queueOf s x) ∧ KeepsBytes s s1 [counterOf s l, blockOf s z])
    ∧ (cmdOf s id 0x02 = some (c, q) → ∀ z, named z →
      (waits z = true → exec (.queueSeal id) s = .next (askGates s (queueWho s z) z.ring 8))
      ∧ (waits z = false → z.sealat = none → ∃ s1, exec (.queueSeal id) s = .next (cmdDone s1 c 0) ∧ rest s1 z
        ∧ queueOf s1 z.id = some { z with status := 1, sealat := some (field (hwRead s (queueDom s z) z.asid z.ring 8) 0 8) })
      ∧ (waits z = false → z.sealat ≠ none → exec (.queueSeal id) s = .next (cmdDone s c 0)))
    ∧ (cmdOf s id 0x03 = some (c, q) → c.arg 0x4C 1 ≤ 1 → ∀ z, named z → waits z = false →
      ∃ s1 z1, exec (.queueDestroy id) s = .next (cmdDone s1 c 0) ∧ queueOf s1 z.id = some z1 ∧ z1.dropping = true
        ∧ (if z.sealat = none then z1.status = 1 ∧ z1.sealat = some (field (hwRead s (queueDom s z) z.asid z.ring 8) 0 8)
          else z1.status = z.status ∧ z1.sealat = z.sealat)
        ∧ z1 = { z with status := z1.status, sealat := z1.sealat, dropping := true }
        ∧ (c.arg 0x4C 1 = 0 → rest s1 z)
        ∧ (c.arg 0x4C 1 = 1 → ∀ j, levelRec s z.job = some j → j.state = 0 →
            ∃ j1, levelRec s1 z.job = some j1 ∧ (j1.state = 1 ∨ j1.state = 3) ∧ j1.done = j.done))
    ∧ (cmdOf s id 0x04 = some (c, q) → ∀ z, named z →
      (z.status = 2 → ∃ s1, exec (.queueRestart id) s = .next (cmdDone s1 c 0) ∧ rest s1 z
        ∧ queueOf s1 z.id = some { z with status := if z.sealat.isSome then 1 else 0 })
      ∧ (z.status ≠ 2 → exec (.queueRestart id) s = .next (cmdDone s c 0)))
    ∧ (∀ i op, (i = .queueSeal id ∧ op = 0x02) ∨ (i = .queueRestart id ∧ op = 0x04)
          ∨ (i = .queueDestroy id ∧ op = 0x03 ∧ c.arg 0x4C 1 ≤ 1) → cmdOf s id op = some (c, q) →
      let z := queueOf s { cluster := c.arg 0x48 1, index := c.arg 0x4A 2 }
      (z = none ∨ (∃ y, z = some y ∧ y.status = 3) → exec i s = .next (cmdDone s c 6))
      ∧ ∀ y, z = some y → y.status ≠ 3 → y.kind = 2 → exec i s = .next (cmdDone s c 7))

/-- Commands and queues (R371, R372, R375, R380, R381, R390, R412, R448). That queue-create writes no word of
software's, and that a job of no phases is complete at once, is the model's choice (assumption log 45, 36). -/
def Obligations.CommandsAndQueues : Prop :=
  Claims.CommandResults ∧ Claims.QueueCommands

/-- The commands on address spaces, regions and pages (R344 to R351, R419, R448). That a page command on a VA that is not of a whole page names the page
that holds it, that the pool is a place of its own beside the host memory of its adapter, and that far-map runs in LINK states 1 to 3, is the model's
choice (assumption log 47, 54, 97). -/
def Claims.MemoryCommands : Prop :=
  ∀ (s : State) (id : CardId) (c : Card) (q : Queue), operandsOk c = true →
    let asid := c.arg 0x48 2
    let va := c.arg 0x50 8
    let pages (s1 : State) (ps : List PageEntry) : Prop := s1.xl.pages = s.xl.pages ++ ps
      ∧ s1 = { s with xl := { s.xl with pages := s1.xl.pages, hostBias := s1.xl.hostBias }
                      fab := { s.fab with cleared := s1.fab.cleared } }
    (cmdOf s id 0x05 = some (c, q) → clustersOf s (c.arg 0x4A 1) ≠ [] → asidExists s asid = false →
      ∃ s1 k, exec (.asidCreate id) s = .next (cmdDone s1 c 0) ∧ k ∈ clustersOf s (c.arg 0x4A 1)
        ∧ s1 = { s with xl := { s.xl with asids := s.xl.asids ++ [(asid, c.arg 0x4A 1, k)] } })
    ∧ (cmdOf s id 0x06 = some (c, q) → ∀ e, e = c.arg 0x58 8 → entryReserved asid e = false →
        entryMisplaced s asid va e = false → asidExists s asid = true → entryForbidden s asid va e = false →
        bit (c.arg 0x4A 1) 0 = true ∨ (s.sb = [] ∧ ∀ x, x ∈ s.team :: s.others →
          x.ord.load = none ∧ x.scalarAtom = false ∧ x.lane.busy = false ∧ x.ord.atoms = []) →
      let key := asid * 2 ^ 35 + va
      let old := (sget 0 s.xl.regions key).toNat
      let sets (s1 : State) : Prop := exec (.regionSet id) s = .next (cmdDone s1 c 0)
        ∧ (∀ k, sget 0 s1.xl.regions k = if k = key then BitVec.ofNat 64 e else sget 0 s.xl.regions k)
        ∧ (regionShrinks old e = true → bit (c.arg 0x4A 1) 0 = false →
            ∀ x, x ∈ s1.xl.rptc ∨ x ∈ s1.xl.walks → (x ∈ s.xl.rptc ∨ x ∈ s.xl.walks) ∧ ¬ (x.asid = asid ∧ x.rn = va))
        ∧ (regionShrinks old e = false ∨ bit (c.arg 0x4A 1) 0 = true → s1.xl.rptc = s.xl.rptc ∧ s1.xl.walks = s.xl.walks)
        ∧ s1.team = s.team ∧ s1.others = s.others ∧ s1.lm = s.lm ∧ s1.sched = s.sched
      (eKind e ≠ 1 ∨ eValid e = false → ∃ s1, sets s1 ∧ (eKind old ≠ 1 → s1.xl.pages = s.xl.pages ∧ s1.mem = s.mem))
      ∧ (eKind e = 1 → eValid e = true → setRegion s asid va (BitVec.ofNat 64 e) (bit (c.arg 0x4A 1) 0) ≠ none →
          ∃ s1, sets s1 ∧ ∀ x, x ∈ regionPages va → pagePresent s1 asid x = true))
    ∧ (cmdOf s id 0x06 = some (c, q) → ∀ e x a, e = c.arg 0x58 8 → entryReserved asid e = false →
        entryMisplaced s asid va e = false → asidExists s asid = true → entryForbidden s asid va e = false →
        eKind e ≠ 1 → bit (c.arg 0x4A 1) 0 = false → x ∈ s.team :: s.others → x.place.run = 1 →
        (∀ y, y ∈ s.xl.leaving → y.1 ≠ asid * 2 ^ 35 + va) → teamDomain s x = regionDom s asid (sget 0 s.xl.regions (asid * 2 ^ 35 + va)).toNat → x.ord.load = some a →
        tagOf x.card.asid a = asid → a / 2 ^ 21 % 2 ^ 35 = va → asid < 2 ^ 14 →
      ∃ t, exec (.regionSet id) s = .next t ∧ cardOf t id = some c
        ∧ sget 0 t.xl.regions (asid * 2 ^ 35 + va) = BitVec.ofNat 64 e)
    ∧ (cmdOf s id 0x07 = some (c, q) → ∀ e frame, e = tableEntry s asid va → frame = c.arg 0x58 8 → va < 2 ^ 56 → eValid e = true →
        asidExists s asid = true → pagePresent s asid va = false → eKind e ≠ 1 → eKind e ≠ 2 →
        (bit (c.arg 0x4A 1) 0 = true → eKind e = 4) →
      let page : PageEntry := {
        ctrl := homeOf s asid e va, asid := asid, vpage := va / 65536, biased := bit (c.arg 0x4A 1) 0
        gdom := if asid = 0 then eGdom e else 0 }
      (eInter e = false → frame % 16 = 0 → frame < 2 ^ 23 → framesFree s page.ctrl frame 16 = true →
        ∃ s1, exec (.pageMap id) s = .next (cmdDone s1 c 0) ∧ pages s1 [{ page with frame := frame }])
      ∧ (frame = 2 ^ 64 - 1 → ∀ s1, mapPage s asid va none (bit (c.arg 0x4A 1) 0) 0 = some s1 →
          exec (.pageMap id) s = .next (cmdDone s1 c 0)
          ∧ (eInter e = false → ∃ f, framesFree s page.ctrl f 16 = true ∧ pages s1 [{ page with frame := f }])
          ∧ (eInter e = true → ∃ ps, pages s1 ps ∧ ps.length = 16 ∧ ∀ g, g < 16 → ∃ f, ps[g]? = some { page with
              ctrl := homeOf s asid e (va / 65536 * 65536 + 4096 * g), gidx := some g, frame := f })))
    ∧ (cmdOf s id 0x08 = some (c, q) → va < 2 ^ 56 → asidExists s asid = true → pagePresent s asid va = true →
        eKind (tableEntry s asid va) ≠ 1 → eKind (tableEntry s asid va) ≠ 2 →
      (markedPage s asid (va / 65536) = true → exec (.pageUnmap id) s = .next s)
      ∧ (markedPage s asid (va / 65536) = false → ∃ s1, exec (.pageUnmap id) s = .next (cmdDone s1 c 0)
        ∧ s1.xl.pages = s.xl.pages.filter (fun p => !(p.asid = asid && p.vpage = va / 65536))
        ∧ (∀ x, x ∈ s1.fab.copies ↔ x ∈ s.fab.copies ∧ ¬ (x.asid = asid ∧ x.sec / 65536 = va / 65536))
        ∧ (∀ x, x ∈ s1.hand → x ∈ s.hand)
        ∧ (∀ x p, x ∈ s1.hand → p ∈ s.xl.pages → p.asid = asid → p.vpage = va / 65536 → p.far = none →
            ¬ (p.ctrl * 2 ^ 35 + p.frame * 4096 ≤ x.dpa
                ∧ x.dpa < p.ctrl * 2 ^ 35 + p.frame * 4096 + (if p.gidx.isSome then 4096 else 65536)))
        ∧ s1.team = s.team ∧ s1.others = s.others ∧ s1.lm = s.lm ∧ s1.sb = s.sb ∧ s1.sched = s.sched))
    ∧ (cmdOf s id 0x09 = some (c, q) → asidExists s asid = true → ∀ w, w = hwWho (queueDom s q) q.asid →
        cmdWritable s q (c.resultVa + 8) = true → s.memOk →
      (pageOf s asid va = none → ∃ s1, exec (.pageQuery id) s = .next (cmdDone s1 c 0) ∧ s1 = withBytes s s1
        ∧ hwRead s1 (queueDom s q) q.asid (c.resultVa + 8) 8 = List.replicate 8 0 ∧ KeepsBytes s s1 [(w, c.resultVa + 8, 8)])
      ∧ ∀ p, pageOf s asid va = some p → ∃ s1, exec (.pageQuery id) s = .next (cmdDone s1 c 0) ∧ s1 = withBytes s s1
        ∧ KeepsBytes s s1 [(w, c.resultVa + 8, 8)]
        ∧ (p.far = none → p.frame < 2 ^ 23 → p.gdom < 8 → field (hwRead s1 (queueDom s q) q.asid (c.resultVa + 8) 8) 0 8 =
            2 ^ 63 + (if p.dirty then 2 ^ 62 else 0) + (if p.biased then 2 ^ 61 else 0) + (if p.gidx.isSome then 2 ^ 60 else 0)
              + p.gdom * 2 ^ 56 + p.frame)
        ∧ (pageOf s (tagOf q.asid (c.resultVa + 8)) (c.resultVa + 8) ≠ some p →
            pageOf s1 asid va = some (if bit (c.arg 0x4A 1) 0 then { p with dirty := false } else p)))
    ∧ (cmdOf s id 0x25 = some (c, q) → ∀ e far, e = tableEntry s asid va → va < 2 ^ 56 →
        c.arg 0x4A 1 ≤ 3 → c.arg 0x4B 1 ≤ 1 → c.arg 0x58 8 % 65536 = 0 → asidExists s asid = true → pagePresent s asid va = false →
        eValid e = true → eKind e = 0 ∨ eKind e = 4 → attached s (c.arg 0x4A 1) = true →
        far = (c.arg 0x4A 1 + (if c.arg 0x4B 1 = 1 then 4 + 8 * c.arg 0x4C 2 else 0), c.arg 0x58 8, c.arg 0x4B 1, c.arg 0x4C 2) →
      let page (v : Nat) (g : Option Nat) : PageEntry := {
        ctrl := homeOf s asid e v, asid := asid, vpage := va / 65536, gidx := g, gdom := if asid = 0 then eGdom e else 0
        far := some far }
      ∃ s1, exec (.farMap id) s = .next (cmdDone s1 c 0)
        ∧ pages s1 (if eInter e then (List.range 16).map fun g => page (va / 65536 * 65536 + 4096 * g) (some g) else [page va none]))

/-- The commands on halted teams and domains (R334, R339 to R341, R343, R448): a halted team waits for its core with what its image
holds, or in its handler when its halt holds a trap, one whose image is not present halts again, and clusters change their domain once they are
drained. The steps and codes of team-resume, the record of a team that halts again, and the wait of domain-assign are the model's choices (assumption
log 50, 103, 51). -/
def Claims.TeamCommands : Prop :=
  ∀ (s : State) (id : CardId) (c : Card) (q : Queue), operandsOk c = true →
    (cmdOf s id 0x0A = some (c, q) →
      (teamOf s (c.arg 0x50 8) = none → exec (.teamResume id) s
          = .next (cmdDone s c (if s.sched.ended.contains (c.arg 0x50 8) then 7 else 6)))
      ∧ ∀ x, teamOf s (c.arg 0x50 8) = some x →
        (x.place.run ≠ 3 → exec (.teamResume id) s = .next (cmdDone s c 7))
        ∧ (x.place.run = 3 → crewOf s x = [x.card.handle] → present s (hwWho (teamDomain s x) 0) x.card.handle 0x13000 = false →
          ∃ s1 y, exec (.teamResume id) s = .next (cmdDone s1 c 0) ∧ teamOf s1 x.card.handle = some y ∧ y.place.run = 3
            ∧ y.place.halt.toNat = (if (freeSlots s x 1).isSome then 0x1B else 0x1C) + 2 ^ 9
            ∧ y.regs = x.regs ∧ y.pc = x.pc ∧ y.sys = x.sys ∧ y.lane = x.lane ∧ y.card = x.card)
        ∧ (x.place.run = 3 → crewOf s x = [x.card.handle] → present s (hwWho (teamDomain s x) 0) x.card.handle 0x13000 = true →
            gateWaits s (hwWho (teamDomain s x) 0 x.card.handle) x.card.handle 0x13000 = true →
          exec (.teamResume id) s = .next (askGates s (hwWho (teamDomain s x) 0 x.card.handle) x.card.handle 0x13000))
        ∧ (x.place.run = 3 → crewOf s x = [x.card.handle] → present s (hwWho (teamDomain s x) 0) x.card.handle 0x13000 = true →
            gateWaits s (hwWho (teamDomain s x) 0 x.card.handle) x.card.handle 0x13000 = false →
            (∀ k, k ∈ s.team :: s.others → k.ord.kept = []) →
          ∃ s1 y z, exec (.teamResume id) s = .next (cmdDone s1 c 0) ∧ teamOf s1 x.card.handle = some y ∧ z = readImage s x
            ∧ y.place.run = 2 ∧ y.place.savedAt = s.fresh ∧ y.card = x.card ∧ y.regs = z.regs ∧ y.lane = z.lane
            ∧ (z.place.halt.getLsbD 8 = false → y.pc = z.pc ∧ y.sys = z.sys)
            ∧ (z.place.halt.getLsbD 8 = true → y.pc = z.sys.tvec ∧ y.sys = { z.sys with
                epc := z.pc, scause := z.place.halt, srec := x.place.srec, handler := true })
            ∧ (∀ k, k ≠ x.card.handle → teamOf s1 k = teamOf s k) ∧ s1.lm = s.lm ∧ s1.sb = s.sb ∧ s1.sched = s.sched))
    ∧ (cmdOf s id 0x0B = some (c, q) → (∀ k, k < 64 → bit (c.arg 0x50 8) k = true → (clusterRec s k).lost = false) →
      ((∃ k, k < 64 ∧ bit (c.arg 0x50 8) k = true ∧ clusterBusy s k = true) → exec (.domainAssign id) s = .next s)
      ∧ ((∀ k, k < 64 → bit (c.arg 0x50 8) k = true → clusterBusy s k = false) →
        ∃ s1, exec (.domainAssign id) s = .next (cmdDone s1 c 0)
          ∧ (∀ k, clusterRec s1 k =
              if k < 64 ∧ bit (c.arg 0x50 8) k = true then { clusterRec s k with domain := c.arg 0x48 1 } else clusterRec s k)
          ∧ s1 = { s with fw := { s.fw with clusters := s1.fw.clusters } }))

/-- Commands on memory and on teams (R334, R340, R341, R344 to R351, R419, R448). Unaligned page addresses, the codes
and steps of team-resume, the wait of domain-assign, the pool's key and far-map's LINK states are the model's choices (assumption log 47, 50, 51, 54,
97). -/
def Obligations.MemoryAndTeamCommands : Prop :=
  Claims.MemoryCommands ∧ Claims.TeamCommands

/-- The commands on links, groups, bias and adapters (R402, R412 to R416, R422, R423, R448), and the announcement of a group (R413): a member below the
root sends its hash up once its children's have come; where all agree the announcement binds the group, its window's bytes zero (R324), and else
refuses the binding with code 5; and it ends a group. One that no command here waits for brings the word that the group is in error at another member,
which is the model's reading of R295 (assumption log 88); when a module unbinds, what a change of role does to a port and its adapter, the code at
disagreement, and that bias-set and adapter-attach are refused in no link state are its readings too (assumption log 42, 52, 53, 97). -/
def Obligations.LinkCommands : Prop :=
  (∀ (s : State) (id : CardId) (c : Card) (q : Queue), operandsOk c = true →
    let asid := c.arg 0x48 2
    let free : Prop := 1 ≤ s.link.state.toNat → 3 < s.link.state.toNat
    let va := c.arg 0x50 8
    let goes (a n : Nat) : Prop := gateWaits s (queueWho s q) a n = false
    ((cmdOf s id 0x20 = some (c, q) → free → (∀ r, r ∈ s.link.groups → r.state = 2) → (∀ n, n < 16 → c.arg 0x4C 4 / 4 ^ n % 4 ≠ 3) →
        ((List.range 16).filter fun n => c.arg 0x4C 4 / 4 ^ n % 4 = 2).length ≤ 4 → cmdReadable s q va 8192 = true → ¬ goes va 8192 →
        exec (.linkConfigure id) s = .next (askGates s (queueWho s q) va 8192))
      ∧ (cmdOf s id 0x21 = some (c, q) → free → 1 ≤ asid → asid ≤ 4096 → cmdReadable s q va asid = true →
        cmdReadable s q (c.arg 0x58 8) 8192 = true → ¬ goes va asid →
        exec (.topologyChange id) s = .next (askGates s (queueWho s q) va asid))
      ∧ (cmdOf s id 0x22 = some (c, q) → free → cmdReadable s q va 128 = true → ¬ goes va 128 →
        exec (.groupBind id) s = .next (askGates s (queueWho s q) va 128)))
    ∧ (cmdOf s id 0x20 = some (c, q) → free →
      let role (n : Nat) : Nat := c.arg 0x4C 4 / 4 ^ n % 4
      (∀ r, r ∈ s.link.groups → r.state = 2) → (∀ n, n < 16 → role n ≠ 3) →
      ((List.range 16).filter fun n => role n = 2).length ≤ 4 → cmdReadable s q va 8192 = true → goes va 8192 →
      ∃ s1, exec (.linkConfigure id) s = .next (cmdDone s1 c 0) ∧ s1.link.moduleId = asid
        ∧ (∀ k, k < 4096 → sget 0 s1.link.routes k = field (cmdRead s q va 8192) (2 * k) 2)
        ∧ (∀ n, n < 16 → portRec s1 n =
            if (portRec s n).role = role n then portRec s n else { role := role n, training := decide (role n ≠ 0) })
        ∧ (∀ a, a ∈ s1.hostp.adapters ↔ a ∈ s.hostp.adapters ∧ role a.1 = 2)
        ∧ s1 = { s with
            link := { s.link with moduleId := s1.link.moduleId, routes := s1.link.routes, ports := s1.link.ports }
            hostp := { s.hostp with adapters := s1.hostp.adapters } })
    ∧ (cmdOf s id 0x21 = some (c, q) → free → 1 ≤ asid → asid ≤ 4096 → cmdReadable s q va asid = true →
        cmdReadable s q (c.arg 0x58 8) 8192 = true → goes va asid → goes (c.arg 0x58 8) 8192 →
      exec (.topologyChange id) s = .next { s with link := { s.link with
        state := 1
        change := some { step := 1, limit := c.arg 0x4C 4, card := id, msg := cmdRead s q va asid
                         table := cmdRead s q (c.arg 0x58 8) 8192 } } })
    ∧ (cmdOf s id 0x22 = some (c, q) → free → ∀ d ranks locals, d = cmdRead s q va 128 → cmdReadable s q va 128 = true →
        goes va 128 → goes (field d 0x20 8) (2 * field d 2 2) → goes (field d 0x50 8) (16 * field d 0x58 2) → groupMisformed d = false → groupTaken s (field d 0 2) = false →
        (∀ x, x ∈ windowStarts d → let e := tableEntry s (tagOf (field d 8 2 % 2 ^ 14) x) x
          eValid e = true ∧ eKind e = 2 ∧ eGroup e = field d 0 2) →
        cmdReadable s q (field d 0x20 8) (2 * field d 2 2) = true → cmdReadable s q (field d 0x50 8) (16 * field d 0x58 2) = true →
        ranks = cmdRead s q (field d 0x20 8) (2 * field d 2 2) → locals = cmdRead s q (field d 0x50 8) (16 * field d 0x58 2) →
      ∃ g, exec (.groupBind id) s = .next { s with link := { s.link with groups := s.link.groups ++ [g] } } ∧ g.number = field d 0 2
        ∧ g.state = 2 ∧ g.asid = field d 8 2 % 2 ^ 14 ∧ g.hash = Config.bindingHash (d.take 40 ++ ranks) ∧ g.window = field d 0x10 8 ∧ g.wlen = field d 0x18 8 ∧ g.root = field d 6 2
        ∧ g.parent = field d 0x28 2 ∧ g.members = field d 4 2 ∧ g.card = some id ∧ g.children.length = field d 0x2A 2
        ∧ (∀ k, k < field d 0x2A 2 → g.children[k]? = some (field d (0x30 + 2 * k) 2)) ∧ g.rankmap.length = field d 2 2
        ∧ (∀ k, k < field d 2 2 → g.rankmap[k]? = some (field ranks (2 * k) 2))
        ∧ ∀ k, k < field d 0x58 2 →
            g.locals[k]? = some (field locals (16 * k) 2, field locals (16 * k + 2) 2, field locals (16 * k + 8) 8))
    ∧ (cmdOf s id 0x23 = some (c, q) → free →
      (groupOf s asid = none → exec (.groupDissolve id) s = .next (cmdDone s c 6))
      ∧ ∀ r, groupOf s asid = some r → ∃ t, exec (.groupDissolve id) s = .next t
          ∧ groupOf t asid = some (if r.card = none then { r with card := some id } else { r with also := r.also ++ [id] })
          ∧ t = { s with link := { s.link with groups := t.link.groups } })
    ∧ (cmdOf s id 0x24 = some (c, q) → c.arg 0x4A 1 ≤ 1 → va % 4096 = 0 → asidExists s asid = true →
      (pageOf s asid va = none → exec (.biasSet id) s = .next (cmdDone s c 7))
      ∧ ∀ p, pageOf s asid va = some p → p.biased = true →
        let g := (p.ctrl * 2 ^ 35 + p.frame * 4096 + (if p.gidx.isSome then 0 else va % 65536)) / 4096
        let marked : Prop := ∃ e, e ∈ s.sb ∧ e.marked = true ∧ e.asid = asid ∧ e.sector / 4096 = va / 4096
        ((∃ f, f ∈ s.hostp.flips ∧ f.granule = g) ∨ marked → exec (.biasSet id) s = .next s)
        ∧ (¬ marked → (∀ f, f ∈ s.hostp.flips → f.granule ≠ g) →
          ((g ∈ s.xl.hostBias ↔ c.arg 0x4A 1 = 1) → exec (.biasSet id) s = .next (cmdDone s c 0))
          ∧ (g ∉ s.xl.hostBias → c.arg 0x4A 1 = 1 → granuleBusy s g = false →
              (∀ x, x ∈ s.fab.copies → x.asid = asid → va ≤ x.sec → x.sec < va + 4096 → x.st ≠ .M ∧ x.st ≠ .O) →
            ∃ t, exec (.biasSet id) s = .next t ∧ g ∈ t.xl.hostBias ∧ ∀ f, f ∈ t.hostp.flips → f.granule ≠ g)
          ∧ (g ∉ s.xl.hostBias → c.arg 0x4A 1 = 1 → (s.fab.copies.map fun x => (x.holder, x.asid, x.sec)).Nodup →
              (granuleBusy s g = true ∨ p.far = none
                ∧ ∃ h i, i < 64 ∧ (copyState s h asid (va + 64 * i) = .M ∨ copyState s h asid (va + 64 * i) = .O)) →
            ∃ t, exec (.biasSet id) s = .next t
              ∧ t.hostp = { s.hostp with flips := s.hostp.flips ++ [{ granule := g, toHost := true, card := id, waiting := [] }] }
              ∧ (∀ h i, i < 64 → copyState t h asid (va + 64 * i) = .I)
              ∧ (∀ h i, i < 64 → copyState s h asid (va + 64 * i) = .M ∨ copyState s h asid (va + 64 * i) = .O →
                  (asid, va + 64 * i) ∈ t.fab.evicts)
              ∧ t = { s with hostp := t.hostp, fab := t.fab })
          ∧ (g ∈ s.xl.hostBias → c.arg 0x4A 1 = 0 → s.hostp.adapters ≠ [] →
            ∃ t f, exec (.biasSet id) s = .next t ∧ t.hostp.flips = s.hostp.flips ++ [f] ∧ f.granule = g ∧ f.toHost = false
              ∧ f.card = id ∧ (∀ a, a ∈ f.waiting ↔ ∃ x, x ∈ s.hostp.adapters ∧ x.2 = a)
              ∧ (∀ a, a ∈ f.waiting → { adapter := a, blk := true, place := g } ∈ t.hostp.snoops)
              ∧ (∀ x, x ∈ s.hostp.snoops → x ∈ t.hostp.snoops)
              ∧ t = { sentAs s t with hostp := { s.hostp with flips := t.hostp.flips, snoops := t.hostp.snoops } })))
    ∧ (cmdOf s id 0x26 = some (c, q) → c.arg 0x48 1 ≤ 15 → c.arg 0x49 1 ≤ 3 →
      ((∃ a, a ∈ s.hostp.adapters ∧ a.2 = c.arg 0x49 1 ∧ a.1 ≠ c.arg 0x48 1) →
        exec (.adapterAttach id) s = .next (cmdDone s c 6))
      ∧ ((∀ a, a ∈ s.hostp.adapters → a.2 = c.arg 0x49 1 → a.1 = c.arg 0x48 1) → (portRec s (c.arg 0x48 1)).role = 2 →
        ∃ s1, exec (.adapterAttach id) s = .next (cmdDone s1 c 0) ∧ (c.arg 0x48 1, c.arg 0x49 1) ∈ s1.hostp.adapters
          ∧ (∀ a, a.2 ≠ c.arg 0x49 1 → a.1 ≠ c.arg 0x48 1 → (a ∈ s1.hostp.adapters ↔ a ∈ s.hostp.adapters))
          ∧ (∀ a, a ∈ s1.hostp.adapters → a.1 = c.arg 0x48 1 → a.2 = c.arg 0x49 1)
          ∧ s1 = { s with hostp := { s.hostp with adapters := s1.hostp.adapters } })))
  ∧ ∀ (s : State) (n : Nat),
    (∀ r, s.link.groups.find? (fun r => r.number = n && r.state = 2) = some r →
      let got (m : Nat) : Option BindingHash := s.link.hashesIn.find? fun h => h.group = n && h.module = m
      let come : Prop := ∀ m, m ∈ r.children → got m ≠ none
      let agree : Prop := ∀ m, m ∈ r.children → ∃ h, got m = some h ∧ h.hash = some r.hash
      let told (bind : Bool) : State := r.children.foldl (fun s m => transmit s m (.announce n bind))
        { s with link := { s.link with
          hashesIn := s.link.hashesIn.filter (·.group ≠ n), hashesOut := s.link.hashesOut.filter (·.group ≠ n) } }
      let ours : Prop := r.root = s.link.moduleId
      let sent : Prop := ∃ h, h ∈ s.link.hashesOut ∧ h.group = n
      let rest : List Group := s.link.groups.filter fun x => !(x.number = n && x.state = 2)
      (¬ come → ∀ bind, exec (.bindingAnnouncement n bind) s = .next s)
      ∧ (come → ¬ ours → ¬ sent → ∀ bind up, (up = some r.hash ∧ agree) ∨ (up = none ∧ ¬ agree) →
          let h : BindingHash := { group := n, module := r.parent, hash := up }
          exec (.bindingAnnouncement n bind) s = .next
            (transmit { s with link := { s.link with hashesOut := s.link.hashesOut ++ [h] } } r.parent (.hash h)))
      ∧ (come → ¬ agree → ours ∨ sent → exec (.bindingAnnouncement n true) s = .next s)
      ∧ (agree → ours → exec (.bindingAnnouncement n false) s = .next s)
      ∧ ((come ∧ ¬ agree ∧ ours) ∨ (come ∧ ¬ ours ∧ sent) → ∀ id c, r.card = some id → cardOf s id = some c →
          ∃ s1, exec (.bindingAnnouncement n false) s = .next (cmdDone s1 c 5)
            ∧ s1 = { told false with link := { (told false).link with groups := rest } })
      ∧ (agree → ours ∨ sent → groupOf s n = none →
          let bound : Group := { r with state := 0, card := none }
          let vas := (List.range (r.wlen / 65536)).map fun i => r.window + i * 65536
          (mapAll (told true) (tagOf r.asid r.window) vas = none → ∀ id c, r.card = some id → cardOf s id = some c →
            ∃ s1, exec (.bindingAnnouncement n true) s = .next (cmdDone s1 c 7)
              ∧ s1 = { told true with link := { (told true).link with groups := rest } })
          ∧ ∀ s3, mapAll (told true) (tagOf r.asid r.window) vas = some s3 →
            ∃ t, exec (.bindingAnnouncement n true) s = .next t ∧ groupOf t n = some bound
              ∧ (∀ i, i < r.wlen / 65536 → pagePresent t (tagOf r.asid r.window) (r.window + i * 65536) = true)
              ∧ ∀ id c, r.card = some id → cardOf s3 id = some c → ∃ s4, t = cmdDone s4 c 0
                ∧ s4 = { sentAs s3 s4 with
                    mem := s4.mem, hostp := { s3.hostp with far := s4.hostp.far, farOut := s4.hostp.farOut }
                    link := { (sentAs s3 s4).link with groups := rest ++ [bound] } }
                ∧ (r.window % 65536 = 0 → r.wlen % 65536 = 0 → ∀ i p, i < r.wlen →
                    pageOf s3 (tagOf r.asid r.window) (r.window + i) = some p →
                    (∀ a x b c, p.far = some (a, x, b, c) → x % 65536 = 0) → byteIn s4 (pagePlace p (r.window + i)) = 0)
                ∧ (r.window % 65536 = 0 → r.wlen % 65536 = 0 →
                    ∀ x, (∀ i p, i < r.wlen → pageOf s3 (tagOf r.asid r.window) (r.window + i) = some p →
                      pagePlace p (r.window + i) ≠ .dram x) → byteAt s4.mem x = byteAt s3.mem x)))
    ∧ ∀ r, s.link.groups.find? (fun r => r.number = n && r.state = 2) = none → groupOf s n = some r →
      (∀ id c, r.card = some id → cardOf s id = some c →
        (mayUnbind s r = true → r.also = [] → ∃ s1, exec (.bindingAnnouncement n false) s = .next (cmdDone s1 c 0)
          ∧ groupOf s1 n = none ∧ (r.state ≠ 1 → s1.eng = s.eng)
          ∧ s1 = { sentAs s s1 with
              link := { (sentAs s s1).link with groups := s1.link.groups }, eng := { s.eng with lost := s1.eng.lost } })
        ∧ (mayUnbind s r = false → exec (.bindingAnnouncement n false) s = .next s))
      ∧ (r.card = none → r.members ≠ 1 → r.state ≠ 1 →
        ∃ t, exec (.bindingAnnouncement n false) s = .next t ∧ groupOf t n = some { r with state := 1 }
          ∧ ∀ k, k ∈ t.eng.colls → k.group ≠ n)

/-- A host's writes in the mailbox, and what it reads there (R437): a request's bytes are taken unless busy is 1, a 1 in busy sets it, and every other
byte stays; the words and the areas stand where R437 places them. Which other bytes read zero is the model's choice (assumption log 55). -/
def Claims.MailboxArea : Prop :=
  ∀ (s : State) (off : Nat) (bs : List Byte),
    (s.fw.busy = true → 0x100 ≤ off → off + bs.length ≤ 0x200 → mailWrite s off bs = s)
    ∧ (s.fw.busy = false → s.fw.request.length = 0x100 → 0x100 ≤ off → off + bs.length ≤ 0x200 →
      ∃ r, mailWrite s off bs = { s with fw := { s.fw with request := r } } ∧ r.length = 0x100
        ∧ ∀ i, r.getD i 0 = if off ≤ i + 0x100 ∧ i + 0x100 < off + bs.length then bs.getD (i + 0x100 - off) 0 else s.fw.request.getD i 0)
    ∧ (∀ b : Byte, mailWrite s 3 [b] = if 128 ≤ b.toNat then { s with fw := { s.fw with busy := true } } else s)
    ∧ ((∀ i, i < bs.length → off + i ≠ 3 ∧ ¬ (0x100 ≤ off + i ∧ off + i < 0x200)) → mailWrite s off bs = s)
    ∧ (mailboxBytes s).length = 0x4000
    ∧ mailboxWord s 0 = s.fw.phase % 16 * 2 ^ 60 + s.fw.step % 256 * 2 ^ 52 + (if s.fw.busy then 2 ^ 31 else 0) + s.fw.result % 256
    ∧ (∀ c, c < 64 → bit (mailboxWord s 8) c = !(clusterRec s c).lost)
    ∧ ((mailboxBytes s).drop 0x100).take 0x100 = fit 0x100 s.fw.request
    ∧ (mailboxBytes s).drop 0x1000 = fit 0x3000 s.fw.response

/-- The mailbox (R437, R440 to R442, R444 to R447): what each operation answers and changes once the module is ready and a host has set busy, each
refusal, and the results of an opcode that no operation has and of a module that is not ready. The operands' places, the layout of wear-read and the
recorder's results are the model's choices (assumption log 55, 56); that the keys' and the signatures' numbers stand most significant byte first is
its reading of R441 (assumption log 109). -/
def Claims.MailboxOperations : Prop :=
  ∀ s : State,
    let arg (off n : Nat) : Nat := field s.fw.request off n
    let asks (op : Nat) : Prop := arg 0 2 = op ∧ s.fw.phase = 2
    let ends (i : Instr) (result : Nat) (response : List Byte) (f : Firmware) : Prop :=
      exec i s = .next { s with fw := { f with busy := false, result := result, response := response } }
    let table : List (Instr × Nat) := [(.attest, 1), (.certificate, 2), (.enrolKey, 3), (.configure, 4), (.scrubAdd, 5),
      (.scrubRemove, 6), (.recordStart, 7), (.recordStop, 8), (.replayStart, 9), (.wearRead, 10), (.errorLogRead, 11)]
    let record := fit 64 (s.fw.request.drop 8)
    let signed := fit 64 (s.fw.request.drop 0x48)
    let lev := s.fw.lev
    let recording : Prop := lev.state = 1 ∨ lev.state = 2
    let buffer (va n : Nat) : Prop := va / 2 ^ 52 % 16 = 15 ∧ va + n ≤ 2 ^ 56
    (∀ i op, (i, op) ∈ table → s.fw.busy = false ∨ (arg 0 2 ≠ op ∧ 1 ≤ arg 0 2 ∧ arg 0 2 ≤ 11) → exec i s = .next s)
    ∧ (s.fw.busy = true →
    (∀ i op, (i, op) ∈ table →
      (arg 0 2 = 0 ∨ 11 < arg 0 2 → ends i 1 [] s.fw)
      ∧ (arg 0 2 = op → s.fw.phase < 2 ∨ (s.fw.phase = 3 ∧ op ≠ 1 ∧ op ≠ 11) → ends i 4 [] s.fw))
    ∧ (asks 1 → ∃ report, report.length = 128 ∧ ends .attest 0 (report ++ fit 64 (Config.signature report)) s.fw
        ∧ report.take 32 = fit 32 ((s.fw.request.drop 8).take 32) ∧ (report.drop 32).take 32 = fit 32 Config.romDigest
        ∧ (report.drop 64).take 32 = (if s.fw.cfg.raw = [] then List.replicate 32 0 else sha256 s.fw.cfg.raw)
        ∧ (∀ c, c < 64 → bit (field report 96 8) c = !(clusterRec s c).lost)
        ∧ field report 104 4 = s.fw.boots % 2 ^ 32 ∧ field report 108 4 = s.fw.days % 2 ^ 32 ∧ field report 112 16 = 0)
    ∧ (asks 2 → ends .certificate 0 (toBytes 4 Config.certificate.length ++ Config.certificate) s.fw)
    ∧ (asks 3 → (s.fw.key = none → ends .enrolKey 0 [] { s.fw with key := some record })
        ∧ (s.fw.key ≠ none → ends .enrolKey 2 [] s.fw ∨ ends .enrolKey 4 [] s.fw))
    ∧ (asks 4 → (s.fw.key = none → ends .configure 4 [] s.fw)
        ∧ ∀ key, s.fw.key = some key →
          (signatureValid key record signed = false → ends .configure 3 [] s.fw)
          ∧ (signatureValid key record signed = true →
            let in_ (off n lo hi : Nat) : Prop := lo ≤ field record off n ∧ field record off n ≤ hi
            let good : Prop := field record 0 4 = 1 ∧ s.fw.cfg.seq < field record 4 4 ∧ in_ 8 4 12000 24000 ∧ in_ 0x0C 1 0 64
              ∧ in_ 0x0D 1 1 99 ∧ in_ 0x0E 1 1 49 ∧ field record 0x0F 1 = 0 ∧ in_ 0x10 2 1 100 ∧ in_ 0x12 2 1 200
              ∧ in_ 0x14 4 1 999 ∧ field record 0x18 40 = 0
            (¬ good → ends .configure 2 [] s.fw)
            ∧ (good → ends .configure 0 [] { s.fw with cfg := {
                raw := record, seq := field record 4 4, cap := field record 8 4, scrub := field record 0x0C 1
                ring := field record 0x0D 1, bond := field record 0x0E 1, laser := field record 0x10 2
                sram := field record 0x12 2, dram := field record 0x14 4 } })))
    ∧ (asks 5 → ∀ k, k < 4096 → (∀ e, e ∈ s.fw.scrubs → e.entry ≠ k) → (∀ j, j < k → ∃ e, e ∈ s.fw.scrubs ∧ e.entry = j) →
        (arg 8 2 < 2 ^ 14 → asidExists s (arg 8 2) = true → scrubShape s (arg 8 2) (arg 0x10 8) ≠ none →
          ends .scrubAdd 0 (toBytes 8 k)
            { s.fw with scrubs := s.fw.scrubs ++ [{ entry := k, asid := arg 8 2, recVa := arg 0x10 8 }] })
        ∧ (asidExists s (arg 8 2) = false ∨ scrubShape s (arg 8 2) (arg 0x10 8) = none → ends .scrubAdd 2 [] s.fw))
    ∧ (asks 6 → ((∃ e, e ∈ s.fw.scrubs ∧ e.entry = arg 8 8) →
          ends .scrubRemove 0 [] { s.fw with scrubs := s.fw.scrubs.filter (·.entry ≠ arg 8 8) })
        ∧ ((∀ e, e ∈ s.fw.scrubs → e.entry ≠ arg 8 8) → ends .scrubRemove 2 [] s.fw))
    ∧ (asks 7 → (jobAt s (arg 8 8) = none ∨ ¬ buffer (arg 0x10 8) (arg 0x18 8) ∨ recording → ends .recordStart 2 [] s.fw)
        ∧ ∀ j, jobAt s (arg 8 8) = some j → buffer (arg 0x10 8) (arg 0x18 8) → ¬ recording →
          ends .recordStart 0 [] { s.fw with lev := { state := 1, job := j.id, log := arg 0x10 8, bytes := arg 0x18 8 } })
    ∧ (asks 8 → (lev.state = 1 ∨ lev.state = 4 →
          ends .recordStop 0 (toBytes 8 lev.count ++ toBytes 8 (if lev.overflow then 1 else 0)) { s.fw with lev := { lev with state := 0 } })
        ∧ (lev.state ≠ 1 → lev.state ≠ 4 → ends .recordStop 2 [] s.fw))
    ∧ (asks 9 → (jobAt s (arg 8 8) = none ∨ ¬ buffer (arg 0x10 8) (64 * arg 0x18 8) ∨ recording → ends .replayStart 2 [] s.fw)
        ∧ ∀ j, jobAt s (arg 8 8) = some j → buffer (arg 0x10 8) (64 * arg 0x18 8) → ¬ recording →
        ends .replayStart 0 [] { s.fw with lev := {
          state := if arg 0x18 8 = 0 then 5 else 2, job := j.id, log := arg 0x10 8, bytes := 64 * arg 0x18 8 } })
    ∧ (asks 10 → ends .wearRead 0 (toBytes 8 s.fw.days
        ++ s.fw.wear.flatMap fun w => toBytes 4 w.1 ++ toBytes 4 w.2.1 ++ toBytes 8 w.2.2) s.fw)
    ∧ (asks 11 ∨ (arg 0 2 = 11 ∧ s.fw.phase = 3) →
        (65536 ≤ arg 8 8 → ends .errorLogRead 2 [] s.fw)
        ∧ (arg 8 8 < 65536 → ∃ es : List LogEntry, es.length ≤ 64 ∧ (∀ e, e ∈ es → e ∈ s.fw.log)
            ∧ (∀ e, e ∈ s.fw.log → (∀ x, x ∈ s.fw.log → (x.seq - 1) % 65536 = (e.seq - 1) % 65536 → x = e) →
                ((e.seq - 1) % 65536 + 65536 - arg 8 8) % 65536 < 64 → e ∈ es)
            ∧ ends .errorLogRead 0 (es.flatMap fun e => toBytes 8 e.seq ++ toBytes 1 e.kind ++ toBytes 1 e.cluster ++ toBytes 2 e.asid
                ++ toBytes 4 e.detail ++ toBytes 8 e.addr ++ toBytes 8 e.aux ++ List.replicate 32 0) s.fw)))

/-- Clocks, wear and the scrubber (R399, R438, R442, R446, R447): while a cause stands a clock falls one step within its range, and rises one when none
does, each logged; a cluster above 105 °C stops and runs again at 95 °C; a measurement is kept for 30 days, with the days until the earliest line
crosses its failure limit; an indicator at its threshold is logged, with its action; and a pass over a tensor that agrees with its digest changes no
value, one that does not fails its entry and is logged. How an indicator's unit is numbered, the fit and its whole days, and the loss of a cluster
without a spare are the model's choices (assumption log 58, 65, 110). -/
def Claims.FirmwareUpkeep : Prop :=
  (∀ (s : State) (cl : Nat) (c : Cluster), c = clusterRec s cl → cl < 64 → c.lost = false →
    let becomes (i : Instr) (c1 : Cluster) (e : LogEntry) : Prop := ∃ t, exec i s = .next t ∧ clusterRec t cl = c1
      ∧ (∀ k, k ≠ cl → clusterRec t k = clusterRec s k) ∧ t.fw.log.getLast? = some e
      ∧ t = { s with fw := { s.fw with clusters := t.fw.clusters, log := t.fw.log, logSeq := s.fw.logSeq + 1 } }
    let entry (kind detail : Nat) : LogEntry := {
      seq := s.fw.logSeq, kind := kind, cluster := cl, asid := 0, detail := detail, addr := 0, aux := 0 }
    let heat : Nat := ((s.fw.sensors.temps.find? (·.1 = cl)).map (·.2)).getD 0
    let cause : Prop := 95 < heat ∨ s.fw.cfg.cap < s.fw.sensors.power ∨ ∃ w, w ∈ s.fw.wear ∧ w.1 = 4 ∧ w.2.1 = cl ∧ w.2.2 < s.fw.cfg.sram
    (cause → 12 < c.clock → becomes (.clockChange cl) { c with clock := c.clock - 1 } (entry 5 (c.clock - 1)))
    ∧ (¬ cause ∨ c.clock ≤ 12 → exec (.clockChange cl) s = .next s)
    ∧ (¬ cause → c.clock < c.target → becomes (.clockRaise cl) { c with clock := c.clock + 1 } (entry 5 (c.clock + 1)))
    ∧ (cause ∨ c.target ≤ c.clock → exec (.clockRaise cl) s = .next s)
    ∧ (c.stopped = false → 105 < heat → becomes (.thermalStop cl) { c with stopped := true } (entry 7 0))
    ∧ (c.stopped = true ∨ heat ≤ 105 → exec (.thermalStop cl) s = .next s)
    ∧ (cl = s.fw.cooled → c.stopped = true → heat ≤ 95 → ∃ t, exec .clusterCooled s = .next t
        ∧ (∀ k, clusterRec t k = if k = cl then { c with stopped := false } else clusterRec s k)
        ∧ t = { s with fw := { s.fw with clusters := t.fw.clusters } })
    ∧ (cl = s.fw.cooled → c.stopped = false ∨ 95 < heat → exec .clusterCooled s = .next s))
  ∧ (∀ s : State,
    let reached (w : Nat × Nat × Nat) : Prop := (w.1 = 1 ∧ s.fw.cfg.ring ≤ w.2.2) ∨ (w.1 = 2 ∧ w.2.2 ≤ s.fw.cfg.laser)
      ∨ (w.1 = 3 ∧ s.fw.cfg.dram ≤ w.2.2) ∨ (w.1 = 4 ∧ w.2.2 < s.fw.cfg.sram) ∨ (w.1 = 5 ∧ s.fw.cfg.bond ≤ w.2.2)
    let now := s.fw.sensors.values
    let history := (s.fw.history ++ [now]).drop (s.fw.history.length + 1 - 43200)
    let spare (w : Nat × Nat × Nat) : Prop := (s.fab.spares.filter (·.1 = w.2.1 / 64)).length < 4
    let loses (w : Nat × Nat × Nat) : Prop := w.1 = 1 ∧ ¬ spare w ∧ 100 ≤ w.2.2
    ((∀ w, w ∈ now → ¬ reached w) → ∃ t, exec .wearMeasurement s = .next t
      ∧ t = { s with fw := { s.fw with wear := now, history := history, days := t.fw.days } }
      ∧ (∀ u y0 y1, s.fw.history = [[(1, u, y0)]] → now = [(1, u, y1)] → y1 < 100 →
          (y1 ≤ y0 → t.fw.days = 0xFFFFFFFF)
          ∧ (y0 < y1 → t.fw.days = (100 - y1) / (1440 * (y1 - y0)) ∨ t.fw.days = (100 - y1 + 1440 * (y1 - y0) - 1) / (1440 * (y1 - y0)))))
    ∧ ∀ w, now = [w] → reached w →
      ∃ t e, exec .wearMeasurement s = .next t ∧ t.fw.wear = [w] ∧ t.fw.history = history ∧ t.fw.log.getLast? = some e
        ∧ e.kind = 6 ∧ e.detail = w.1 ∧ e.aux = w.2.2
        ∧ (w.1 = 1 → spare w → (w.2.1 / 64, w.2.1 % 64) ∈ t.fab.spares)
        ∧ (loses w → (clusterRec t (w.2.1 % 64)).lost = true)
        ∧ (w.1 = 4 → w.2.1 < 64 → (clusterRec s w.2.1).lost = false → 12 < (clusterRec s w.2.1).clock →
            clusterRec t w.2.1 = { clusterRec s w.2.1 with clock := (clusterRec s w.2.1).clock - 1 })
        ∧ (¬ loses w → t.team = s.team ∧ t.others = s.others ∧ t.lm = s.lm))
  ∧ ∀ (s : State) (x : ScrubEntry) (r : Shape), s.fw.phase = 2 → s.fw.cfg.scrub ≠ 0 →
    s.fw.scrubs.find? (·.entry = s.fw.scrubNext) = some x → scrubShape s x.asid x.recVa = some r →
    (∀ va, va ∈ tensorVas r → gateAt s (scrubWho s x.asid (sectorOf va)) (sectorOf va) ≠ .wait) →
    (∀ va, va ∈ tensorVas r → scrubReads s x.asid va (elemBytes r) = true) → scrubReads s x.asid r.digest 32 = true →
    let data := (tensorVas r).flatMap fun va => readBytes s (scrubWho s x.asid va) va (elemBytes r)
    let same := sha256 data = readBytes s (scrubWho s x.asid r.digest) r.digest 32
    ∃ t, exec .scrub s = .next t ∧ SameMemory s t ∧ t.team = s.team ∧ t.others = s.others
      ∧ (same → t = { s with fab := t.fab, fw := { s.fw with scrubNext := scrubAfter s s.fw.scrubNext } })
      ∧ (¬ same → t.fw.scrubs = s.fw.scrubs.map (fun y => if y.entry = x.entry then { y with failed := true } else y)
          ∧ ∃ e, t.fw.log.getLast? = some e ∧ e.kind = 4 ∧ e.asid = x.asid ∧ e.detail = x.entry ∧ e.addr = r.base)

/-- Errors and losses (R350, R368, R370, R447): an uncorrectable error is logged, its page is retired, and the team that met it takes the
stop precisely at its S-word or L-word, at its boundary where it leaves or a word has begun (assumption log 60), the copy that met it pauses, and the queue whose card was fetched stops (R292, R339, R375); a lost cluster is fenced, and its teams, tasks, copies and buffered stores are gone. -/
def Claims.ErrorsAndLosses : Prop :=
  (∀ (s : State) (e : ErrorSite),
    let tag := tagOf e.asid e.addr
    let logged (t : State) : Prop := ∃ x, x ∈ t.fw.log ∧ x.seq = s.fw.logSeq ∧ x.kind = 1 ∧ x.asid = e.asid ∧ x.detail = e.cls
      ∧ x.addr = e.addr
    (e.team = none → e.engine = false → e.queue = none →
      ∃ t, exec (.uncorrectableError e) s = .next t ∧ logged t ∧ t.team = s.team ∧ t.others = s.others
        ∧ (e.cls = 1 ∨ e.cls = 2 → windowPage s tag e.addr = false → pagePresent t tag e.addr = false)
        ∧ (∀ a va, ¬ (a = tag ∧ va / 65536 = e.addr / 65536) → pagePresent t a va = pagePresent s a va)
        ∧ (e.cls ≠ 1 → e.cls ≠ 2 → t.mem = s.mem ∧ t.xl = s.xl))
    ∧ (∀ h x, e.team = some h → teamOf s h = some x → e.engine = false → e.queue = none →
      let later : Prop := x.place.run ≠ 1 ∨ x.ord.leave ≠ none ∨ midWord s h = true
      (¬ later → e.lane = false → e.line = false →
        ∃ s1 st, exec (.uncorrectableError e) s = .next (takeStop s1 st) ∧ s1.team = x ∧ logged s1 ∧ st.cause = 0x17
          ∧ st.reason = e.cls ∧ st.va = e.addr ∧ st.iva = x.pc.toNat)
      ∧ (x.place.run = 1 → e.lane = true ∨ e.line = true → x.sys.handler = true ∨ x.lane.queue = [] →
        ∃ t, exec (.uncorrectableError e) s = .next t ∧ logged t ∧ teamOf t h = some x)
      ∧ (x.place.run = 1 → e.line = true ∨ (e.lane = true ∧ x.scalarAtom = false) → x.sys.handler = false →
        ∀ w rest, x.lane.queue = w :: rest →
        ∃ s1 st, exec (.uncorrectableError e) s = .next (takeStop s1 st) ∧ s1.team = { x with lane := { x.lane with busy := false } }
          ∧ logged s1 ∧ st.iva = w.va ∧ st.word = w.word.toNat
          ∧ (e.line = false → st.cause = 0x17 ∧ st.reason = e.cls ∧ st.va = e.addr) ∧ (e.line = true → st.cause = 0x1B))
      ∧ (x.place.run ≠ 1 ∨ (later ∧ e.lane = false ∧ e.line = false)
          ∨ (e.lane = true ∧ e.line = false ∧ x.scalarAtom = true ∧ x.sys.handler = false ∧ x.lane.queue ≠ []) →
        ∃ t y st, exec (.uncorrectableError e) s = .next t ∧ logged t ∧ teamOf t h = some y ∧ st ∈ y.ord.stops ∧ st.cause = 0x17
          ∧ st.reason = e.cls ∧ st.va = e.addr ∧ y.pc = x.pc ∧ y.regs = x.regs))
    ∧ (∀ id c x, e.engine = true → e.queue = none → e.cls ≠ 4 → e.work = some id → copyOf s id = some c → c.paused = false →
        c.started = true ∨ c.moved = true ∨ copyMayRun s c = true → teamOf s c.team = some x → x.place.run ≤ 3 →
      ∃ t y st, exec (.uncorrectableError e) s = .next t ∧ logged t ∧ copyOf t id = some { c with paused := true, started := true }
        ∧ teamOf t c.team = some y ∧ st ∈ y.ord.stops ∧ st.cause = 0x17 ∧ st.reason = e.cls ∧ st.va = e.addr ∧ st.iva = c.tmplVa)
    ∧ ∀ qid q, e.queue = some qid → e.cls ≠ 1 → e.cls ≠ 2 → queueOf s qid = some q → q.status < 2 →
      ∃ t, exec (.uncorrectableError e) s = .next t ∧ logged t
        ∧ queueOf t qid = some { q with status := 2, faultva := q.ring + 256 + 128 * (q.head % 2 ^ q.k) })
  ∧ ∀ (s : State) (cl : Nat), cl < 64 → (clusterRec s cl).lost = false →
    ∃ t e, exec (.clusterLoss cl) s = .next t ∧ (clusterRec t cl).lost = true ∧ (∀ k, k ≠ cl → clusterRec t k = clusterRec s k)
      ∧ t.fw.log.getLast? = some e ∧ e.kind = 3 ∧ e.cluster = cl
      ∧ (∀ x, x ∈ t.team :: t.others → 1 ≤ x.place.run → x.place.run ≤ 3 → x.place.cluster ≠ cl)
      ∧ (∀ k, k ∈ t.eng.tasks → k.core / 16 ≠ cl) ∧ (∀ k, k ∈ t.eng.copies → k.cluster ≠ cl)
      ∧ (∀ x, x ∈ t.sb → x.core / 16 ≠ cl)
      ∧ ((∀ x, x ∈ s.sb → x.marked = false) → ∀ c, c ∈ t.fab.copies →
          c ∈ s.fab.copies ∧ c.holder ≠ cl ∧ (64 ≤ c.holder → (c.holder - 64) / 16 ≠ cl))
      ∧ (∀ x, teamOf s x.card.handle = some x → 1 ≤ x.place.run → x.place.run ≤ 3 → x.place.cluster = cl →
          ∀ l, levelRec s x.card.launch = some l → l.state = 0 →
            ∃ l1, levelRec t x.card.launch = some l1 ∧ (l1.state = 3 ∨ l1.state = 4))

/-- Bring-up (R371, R436, R438, R447), step by step with what the sensors report: a failed self-check, too few fibres and a bus that is too long fail
the module at their steps; each bus has four spares; the clusters that fail a step are lost, out of every domain, and logged; with step 7 every memory
is empty, with step 8 the device queue stands and the live clusters are in domain 0 at the clocks that their margins allow, and with step 9 the module
is ready. That a step is one event, what it reads of the sensors, and the window of a bus as its flight and 2 slots, are the model's choices (assumption
log 4, 5, 58). -/
def Claims.BringUp : Prop :=
  ∀ s : State,
    let r := s.fw.report
    let fails (f : Firmware) (n : Nat) : Prop := exec .bringUp s = .next { s with fw := { f with phase := 3, step := n } }
    let loses (t : State) (n : Nat) (out : Nat → Prop) : Prop :=
      (∀ c, c < 64 → (out c → (clusterRec s c).lost = false → clusterRec t c = { clusterRec s c with domain := 8, lost := true }
            ∧ ∃ e, e ∈ t.fw.log ∧ s.fw.logSeq ≤ e.seq ∧ e.kind = 3 ∧ e.cluster = c)
          ∧ (¬ out c ∨ (clusterRec s c).lost = true → clusterRec t c = clusterRec s c))
        ∧ t.fw = { s.fw with phase := 1, step := n, clusters := t.fw.clusters, log := t.fw.log, logSeq := t.fw.logSeq }
    let first := { s.fw with boots := s.fw.boots + 1, busy := false }
    (s.fw.phase = 0 → (r.romOk = false → fails first 1)
      ∧ (r.romOk = true → exec .bringUp s = .next { s with fw := { first with phase := 1, step := 1 } }))
    ∧ (s.fw.phase = 1 → s.fw.step = 1 → (r.fibres < 22 → fails s.fw 2)
      ∧ (22 ≤ r.fibres → exec .bringUp s = .next { s with fw := { s.fw with step := 2 } }))
    ∧ (s.fw.phase = 1 → s.fw.step = 2 →
      let served (x : (Nat × Nat) × Nat) : Bool := decide (((r.spares.take x.2).filter (·.1 = x.1.1)).length < 4)
      ∃ t, exec .bringUp s = .next t ∧ loses t 3 (fun c => ∃ x, x ∈ r.spares.zipIdx ∧ served x = false ∧ x.1.2 = c)
        ∧ t = { s with fw := t.fw, fab := { s.fab with spares := (r.spares.zipIdx.filter served).map (·.1) } })
    ∧ (s.fw.phase = 1 → s.fw.step = 3 → ((∃ b, b < 8 ∧ 22 < r.flight.getD b 0) → fails s.fw 4)
      ∧ ((∀ b, b < 8 → r.flight.getD b 0 ≤ 22) → ∃ t, exec .bringUp s = .next t
        ∧ t = { s with fw := { s.fw with step := 4 }, fab := { s.fab with window := t.fab.window } }
        ∧ ∀ b, b < 8 → t.fab.window.getD b 0 = r.flight.getD b 0 + 2))
    ∧ (s.fw.phase = 1 → s.fw.step = 4 ∨ s.fw.step = 5 → ∃ t, exec .bringUp s = .next t
        ∧ loses t (s.fw.step + 1) (fun c => (s.fw.step + 1, c) ∈ r.failed) ∧ t = { s with fw := t.fw })
    ∧ (s.fw.phase = 1 → s.fw.step = 6 → ∃ t, exec .bringUp s = .next t ∧ loses t 7 (fun c => (7, c) ∈ r.failed)
        ∧ t = { s with
            team := {}, others := [], mem := [], lm := [], tiles := [], sb := [], posted := [], cores := {}, hand := [], eng := {}, fw := t.fw
            fab := { window := s.fab.window, spares := s.fab.spares } })
    ∧ (s.fw.phase = 1 → s.fw.step = 7 →
        ∃ t q, exec .bringUp s = .next t ∧ t.fw.phase = 1 ∧ t.fw.step = 8
          ∧ queueOf t { cluster := 0, index := 0 } = some q ∧ q.kind = 2 ∧ q.asid = 0 ∧ q.prio = 7 ∧ q.head = 0 ∧ q.status = 0
          ∧ q.ring = mailboxWord t 0x18 ∧ q.k = mailboxWord t 0x20 ∧ q.ring / 2 ^ 52 = 15 ∧ q.ring % 256 = 0 ∧ 1 ≤ q.k ∧ q.k ≤ 16
          ∧ t.sched = { queues := [q] } ∧ t.team = s.team ∧ t.others = s.others ∧ t.lm = s.lm ∧ t.sb = s.sb ∧ t.eng = s.eng ∧ t.link = {}
          ∧ ∀ c, c < 64 →
            ((clusterRec s c).lost = true → clusterRec t c = clusterRec s c)
            ∧ ((clusterRec s c).lost = false → ∃ n, 12 ≤ n ∧ n ≤ 24
                ∧ clusterRec t c = { clusterRec s c with domain := 0, clock := n, target := n }
                ∧ ∀ m, r.clocks.find? (·.1 = c) = some (c, m) → 12 ≤ m → m ≤ 24 → n = m))
    ∧ (s.fw.phase = 1 → s.fw.step = 8 → exec .bringUp s = .next { s with fw := { s.fw with phase := 2, step := 9 } })
    ∧ (2 ≤ s.fw.phase → exec .bringUp s = .next s)

/-- Firmware (R350, R368, R370, R371, R399, R436 to R447). The window of a bus, the mailbox's slots, the
layouts of its answers, and thresholds and packing are the model's choices (assumption log 5, 55, 56, 58). -/
def Obligations.FirmwareServices : Prop :=
  Claims.MailboxArea ∧ Claims.MailboxOperations ∧ Claims.FirmwareUpkeep ∧ Claims.ErrorsAndLosses ∧ Claims.BringUp

/-- AN INVARIANT THAT EVERY STEP KEEPS: every memory of the module stays in its canonical form, and every handoff copy holds a sector of
64 bytes (R91). -/
def Obligations.MemoryInvariantStep : Prop :=
  ∀ s t : State, s.memOk → step s = .next t → t.memOk

/-- The module at power-on (R436): bring-up has not run, no team, queue, region or page exists, and every memory is in canonical form;
that memory then reads as zero, and that a register with no reset value holds zero, is the model's choice (assumption log 1). -/
def Obligations.ResetState : Prop :=
  State.reset.memOk ∧ State.reset.fw.phase = 0 ∧ State.reset.team.place.run = 0 ∧ State.reset.others = []
    ∧ State.reset.sched.queues = [] ∧ State.reset.xl.regions = [] ∧ State.reset.xl.pages = [] ∧ State.reset.link.state = 0
    ∧ (∀ w va, readByte State.reset w va = 0) ∧ ∀ r, readReg State.reset r = 0
end

