-- ==== Sys2Proof/Laws/Sparse.lean ====
section
/-! SUPPORT. The laws of sparse tables: a key set reads back, other keys keep their value, and the canonical form is kept;
and the same for the bytes of a memory. -/

namespace Sys2Proof.Machine

variable {α : Type}

/-- A table without a key reads the default there and is unchanged elsewhere. -/
theorem sget_serase (dflt : α) (m : SMap α) (i j : Nat) :
    sget dflt (serase m i) j = if j = i then dflt else sget dflt m j := by
  induction m with
  | nil => simp [serase, sget]
  | cons e m ih =>
    obtain ⟨k, v⟩ := e
    simp only [serase]
    by_cases hk : i = k
    · subst hk; simp only [if_pos, ih, sget]
      by_cases hj : j = i <;> simp [hj]
    · simp only [if_neg hk, sget, ih]
      by_cases hj : j = k
      · subst hj; simp [Ne.symm hk]
      · simp [hj]

/-- An inserted entry is found at its key when the key is not listed. -/
theorem sget_sinsert (dflt : α) (m : SMap α) (i j : Nat) (x : α) (h : ∀ e ∈ m, e.1 ≠ i) :
    sget dflt (sinsert m i x) j = if j = i then x else sget dflt m j := by
  induction m with
  | nil => simp [sinsert, sget]
  | cons e m ih =>
    obtain ⟨k, v⟩ := e
    have hk : k ≠ i := h (k, v) (by simp)
    have ih' := ih fun e he => h e (by simp [he])
    simp only [sinsert]
    split
    · simp only [sget, ih']
      by_cases hj : j = k
      · subst hj; simp [hk]
      · simp [hj]
    · simp [sget]

theorem ne_of_mem_serase (m : SMap α) (i : Nat) : ∀ e ∈ serase m i, e.1 ≠ i := by
  induction m with
  | nil => simp [serase]
  | cons e m ih =>
    obtain ⟨k, v⟩ := e
    simp only [serase]
    split
    · exact ih
    · rename_i hk
      intro e he
      rcases List.mem_cons.1 he with rfl | he
      · exact fun h => hk h.symm
      · exact ih e he

/-- READ AFTER WRITE: the key set reads the value, every other key reads as before. -/
theorem sget_sset [DecidableEq α] (dflt : α) (m : SMap α) (i j : Nat) (x : α) :
    sget dflt (sset dflt m i x) j = if j = i then x else sget dflt m j := by
  unfold sset
  split
  · rename_i hx; subst hx; exact sget_serase _ m i j
  · rw [sget_sinsert _ _ _ _ _ (ne_of_mem_serase m i), sget_serase]
    by_cases hj : j = i <;> simp [hj]

@[simp] theorem sget_sset_same [DecidableEq α] (dflt : α) (m : SMap α) (i : Nat) (x : α) :
    sget dflt (sset dflt m i x) i = x := by simp [sget_sset]

theorem sget_sset_other [DecidableEq α] (dflt : α) (m : SMap α) {i j : Nat} (x : α) (h : j ≠ i) :
    sget dflt (sset dflt m i x) j = sget dflt m j := by simp [sget_sset, h]

theorem swfFrom_weaken [DecidableEq α] (dflt : α) (m : SMap α) {lo hi : Nat} (h : lo ≤ hi)
    (w : swfFrom dflt hi m = true) : swfFrom dflt lo m = true := by
  cases m with
  | nil => rfl
  | cons e m =>
    obtain ⟨k, v⟩ := e
    simp only [swfFrom, Bool.and_eq_true, decide_eq_true_eq] at w ⊢
    exact ⟨⟨Nat.le_trans h w.1.1, w.1.2⟩, w.2⟩

theorem swfFrom_serase [DecidableEq α] (dflt : α) (m : SMap α) (i : Nat) : ∀ lo, swfFrom dflt lo m = true →
    swfFrom dflt lo (serase m i) = true := by
  induction m with
  | nil => intro lo _; rfl
  | cons e m ih =>
    obtain ⟨k, v⟩ := e
    intro lo w
    simp only [swfFrom, Bool.and_eq_true, decide_eq_true_eq] at w
    simp only [serase]
    split
    · exact swfFrom_weaken dflt _ (Nat.le_succ_of_le w.1.1) (ih _ w.2)
    · simp only [swfFrom, Bool.and_eq_true, decide_eq_true_eq]
      exact ⟨w.1, ih _ w.2⟩

theorem swfFrom_sinsert [DecidableEq α] (dflt : α) (m : SMap α) (i : Nat) (x : α) (hx : x ≠ dflt)
    (h : ∀ e ∈ m, e.1 ≠ i) : ∀ lo, lo ≤ i → swfFrom dflt lo m = true → swfFrom dflt lo (sinsert m i x) = true := by
  induction m with
  | nil => intro lo hlo _; simp [sinsert, swfFrom, hlo, hx]
  | cons e m ih =>
    obtain ⟨k, v⟩ := e
    intro lo hlo w
    simp only [swfFrom, Bool.and_eq_true, decide_eq_true_eq] at w
    have hk : k ≠ i := h (k, v) (by simp)
    simp only [sinsert]
    split
    · rename_i hki
      simp only [swfFrom, Bool.and_eq_true, decide_eq_true_eq]
      exact ⟨w.1, ih (fun e he => h e (by simp [he])) _ hki w.2⟩
    · rename_i hki
      simp only [swfFrom, Bool.and_eq_true, decide_eq_true_eq]
      exact ⟨⟨hlo, hx⟩, ⟨by omega, w.1.2⟩, w.2⟩

/-- Setting a key keeps the canonical form. -/
theorem swf_sset [DecidableEq α] (dflt : α) (m : SMap α) (i : Nat) (x : α) (w : swf dflt m = true) :
    swf dflt (sset dflt m i x) = true := by
  unfold sset swf
  split
  · exact swfFrom_serase dflt m i 0 w
  · rename_i hx
    exact swfFrom_sinsert dflt _ i x hx (ne_of_mem_serase m i) 0 (Nat.zero_le _) (swfFrom_serase dflt m i 0 w)

/-- A byte written reads back, and every other byte reads as before. -/
theorem byteAt_setByte (m : SMap Byte) (a b : Nat) (x : Byte) :
    byteAt (setByte m a x) b = if b = a then x else byteAt m b := sget_sset 0 m a b x

theorem wf_setByte (m : SMap Byte) (a : Nat) (x : Byte) (w : Memory.wf m = true) : Memory.wf (setByte m a x) = true :=
  swf_sset 0 m a x w

/-- Writing bytes keeps the canonical form. -/
theorem wf_setBytes (bs : List Byte) : ∀ (m : SMap Byte) (a : Nat), Memory.wf m = true → Memory.wf (setBytes m a bs) = true := by
  induction bs with
  | nil => intro m a w; exact w
  | cons b bs ih => intro m a w; exact ih _ _ (wf_setByte m a b w)

/-- Bytes written from an address read back in order, and every byte outside them reads as before. -/
theorem byteAt_setBytes (bs : List Byte) : ∀ (m : SMap Byte) (a x : Nat),
    byteAt (setBytes m a bs) x = if a ≤ x ∧ x < a + bs.length then bs.getD (x - a) 0 else byteAt m x := by
  induction bs with
  | nil =>
    intro m a x
    have h : ¬ (a ≤ x ∧ x < a + 0) := by omega
    exact (if_neg h).symm
  | cons b bs ih =>
    intro m a x
    rw [setBytes, ih, byteAt_setByte, List.length_cons]
    by_cases h1 : x = a
    · subst h1
      have h2 : ¬ (x + 1 ≤ x ∧ x < x + 1 + bs.length) := by omega
      rw [if_neg h2]
      simp
    · by_cases h2 : a + 1 ≤ x ∧ x < a + 1 + bs.length
      · have h3 : a ≤ x ∧ x < a + (bs.length + 1) := by omega
        obtain ⟨k, hk⟩ : ∃ k, x - a = k + 1 := ⟨x - a - 1, by omega⟩
        have h4 : x - (a + 1) = k := by omega
        simp [h2, h3, hk, h4]
      · have h3 : ¬ (a ≤ x ∧ x < a + (bs.length + 1)) := by omega
        rw [if_neg h2, if_neg h1, if_neg h3]

theorem swfFrom_filter [DecidableEq α] (dflt : α) (p : Nat × α → Bool) (m : SMap α) : ∀ lo, swfFrom dflt lo m = true →
    swfFrom dflt lo (m.filter p) = true := by
  induction m with
  | nil => intro lo _; rfl
  | cons e m ih =>
    obtain ⟨k, v⟩ := e
    intro lo w
    simp only [swfFrom, Bool.and_eq_true, decide_eq_true_eq] at w
    by_cases h : p (k, v) = true
    · rw [List.filter_cons_of_pos h]
      simp only [swfFrom, Bool.and_eq_true, decide_eq_true_eq]
      exact ⟨w.1, ih _ w.2⟩
    · rw [List.filter_cons_of_neg h]
      exact swfFrom_weaken dflt _ (Nat.le_succ_of_le w.1.1) (ih _ w.2)

/-- Making bytes zero keeps the canonical form. -/
theorem wf_clearBytes (m : SMap Byte) (a n : Nat) (w : Memory.wf m = true) : Memory.wf (clearBytes m a n) = true :=
  swfFrom_filter 0 _ m 0 w

/-- Bytes made zero read zero, and every other byte reads as before. -/
theorem byteAt_clearBytes (m : SMap Byte) (a n x : Nat) :
    byteAt (clearBytes m a n) x = if a ≤ x ∧ x < a + n then 0 else byteAt m x := by
  unfold clearBytes byteAt
  induction m with
  | nil => simp [sget]
  | cons e m ih =>
    obtain ⟨k, v⟩ := e
    by_cases h : a ≤ k ∧ k < a + n
    · have : ¬ (k < a ∨ a + n ≤ k) := by omega
      rw [List.filter_cons_of_neg (by simpa using this), ih]
      by_cases hx : x = k
      · subst hx; simp [h]
      · simp [sget, hx]
    · have : k < a ∨ a + n ≤ k := by omega
      rw [List.filter_cons_of_pos (by simpa using this)]
      simp only [sget, ih]
      by_cases hx : x = k
      · subst hx; simp [h]
      · simp [hx]

@[simp] theorem length_bytesAt (m : SMap Byte) (n : Nat) : ∀ a, (bytesAt m a n).length = n := by
  induction n with
  | zero => intro a; rfl
  | succ n ih => intro a; simp [bytesAt, ih]

end Sys2Proof.Machine
end

