-- ==== Sys2Proof/Laws/State.lean ====
section
/-! SUPPORT. Each field of the state after each plain update, so that no proof unfolds a record update. -/

namespace Sys2Proof.Machine

@[simp] theorem setTeam_agenda (s : State) (t : Team) : (setTeam s t).agenda = s.agenda := rfl
@[simp] theorem setTeam_fresh (s : State) (t : Team) : (setTeam s t).fresh = s.fresh := rfl
@[simp] theorem setTeam_team (s : State) (t : Team) : (setTeam s t).team = t := rfl
@[simp] theorem setTeam_others (s : State) (t : Team) : (setTeam s t).others = s.others := rfl
@[simp] theorem setTeam_mem (s : State) (t : Team) : (setTeam s t).mem = s.mem := rfl
@[simp] theorem setTeam_lm (s : State) (t : Team) : (setTeam s t).lm = s.lm := rfl
@[simp] theorem setTeam_tiles (s : State) (t : Team) : (setTeam s t).tiles = s.tiles := rfl
@[simp] theorem setTeam_sb (s : State) (t : Team) : (setTeam s t).sb = s.sb := rfl
@[simp] theorem setTeam_posted (s : State) (t : Team) : (setTeam s t).posted = s.posted := rfl
@[simp] theorem setTeam_cores (s : State) (t : Team) : (setTeam s t).cores = s.cores := rfl
@[simp] theorem setTeam_hand (s : State) (t : Team) : (setTeam s t).hand = s.hand := rfl
@[simp] theorem setTeam_xl (s : State) (t : Team) : (setTeam s t).xl = s.xl := rfl
@[simp] theorem setTeam_fab (s : State) (t : Team) : (setTeam s t).fab = s.fab := rfl
@[simp] theorem setTeam_eng (s : State) (t : Team) : (setTeam s t).eng = s.eng := rfl
@[simp] theorem setTeam_sched (s : State) (t : Team) : (setTeam s t).sched = s.sched := rfl
@[simp] theorem setTeam_link (s : State) (t : Team) : (setTeam s t).link = s.link := rfl
@[simp] theorem setTeam_hostp (s : State) (t : Team) : (setTeam s t).hostp = s.hostp := rfl
@[simp] theorem setTeam_fw (s : State) (t : Team) : (setTeam s t).fw = s.fw := rfl

@[simp] theorem setPc_agenda (s : State) (x : Word) : (setPc s x).agenda = s.agenda := rfl
@[simp] theorem setPc_fresh (s : State) (x : Word) : (setPc s x).fresh = s.fresh := rfl
@[simp] theorem setPc_others (s : State) (x : Word) : (setPc s x).others = s.others := rfl
@[simp] theorem setPc_mem (s : State) (x : Word) : (setPc s x).mem = s.mem := rfl
@[simp] theorem setPc_lm (s : State) (x : Word) : (setPc s x).lm = s.lm := rfl
@[simp] theorem setPc_tiles (s : State) (x : Word) : (setPc s x).tiles = s.tiles := rfl
@[simp] theorem setPc_sb (s : State) (x : Word) : (setPc s x).sb = s.sb := rfl
@[simp] theorem setPc_posted (s : State) (x : Word) : (setPc s x).posted = s.posted := rfl
@[simp] theorem setPc_cores (s : State) (x : Word) : (setPc s x).cores = s.cores := rfl
@[simp] theorem setPc_hand (s : State) (x : Word) : (setPc s x).hand = s.hand := rfl
@[simp] theorem setPc_xl (s : State) (x : Word) : (setPc s x).xl = s.xl := rfl
@[simp] theorem setPc_fab (s : State) (x : Word) : (setPc s x).fab = s.fab := rfl
@[simp] theorem setPc_eng (s : State) (x : Word) : (setPc s x).eng = s.eng := rfl
@[simp] theorem setPc_sched (s : State) (x : Word) : (setPc s x).sched = s.sched := rfl
@[simp] theorem setPc_link (s : State) (x : Word) : (setPc s x).link = s.link := rfl
@[simp] theorem setPc_hostp (s : State) (x : Word) : (setPc s x).hostp = s.hostp := rfl
@[simp] theorem setPc_fw (s : State) (x : Word) : (setPc s x).fw = s.fw := rfl

@[simp] theorem advance_agenda (s : State) : (advance s).agenda = s.agenda := rfl
@[simp] theorem advance_fresh (s : State) : (advance s).fresh = s.fresh := rfl
@[simp] theorem advance_others (s : State) : (advance s).others = s.others := rfl
@[simp] theorem advance_mem (s : State) : (advance s).mem = s.mem := rfl
@[simp] theorem advance_lm (s : State) : (advance s).lm = s.lm := rfl
@[simp] theorem advance_tiles (s : State) : (advance s).tiles = s.tiles := rfl
@[simp] theorem advance_sb (s : State) : (advance s).sb = s.sb := rfl
@[simp] theorem advance_posted (s : State) : (advance s).posted = s.posted := rfl
@[simp] theorem advance_cores (s : State) : (advance s).cores = s.cores := rfl
@[simp] theorem advance_hand (s : State) : (advance s).hand = s.hand := rfl
@[simp] theorem advance_xl (s : State) : (advance s).xl = s.xl := rfl
@[simp] theorem advance_fab (s : State) : (advance s).fab = s.fab := rfl
@[simp] theorem advance_eng (s : State) : (advance s).eng = s.eng := rfl
@[simp] theorem advance_sched (s : State) : (advance s).sched = s.sched := rfl
@[simp] theorem advance_link (s : State) : (advance s).link = s.link := rfl
@[simp] theorem advance_hostp (s : State) : (advance s).hostp = s.hostp := rfl
@[simp] theorem advance_fw (s : State) : (advance s).fw = s.fw := rfl

@[simp] theorem setRegs_agenda (s : State) (r : Regs) : (setRegs s r).agenda = s.agenda := rfl
@[simp] theorem setRegs_fresh (s : State) (r : Regs) : (setRegs s r).fresh = s.fresh := rfl
@[simp] theorem setRegs_others (s : State) (r : Regs) : (setRegs s r).others = s.others := rfl
@[simp] theorem setRegs_mem (s : State) (r : Regs) : (setRegs s r).mem = s.mem := rfl
@[simp] theorem setRegs_lm (s : State) (r : Regs) : (setRegs s r).lm = s.lm := rfl
@[simp] theorem setRegs_tiles (s : State) (r : Regs) : (setRegs s r).tiles = s.tiles := rfl
@[simp] theorem setRegs_sb (s : State) (r : Regs) : (setRegs s r).sb = s.sb := rfl
@[simp] theorem setRegs_posted (s : State) (r : Regs) : (setRegs s r).posted = s.posted := rfl
@[simp] theorem setRegs_cores (s : State) (r : Regs) : (setRegs s r).cores = s.cores := rfl
@[simp] theorem setRegs_hand (s : State) (r : Regs) : (setRegs s r).hand = s.hand := rfl
@[simp] theorem setRegs_xl (s : State) (r : Regs) : (setRegs s r).xl = s.xl := rfl
@[simp] theorem setRegs_fab (s : State) (r : Regs) : (setRegs s r).fab = s.fab := rfl
@[simp] theorem setRegs_eng (s : State) (r : Regs) : (setRegs s r).eng = s.eng := rfl
@[simp] theorem setRegs_sched (s : State) (r : Regs) : (setRegs s r).sched = s.sched := rfl
@[simp] theorem setRegs_link (s : State) (r : Regs) : (setRegs s r).link = s.link := rfl
@[simp] theorem setRegs_hostp (s : State) (r : Regs) : (setRegs s r).hostp = s.hostp := rfl
@[simp] theorem setRegs_fw (s : State) (r : Regs) : (setRegs s r).fw = s.fw := rfl

@[simp] theorem setSys_agenda (s : State) (r : Sys) : (setSys s r).agenda = s.agenda := rfl
@[simp] theorem setSys_fresh (s : State) (r : Sys) : (setSys s r).fresh = s.fresh := rfl
@[simp] theorem setSys_others (s : State) (r : Sys) : (setSys s r).others = s.others := rfl
@[simp] theorem setSys_mem (s : State) (r : Sys) : (setSys s r).mem = s.mem := rfl
@[simp] theorem setSys_lm (s : State) (r : Sys) : (setSys s r).lm = s.lm := rfl
@[simp] theorem setSys_tiles (s : State) (r : Sys) : (setSys s r).tiles = s.tiles := rfl
@[simp] theorem setSys_sb (s : State) (r : Sys) : (setSys s r).sb = s.sb := rfl
@[simp] theorem setSys_posted (s : State) (r : Sys) : (setSys s r).posted = s.posted := rfl
@[simp] theorem setSys_cores (s : State) (r : Sys) : (setSys s r).cores = s.cores := rfl
@[simp] theorem setSys_hand (s : State) (r : Sys) : (setSys s r).hand = s.hand := rfl
@[simp] theorem setSys_xl (s : State) (r : Sys) : (setSys s r).xl = s.xl := rfl
@[simp] theorem setSys_fab (s : State) (r : Sys) : (setSys s r).fab = s.fab := rfl
@[simp] theorem setSys_eng (s : State) (r : Sys) : (setSys s r).eng = s.eng := rfl
@[simp] theorem setSys_sched (s : State) (r : Sys) : (setSys s r).sched = s.sched := rfl
@[simp] theorem setSys_link (s : State) (r : Sys) : (setSys s r).link = s.link := rfl
@[simp] theorem setSys_hostp (s : State) (r : Sys) : (setSys s r).hostp = s.hostp := rfl
@[simp] theorem setSys_fw (s : State) (r : Sys) : (setSys s r).fw = s.fw := rfl

@[simp] theorem tick_agenda (s : State) : (tick s).agenda = s.agenda := rfl
@[simp] theorem tick_fresh (s : State) : (tick s).fresh = s.fresh + 1 := rfl
@[simp] theorem tick_team (s : State) : (tick s).team = s.team := rfl
@[simp] theorem tick_others (s : State) : (tick s).others = s.others := rfl
@[simp] theorem tick_mem (s : State) : (tick s).mem = s.mem := rfl
@[simp] theorem tick_lm (s : State) : (tick s).lm = s.lm := rfl
@[simp] theorem tick_tiles (s : State) : (tick s).tiles = s.tiles := rfl
@[simp] theorem tick_sb (s : State) : (tick s).sb = s.sb := rfl
@[simp] theorem tick_posted (s : State) : (tick s).posted = s.posted := rfl
@[simp] theorem tick_cores (s : State) : (tick s).cores = s.cores := rfl
@[simp] theorem tick_hand (s : State) : (tick s).hand = s.hand := rfl
@[simp] theorem tick_xl (s : State) : (tick s).xl = s.xl := rfl
@[simp] theorem tick_fab (s : State) : (tick s).fab = s.fab := rfl
@[simp] theorem tick_eng (s : State) : (tick s).eng = s.eng := rfl
@[simp] theorem tick_sched (s : State) : (tick s).sched = s.sched := rfl
@[simp] theorem tick_link (s : State) : (tick s).link = s.link := rfl
@[simp] theorem tick_hostp (s : State) : (tick s).hostp = s.hostp := rfl
@[simp] theorem tick_fw (s : State) : (tick s).fw = s.fw := rfl

@[simp] theorem setTile_agenda (s : State) (c n : Nat) (o : TileOwner) : (setTile s c n o).agenda = s.agenda := rfl
@[simp] theorem setTile_fresh (s : State) (c n : Nat) (o : TileOwner) : (setTile s c n o).fresh = s.fresh := rfl
@[simp] theorem setTile_team (s : State) (c n : Nat) (o : TileOwner) : (setTile s c n o).team = s.team := rfl
@[simp] theorem setTile_others (s : State) (c n : Nat) (o : TileOwner) : (setTile s c n o).others = s.others := rfl
@[simp] theorem setTile_mem (s : State) (c n : Nat) (o : TileOwner) : (setTile s c n o).mem = s.mem := rfl
@[simp] theorem setTile_lm (s : State) (c n : Nat) (o : TileOwner) : (setTile s c n o).lm = s.lm := rfl
@[simp] theorem setTile_tiles (s : State) (c n : Nat) (o : TileOwner) : (setTile s c n o).tiles = sset {} s.tiles (tileKey c n) o := rfl
@[simp] theorem setTile_sb (s : State) (c n : Nat) (o : TileOwner) : (setTile s c n o).sb = s.sb := rfl
@[simp] theorem setTile_posted (s : State) (c n : Nat) (o : TileOwner) : (setTile s c n o).posted = s.posted := rfl
@[simp] theorem setTile_cores (s : State) (c n : Nat) (o : TileOwner) : (setTile s c n o).cores = s.cores := rfl
@[simp] theorem setTile_hand (s : State) (c n : Nat) (o : TileOwner) : (setTile s c n o).hand = s.hand := rfl
@[simp] theorem setTile_xl (s : State) (c n : Nat) (o : TileOwner) : (setTile s c n o).xl = s.xl := rfl
@[simp] theorem setTile_fab (s : State) (c n : Nat) (o : TileOwner) : (setTile s c n o).fab = s.fab := rfl
@[simp] theorem setTile_eng (s : State) (c n : Nat) (o : TileOwner) : (setTile s c n o).eng = s.eng := rfl
@[simp] theorem setTile_sched (s : State) (c n : Nat) (o : TileOwner) : (setTile s c n o).sched = s.sched := rfl
@[simp] theorem setTile_link (s : State) (c n : Nat) (o : TileOwner) : (setTile s c n o).link = s.link := rfl
@[simp] theorem setTile_hostp (s : State) (c n : Nat) (o : TileOwner) : (setTile s c n o).hostp = s.hostp := rfl
@[simp] theorem setTile_fw (s : State) (c n : Nat) (o : TileOwner) : (setTile s c n o).fw = s.fw := rfl

@[simp] theorem lmWrite_agenda (s : State) (c a : Nat) (bs : List Byte) : (lmWrite s c a bs).agenda = s.agenda := rfl
@[simp] theorem lmWrite_fresh (s : State) (c a : Nat) (bs : List Byte) : (lmWrite s c a bs).fresh = s.fresh := rfl
@[simp] theorem lmWrite_team (s : State) (c a : Nat) (bs : List Byte) : (lmWrite s c a bs).team = s.team := rfl
@[simp] theorem lmWrite_others (s : State) (c a : Nat) (bs : List Byte) : (lmWrite s c a bs).others = s.others := rfl
@[simp] theorem lmWrite_mem (s : State) (c a : Nat) (bs : List Byte) : (lmWrite s c a bs).mem = s.mem := rfl
@[simp] theorem lmWrite_lm (s : State) (c a : Nat) (bs : List Byte) : (lmWrite s c a bs).lm = setBytes s.lm (lmAddr c a) bs := rfl
@[simp] theorem lmWrite_tiles (s : State) (c a : Nat) (bs : List Byte) : (lmWrite s c a bs).tiles = s.tiles := rfl
@[simp] theorem lmWrite_sb (s : State) (c a : Nat) (bs : List Byte) : (lmWrite s c a bs).sb = s.sb := rfl
@[simp] theorem lmWrite_posted (s : State) (c a : Nat) (bs : List Byte) : (lmWrite s c a bs).posted = s.posted := rfl
@[simp] theorem lmWrite_cores (s : State) (c a : Nat) (bs : List Byte) : (lmWrite s c a bs).cores = s.cores := rfl
@[simp] theorem lmWrite_hand (s : State) (c a : Nat) (bs : List Byte) : (lmWrite s c a bs).hand = s.hand := rfl
@[simp] theorem lmWrite_xl (s : State) (c a : Nat) (bs : List Byte) : (lmWrite s c a bs).xl = s.xl := rfl
@[simp] theorem lmWrite_fab (s : State) (c a : Nat) (bs : List Byte) : (lmWrite s c a bs).fab = s.fab := rfl
@[simp] theorem lmWrite_eng (s : State) (c a : Nat) (bs : List Byte) : (lmWrite s c a bs).eng = s.eng := rfl
@[simp] theorem lmWrite_sched (s : State) (c a : Nat) (bs : List Byte) : (lmWrite s c a bs).sched = s.sched := rfl
@[simp] theorem lmWrite_link (s : State) (c a : Nat) (bs : List Byte) : (lmWrite s c a bs).link = s.link := rfl
@[simp] theorem lmWrite_hostp (s : State) (c a : Nat) (bs : List Byte) : (lmWrite s c a bs).hostp = s.hostp := rfl
@[simp] theorem lmWrite_fw (s : State) (c a : Nat) (bs : List Byte) : (lmWrite s c a bs).fw = s.fw := rfl

@[simp] theorem mapSb_agenda (s : State) (f : SbEntry → SbEntry) : (mapSb s f).agenda = s.agenda := rfl
@[simp] theorem mapSb_fresh (s : State) (f : SbEntry → SbEntry) : (mapSb s f).fresh = s.fresh := rfl
@[simp] theorem mapSb_team (s : State) (f : SbEntry → SbEntry) : (mapSb s f).team = s.team := rfl
@[simp] theorem mapSb_others (s : State) (f : SbEntry → SbEntry) : (mapSb s f).others = s.others := rfl
@[simp] theorem mapSb_mem (s : State) (f : SbEntry → SbEntry) : (mapSb s f).mem = s.mem := rfl
@[simp] theorem mapSb_lm (s : State) (f : SbEntry → SbEntry) : (mapSb s f).lm = s.lm := rfl
@[simp] theorem mapSb_tiles (s : State) (f : SbEntry → SbEntry) : (mapSb s f).tiles = s.tiles := rfl
@[simp] theorem mapSb_sb (s : State) (f : SbEntry → SbEntry) : (mapSb s f).sb = s.sb.map f := rfl
@[simp] theorem mapSb_posted (s : State) (f : SbEntry → SbEntry) : (mapSb s f).posted = s.posted := rfl
@[simp] theorem mapSb_cores (s : State) (f : SbEntry → SbEntry) : (mapSb s f).cores = s.cores := rfl
@[simp] theorem mapSb_hand (s : State) (f : SbEntry → SbEntry) : (mapSb s f).hand = s.hand := rfl
@[simp] theorem mapSb_xl (s : State) (f : SbEntry → SbEntry) : (mapSb s f).xl = s.xl := rfl
@[simp] theorem mapSb_fab (s : State) (f : SbEntry → SbEntry) : (mapSb s f).fab = s.fab := rfl
@[simp] theorem mapSb_eng (s : State) (f : SbEntry → SbEntry) : (mapSb s f).eng = s.eng := rfl
@[simp] theorem mapSb_sched (s : State) (f : SbEntry → SbEntry) : (mapSb s f).sched = s.sched := rfl
@[simp] theorem mapSb_link (s : State) (f : SbEntry → SbEntry) : (mapSb s f).link = s.link := rfl
@[simp] theorem mapSb_hostp (s : State) (f : SbEntry → SbEntry) : (mapSb s f).hostp = s.hostp := rfl
@[simp] theorem mapSb_fw (s : State) (f : SbEntry → SbEntry) : (mapSb s f).fw = s.fw := rfl

@[simp] theorem setHand_agenda (s : State) (c : HandCopy) : (setHand s c).agenda = s.agenda := rfl
@[simp] theorem setHand_fresh (s : State) (c : HandCopy) : (setHand s c).fresh = s.fresh := rfl
@[simp] theorem setHand_team (s : State) (c : HandCopy) : (setHand s c).team = s.team := rfl
@[simp] theorem setHand_others (s : State) (c : HandCopy) : (setHand s c).others = s.others := rfl
@[simp] theorem setHand_mem (s : State) (c : HandCopy) : (setHand s c).mem = s.mem := rfl
@[simp] theorem setHand_lm (s : State) (c : HandCopy) : (setHand s c).lm = s.lm := rfl
@[simp] theorem setHand_tiles (s : State) (c : HandCopy) : (setHand s c).tiles = s.tiles := rfl
@[simp] theorem setHand_sb (s : State) (c : HandCopy) : (setHand s c).sb = s.sb := rfl
@[simp] theorem setHand_posted (s : State) (c : HandCopy) : (setHand s c).posted = s.posted := rfl
@[simp] theorem setHand_cores (s : State) (c : HandCopy) : (setHand s c).cores = s.cores := rfl
@[simp] theorem setHand_xl (s : State) (c : HandCopy) : (setHand s c).xl = s.xl := rfl
@[simp] theorem setHand_fab (s : State) (c : HandCopy) : (setHand s c).fab = s.fab := rfl
@[simp] theorem setHand_eng (s : State) (c : HandCopy) : (setHand s c).eng = s.eng := rfl
@[simp] theorem setHand_sched (s : State) (c : HandCopy) : (setHand s c).sched = s.sched := rfl
@[simp] theorem setHand_link (s : State) (c : HandCopy) : (setHand s c).link = s.link := rfl
@[simp] theorem setHand_hostp (s : State) (c : HandCopy) : (setHand s c).hostp = s.hostp := rfl
@[simp] theorem setHand_fw (s : State) (c : HandCopy) : (setHand s c).fw = s.fw := rfl

@[simp] theorem setCopy_agenda (s : State) (h t a : Nat) (m : Moesi) : (setCopy s h t a m).agenda = s.agenda := rfl
@[simp] theorem setCopy_fresh (s : State) (h t a : Nat) (m : Moesi) : (setCopy s h t a m).fresh = s.fresh := rfl
@[simp] theorem setCopy_team (s : State) (h t a : Nat) (m : Moesi) : (setCopy s h t a m).team = s.team := rfl
@[simp] theorem setCopy_others (s : State) (h t a : Nat) (m : Moesi) : (setCopy s h t a m).others = s.others := rfl
@[simp] theorem setCopy_mem (s : State) (h t a : Nat) (m : Moesi) : (setCopy s h t a m).mem = s.mem := rfl
@[simp] theorem setCopy_lm (s : State) (h t a : Nat) (m : Moesi) : (setCopy s h t a m).lm = s.lm := rfl
@[simp] theorem setCopy_tiles (s : State) (h t a : Nat) (m : Moesi) : (setCopy s h t a m).tiles = s.tiles := rfl
@[simp] theorem setCopy_sb (s : State) (h t a : Nat) (m : Moesi) : (setCopy s h t a m).sb = s.sb := rfl
@[simp] theorem setCopy_posted (s : State) (h t a : Nat) (m : Moesi) : (setCopy s h t a m).posted = s.posted := rfl
@[simp] theorem setCopy_cores (s : State) (h t a : Nat) (m : Moesi) : (setCopy s h t a m).cores = s.cores := rfl
@[simp] theorem setCopy_hand (s : State) (h t a : Nat) (m : Moesi) : (setCopy s h t a m).hand = s.hand := rfl
@[simp] theorem setCopy_xl (s : State) (h t a : Nat) (m : Moesi) : (setCopy s h t a m).xl = s.xl := rfl
@[simp] theorem setCopy_eng (s : State) (h t a : Nat) (m : Moesi) : (setCopy s h t a m).eng = s.eng := rfl
@[simp] theorem setCopy_sched (s : State) (h t a : Nat) (m : Moesi) : (setCopy s h t a m).sched = s.sched := rfl
@[simp] theorem setCopy_link (s : State) (h t a : Nat) (m : Moesi) : (setCopy s h t a m).link = s.link := rfl
@[simp] theorem setCopy_hostp (s : State) (h t a : Nat) (m : Moesi) : (setCopy s h t a m).hostp = s.hostp := rfl
@[simp] theorem setCopy_fw (s : State) (h t a : Nat) (m : Moesi) : (setCopy s h t a m).fw = s.fw := rfl

@[simp] theorem mapCopies_agenda (s : State) (t a : Nat) (k : Option Nat) (f : Moesi → Moesi) : (mapCopies s t a k f).agenda = s.agenda := rfl
@[simp] theorem mapCopies_fresh (s : State) (t a : Nat) (k : Option Nat) (f : Moesi → Moesi) : (mapCopies s t a k f).fresh = s.fresh := rfl
@[simp] theorem mapCopies_team (s : State) (t a : Nat) (k : Option Nat) (f : Moesi → Moesi) : (mapCopies s t a k f).team = s.team := rfl
@[simp] theorem mapCopies_others (s : State) (t a : Nat) (k : Option Nat) (f : Moesi → Moesi) : (mapCopies s t a k f).others = s.others := rfl
@[simp] theorem mapCopies_mem (s : State) (t a : Nat) (k : Option Nat) (f : Moesi → Moesi) : (mapCopies s t a k f).mem = s.mem := rfl
@[simp] theorem mapCopies_lm (s : State) (t a : Nat) (k : Option Nat) (f : Moesi → Moesi) : (mapCopies s t a k f).lm = s.lm := rfl
@[simp] theorem mapCopies_tiles (s : State) (t a : Nat) (k : Option Nat) (f : Moesi → Moesi) : (mapCopies s t a k f).tiles = s.tiles := rfl
@[simp] theorem mapCopies_sb (s : State) (t a : Nat) (k : Option Nat) (f : Moesi → Moesi) : (mapCopies s t a k f).sb = s.sb := rfl
@[simp] theorem mapCopies_posted (s : State) (t a : Nat) (k : Option Nat) (f : Moesi → Moesi) : (mapCopies s t a k f).posted = s.posted := rfl
@[simp] theorem mapCopies_cores (s : State) (t a : Nat) (k : Option Nat) (f : Moesi → Moesi) : (mapCopies s t a k f).cores = s.cores := rfl
@[simp] theorem mapCopies_hand (s : State) (t a : Nat) (k : Option Nat) (f : Moesi → Moesi) : (mapCopies s t a k f).hand = s.hand := rfl
@[simp] theorem mapCopies_xl (s : State) (t a : Nat) (k : Option Nat) (f : Moesi → Moesi) : (mapCopies s t a k f).xl = s.xl := rfl
@[simp] theorem mapCopies_eng (s : State) (t a : Nat) (k : Option Nat) (f : Moesi → Moesi) : (mapCopies s t a k f).eng = s.eng := rfl
@[simp] theorem mapCopies_sched (s : State) (t a : Nat) (k : Option Nat) (f : Moesi → Moesi) : (mapCopies s t a k f).sched = s.sched := rfl
@[simp] theorem mapCopies_link (s : State) (t a : Nat) (k : Option Nat) (f : Moesi → Moesi) : (mapCopies s t a k f).link = s.link := rfl
@[simp] theorem mapCopies_hostp (s : State) (t a : Nat) (k : Option Nat) (f : Moesi → Moesi) : (mapCopies s t a k f).hostp = s.hostp := rfl
@[simp] theorem mapCopies_fw (s : State) (t a : Nat) (k : Option Nat) (f : Moesi → Moesi) : (mapCopies s t a k f).fw = s.fw := rfl

@[simp] theorem setHome_agenda (s : State) (t a : Nat) (x y : Bool) : (setHome s t a x y).agenda = s.agenda := rfl
@[simp] theorem setHome_fresh (s : State) (t a : Nat) (x y : Bool) : (setHome s t a x y).fresh = s.fresh := rfl
@[simp] theorem setHome_team (s : State) (t a : Nat) (x y : Bool) : (setHome s t a x y).team = s.team := rfl
@[simp] theorem setHome_others (s : State) (t a : Nat) (x y : Bool) : (setHome s t a x y).others = s.others := rfl
@[simp] theorem setHome_mem (s : State) (t a : Nat) (x y : Bool) : (setHome s t a x y).mem = s.mem := rfl
@[simp] theorem setHome_lm (s : State) (t a : Nat) (x y : Bool) : (setHome s t a x y).lm = s.lm := rfl
@[simp] theorem setHome_tiles (s : State) (t a : Nat) (x y : Bool) : (setHome s t a x y).tiles = s.tiles := rfl
@[simp] theorem setHome_sb (s : State) (t a : Nat) (x y : Bool) : (setHome s t a x y).sb = s.sb := rfl
@[simp] theorem setHome_posted (s : State) (t a : Nat) (x y : Bool) : (setHome s t a x y).posted = s.posted := rfl
@[simp] theorem setHome_cores (s : State) (t a : Nat) (x y : Bool) : (setHome s t a x y).cores = s.cores := rfl
@[simp] theorem setHome_hand (s : State) (t a : Nat) (x y : Bool) : (setHome s t a x y).hand = s.hand := rfl
@[simp] theorem setHome_xl (s : State) (t a : Nat) (x y : Bool) : (setHome s t a x y).xl = s.xl := rfl
@[simp] theorem setHome_eng (s : State) (t a : Nat) (x y : Bool) : (setHome s t a x y).eng = s.eng := rfl
@[simp] theorem setHome_sched (s : State) (t a : Nat) (x y : Bool) : (setHome s t a x y).sched = s.sched := rfl
@[simp] theorem setHome_link (s : State) (t a : Nat) (x y : Bool) : (setHome s t a x y).link = s.link := rfl
@[simp] theorem setHome_hostp (s : State) (t a : Nat) (x y : Bool) : (setHome s t a x y).hostp = s.hostp := rfl
@[simp] theorem setHome_fw (s : State) (t a : Nat) (x y : Bool) : (setHome s t a x y).fw = s.fw := rfl

@[simp] theorem updTeam_agenda (s : State) (h : Nat) (f : Team → Team) : (updTeam s h f).agenda = s.agenda := rfl
@[simp] theorem updTeam_fresh (s : State) (h : Nat) (f : Team → Team) : (updTeam s h f).fresh = s.fresh := rfl
@[simp] theorem updTeam_mem (s : State) (h : Nat) (f : Team → Team) : (updTeam s h f).mem = s.mem := rfl
@[simp] theorem updTeam_lm (s : State) (h : Nat) (f : Team → Team) : (updTeam s h f).lm = s.lm := rfl
@[simp] theorem updTeam_tiles (s : State) (h : Nat) (f : Team → Team) : (updTeam s h f).tiles = s.tiles := rfl
@[simp] theorem updTeam_sb (s : State) (h : Nat) (f : Team → Team) : (updTeam s h f).sb = s.sb := rfl
@[simp] theorem updTeam_posted (s : State) (h : Nat) (f : Team → Team) : (updTeam s h f).posted = s.posted := rfl
@[simp] theorem updTeam_cores (s : State) (h : Nat) (f : Team → Team) : (updTeam s h f).cores = s.cores := rfl
@[simp] theorem updTeam_hand (s : State) (h : Nat) (f : Team → Team) : (updTeam s h f).hand = s.hand := rfl
@[simp] theorem updTeam_xl (s : State) (h : Nat) (f : Team → Team) : (updTeam s h f).xl = s.xl := rfl
@[simp] theorem updTeam_fab (s : State) (h : Nat) (f : Team → Team) : (updTeam s h f).fab = s.fab := rfl
@[simp] theorem updTeam_eng (s : State) (h : Nat) (f : Team → Team) : (updTeam s h f).eng = s.eng := rfl
@[simp] theorem updTeam_sched (s : State) (h : Nat) (f : Team → Team) : (updTeam s h f).sched = s.sched := rfl
@[simp] theorem updTeam_link (s : State) (h : Nat) (f : Team → Team) : (updTeam s h f).link = s.link := rfl
@[simp] theorem updTeam_hostp (s : State) (h : Nat) (f : Team → Team) : (updTeam s h f).hostp = s.hostp := rfl
@[simp] theorem updTeam_fw (s : State) (h : Nat) (f : Team → Team) : (updTeam s h f).fw = s.fw := rfl

@[simp] theorem noteStop_agenda (s : State) (h : Nat) (st : Stop) : (noteStop s h st).agenda = s.agenda := rfl
@[simp] theorem noteStop_fresh (s : State) (h : Nat) (st : Stop) : (noteStop s h st).fresh = s.fresh := rfl
@[simp] theorem noteStop_mem (s : State) (h : Nat) (st : Stop) : (noteStop s h st).mem = s.mem := rfl
@[simp] theorem noteStop_lm (s : State) (h : Nat) (st : Stop) : (noteStop s h st).lm = s.lm := rfl
@[simp] theorem noteStop_tiles (s : State) (h : Nat) (st : Stop) : (noteStop s h st).tiles = s.tiles := rfl
@[simp] theorem noteStop_sb (s : State) (h : Nat) (st : Stop) : (noteStop s h st).sb = s.sb := rfl
@[simp] theorem noteStop_posted (s : State) (h : Nat) (st : Stop) : (noteStop s h st).posted = s.posted := rfl
@[simp] theorem noteStop_cores (s : State) (h : Nat) (st : Stop) : (noteStop s h st).cores = s.cores := rfl
@[simp] theorem noteStop_hand (s : State) (h : Nat) (st : Stop) : (noteStop s h st).hand = s.hand := rfl
@[simp] theorem noteStop_xl (s : State) (h : Nat) (st : Stop) : (noteStop s h st).xl = s.xl := rfl
@[simp] theorem noteStop_fab (s : State) (h : Nat) (st : Stop) : (noteStop s h st).fab = s.fab := rfl
@[simp] theorem noteStop_eng (s : State) (h : Nat) (st : Stop) : (noteStop s h st).eng = s.eng := rfl
@[simp] theorem noteStop_sched (s : State) (h : Nat) (st : Stop) : (noteStop s h st).sched = s.sched := rfl
@[simp] theorem noteStop_link (s : State) (h : Nat) (st : Stop) : (noteStop s h st).link = s.link := rfl
@[simp] theorem noteStop_hostp (s : State) (h : Nat) (st : Stop) : (noteStop s h st).hostp = s.hostp := rfl
@[simp] theorem noteStop_fw (s : State) (h : Nat) (st : Stop) : (noteStop s h st).fw = s.fw := rfl

@[simp] theorem setGroup_agenda (s : State) (r : Group) : (setGroup s r).agenda = s.agenda := rfl
@[simp] theorem setGroup_fresh (s : State) (r : Group) : (setGroup s r).fresh = s.fresh := rfl
@[simp] theorem setGroup_team (s : State) (r : Group) : (setGroup s r).team = s.team := rfl
@[simp] theorem setGroup_others (s : State) (r : Group) : (setGroup s r).others = s.others := rfl
@[simp] theorem setGroup_mem (s : State) (r : Group) : (setGroup s r).mem = s.mem := rfl
@[simp] theorem setGroup_lm (s : State) (r : Group) : (setGroup s r).lm = s.lm := rfl
@[simp] theorem setGroup_tiles (s : State) (r : Group) : (setGroup s r).tiles = s.tiles := rfl
@[simp] theorem setGroup_sb (s : State) (r : Group) : (setGroup s r).sb = s.sb := rfl
@[simp] theorem setGroup_posted (s : State) (r : Group) : (setGroup s r).posted = s.posted := rfl
@[simp] theorem setGroup_cores (s : State) (r : Group) : (setGroup s r).cores = s.cores := rfl
@[simp] theorem setGroup_hand (s : State) (r : Group) : (setGroup s r).hand = s.hand := rfl
@[simp] theorem setGroup_xl (s : State) (r : Group) : (setGroup s r).xl = s.xl := rfl
@[simp] theorem setGroup_fab (s : State) (r : Group) : (setGroup s r).fab = s.fab := rfl
@[simp] theorem setGroup_eng (s : State) (r : Group) : (setGroup s r).eng = s.eng := rfl
@[simp] theorem setGroup_sched (s : State) (r : Group) : (setGroup s r).sched = s.sched := rfl
@[simp] theorem setGroup_hostp (s : State) (r : Group) : (setGroup s r).hostp = s.hostp := rfl
@[simp] theorem setGroup_fw (s : State) (r : Group) : (setGroup s r).fw = s.fw := rfl

@[simp] theorem noteEnded_agenda (s : State) (h : Nat) : (noteEnded s h).agenda = s.agenda := rfl
@[simp] theorem noteEnded_fresh (s : State) (h : Nat) : (noteEnded s h).fresh = s.fresh := rfl
@[simp] theorem noteEnded_team (s : State) (h : Nat) : (noteEnded s h).team = s.team := rfl
@[simp] theorem noteEnded_others (s : State) (h : Nat) : (noteEnded s h).others = s.others := rfl
@[simp] theorem noteEnded_mem (s : State) (h : Nat) : (noteEnded s h).mem = s.mem := rfl
@[simp] theorem noteEnded_lm (s : State) (h : Nat) : (noteEnded s h).lm = s.lm := rfl
@[simp] theorem noteEnded_tiles (s : State) (h : Nat) : (noteEnded s h).tiles = s.tiles := rfl
@[simp] theorem noteEnded_sb (s : State) (h : Nat) : (noteEnded s h).sb = s.sb := rfl
@[simp] theorem noteEnded_posted (s : State) (h : Nat) : (noteEnded s h).posted = s.posted := rfl
@[simp] theorem noteEnded_cores (s : State) (h : Nat) : (noteEnded s h).cores = s.cores := rfl
@[simp] theorem noteEnded_hand (s : State) (h : Nat) : (noteEnded s h).hand = s.hand := rfl
@[simp] theorem noteEnded_xl (s : State) (h : Nat) : (noteEnded s h).xl = s.xl := rfl
@[simp] theorem noteEnded_fab (s : State) (h : Nat) : (noteEnded s h).fab = s.fab := rfl
@[simp] theorem noteEnded_eng (s : State) (h : Nat) : (noteEnded s h).eng = s.eng := rfl
@[simp] theorem noteEnded_link (s : State) (h : Nat) : (noteEnded s h).link = s.link := rfl
@[simp] theorem noteEnded_hostp (s : State) (h : Nat) : (noteEnded s h).hostp = s.hostp := rfl
@[simp] theorem noteEnded_fw (s : State) (h : Nat) : (noteEnded s h).fw = s.fw := rfl

@[simp] theorem setLines_agenda (s : State) (f : List HeldLine → List HeldLine) : (setLines s f).agenda = s.agenda := rfl
@[simp] theorem setLines_fresh (s : State) (f : List HeldLine → List HeldLine) : (setLines s f).fresh = s.fresh := rfl
@[simp] theorem setLines_team (s : State) (f : List HeldLine → List HeldLine) : (setLines s f).team = s.team := rfl
@[simp] theorem setLines_others (s : State) (f : List HeldLine → List HeldLine) : (setLines s f).others = s.others := rfl
@[simp] theorem setLines_mem (s : State) (f : List HeldLine → List HeldLine) : (setLines s f).mem = s.mem := rfl
@[simp] theorem setLines_lm (s : State) (f : List HeldLine → List HeldLine) : (setLines s f).lm = s.lm := rfl
@[simp] theorem setLines_tiles (s : State) (f : List HeldLine → List HeldLine) : (setLines s f).tiles = s.tiles := rfl
@[simp] theorem setLines_sb (s : State) (f : List HeldLine → List HeldLine) : (setLines s f).sb = s.sb := rfl
@[simp] theorem setLines_posted (s : State) (f : List HeldLine → List HeldLine) : (setLines s f).posted = s.posted := rfl
@[simp] theorem setLines_hand (s : State) (f : List HeldLine → List HeldLine) : (setLines s f).hand = s.hand := rfl
@[simp] theorem setLines_xl (s : State) (f : List HeldLine → List HeldLine) : (setLines s f).xl = s.xl := rfl
@[simp] theorem setLines_fab (s : State) (f : List HeldLine → List HeldLine) : (setLines s f).fab = s.fab := rfl
@[simp] theorem setLines_eng (s : State) (f : List HeldLine → List HeldLine) : (setLines s f).eng = s.eng := rfl
@[simp] theorem setLines_sched (s : State) (f : List HeldLine → List HeldLine) : (setLines s f).sched = s.sched := rfl
@[simp] theorem setLines_link (s : State) (f : List HeldLine → List HeldLine) : (setLines s f).link = s.link := rfl
@[simp] theorem setLines_hostp (s : State) (f : List HeldLine → List HeldLine) : (setLines s f).hostp = s.hostp := rfl
@[simp] theorem setLines_fw (s : State) (f : List HeldLine → List HeldLine) : (setLines s f).fw = s.fw := rfl

@[simp] theorem l1Fill_agenda (s : State) (c t a : Nat) (k : Bool) : (l1Fill s c t a k).agenda = s.agenda := rfl
@[simp] theorem l1Fill_fresh (s : State) (c t a : Nat) (k : Bool) : (l1Fill s c t a k).fresh = s.fresh := rfl
@[simp] theorem l1Fill_team (s : State) (c t a : Nat) (k : Bool) : (l1Fill s c t a k).team = s.team := rfl
@[simp] theorem l1Fill_others (s : State) (c t a : Nat) (k : Bool) : (l1Fill s c t a k).others = s.others := rfl
@[simp] theorem l1Fill_mem (s : State) (c t a : Nat) (k : Bool) : (l1Fill s c t a k).mem = s.mem := rfl
@[simp] theorem l1Fill_lm (s : State) (c t a : Nat) (k : Bool) : (l1Fill s c t a k).lm = s.lm := rfl
@[simp] theorem l1Fill_tiles (s : State) (c t a : Nat) (k : Bool) : (l1Fill s c t a k).tiles = s.tiles := rfl
@[simp] theorem l1Fill_sb (s : State) (c t a : Nat) (k : Bool) : (l1Fill s c t a k).sb = s.sb := rfl
@[simp] theorem l1Fill_posted (s : State) (c t a : Nat) (k : Bool) : (l1Fill s c t a k).posted = s.posted := rfl
@[simp] theorem l1Fill_cores (s : State) (c t a : Nat) (k : Bool) : (l1Fill s c t a k).cores = s.cores := rfl
@[simp] theorem l1Fill_hand (s : State) (c t a : Nat) (k : Bool) : (l1Fill s c t a k).hand = s.hand := rfl
@[simp] theorem l1Fill_xl (s : State) (c t a : Nat) (k : Bool) : (l1Fill s c t a k).xl = s.xl := rfl
@[simp] theorem l1Fill_eng (s : State) (c t a : Nat) (k : Bool) : (l1Fill s c t a k).eng = s.eng := rfl
@[simp] theorem l1Fill_sched (s : State) (c t a : Nat) (k : Bool) : (l1Fill s c t a k).sched = s.sched := rfl
@[simp] theorem l1Fill_link (s : State) (c t a : Nat) (k : Bool) : (l1Fill s c t a k).link = s.link := rfl
@[simp] theorem l1Fill_hostp (s : State) (c t a : Nat) (k : Bool) : (l1Fill s c t a k).hostp = s.hostp := rfl
@[simp] theorem l1Fill_fw (s : State) (c t a : Nat) (k : Bool) : (l1Fill s c t a k).fw = s.fw := rfl

@[simp] theorem noteStrm_agenda (s : State) (c : Nat) (l : Nat × Nat) (b : Bool) : (noteStrm s c l b).agenda = s.agenda := rfl
@[simp] theorem noteStrm_fresh (s : State) (c : Nat) (l : Nat × Nat) (b : Bool) : (noteStrm s c l b).fresh = s.fresh := rfl
@[simp] theorem noteStrm_team (s : State) (c : Nat) (l : Nat × Nat) (b : Bool) : (noteStrm s c l b).team = s.team := rfl
@[simp] theorem noteStrm_others (s : State) (c : Nat) (l : Nat × Nat) (b : Bool) : (noteStrm s c l b).others = s.others := rfl
@[simp] theorem noteStrm_mem (s : State) (c : Nat) (l : Nat × Nat) (b : Bool) : (noteStrm s c l b).mem = s.mem := rfl
@[simp] theorem noteStrm_lm (s : State) (c : Nat) (l : Nat × Nat) (b : Bool) : (noteStrm s c l b).lm = s.lm := rfl
@[simp] theorem noteStrm_tiles (s : State) (c : Nat) (l : Nat × Nat) (b : Bool) : (noteStrm s c l b).tiles = s.tiles := rfl
@[simp] theorem noteStrm_sb (s : State) (c : Nat) (l : Nat × Nat) (b : Bool) : (noteStrm s c l b).sb = s.sb := rfl
@[simp] theorem noteStrm_posted (s : State) (c : Nat) (l : Nat × Nat) (b : Bool) : (noteStrm s c l b).posted = s.posted := rfl
@[simp] theorem noteStrm_cores (s : State) (c : Nat) (l : Nat × Nat) (b : Bool) : (noteStrm s c l b).cores = s.cores := rfl
@[simp] theorem noteStrm_hand (s : State) (c : Nat) (l : Nat × Nat) (b : Bool) : (noteStrm s c l b).hand = s.hand := rfl
@[simp] theorem noteStrm_xl (s : State) (c : Nat) (l : Nat × Nat) (b : Bool) : (noteStrm s c l b).xl = s.xl := rfl
@[simp] theorem noteStrm_eng (s : State) (c : Nat) (l : Nat × Nat) (b : Bool) : (noteStrm s c l b).eng = s.eng := rfl
@[simp] theorem noteStrm_sched (s : State) (c : Nat) (l : Nat × Nat) (b : Bool) : (noteStrm s c l b).sched = s.sched := rfl
@[simp] theorem noteStrm_link (s : State) (c : Nat) (l : Nat × Nat) (b : Bool) : (noteStrm s c l b).link = s.link := rfl
@[simp] theorem noteStrm_hostp (s : State) (c : Nat) (l : Nat × Nat) (b : Bool) : (noteStrm s c l b).hostp = s.hostp := rfl
@[simp] theorem noteStrm_fw (s : State) (c : Nat) (l : Nat × Nat) (b : Bool) : (noteStrm s c l b).fw = s.fw := rfl

@[simp] theorem updTask_agenda (s : State) (k : Nat) (f : Task → Task) : (updTask s k f).agenda = s.agenda := rfl
@[simp] theorem updTask_fresh (s : State) (k : Nat) (f : Task → Task) : (updTask s k f).fresh = s.fresh := rfl
@[simp] theorem updTask_team (s : State) (k : Nat) (f : Task → Task) : (updTask s k f).team = s.team := rfl
@[simp] theorem updTask_others (s : State) (k : Nat) (f : Task → Task) : (updTask s k f).others = s.others := rfl
@[simp] theorem updTask_mem (s : State) (k : Nat) (f : Task → Task) : (updTask s k f).mem = s.mem := rfl
@[simp] theorem updTask_lm (s : State) (k : Nat) (f : Task → Task) : (updTask s k f).lm = s.lm := rfl
@[simp] theorem updTask_tiles (s : State) (k : Nat) (f : Task → Task) : (updTask s k f).tiles = s.tiles := rfl
@[simp] theorem updTask_sb (s : State) (k : Nat) (f : Task → Task) : (updTask s k f).sb = s.sb := rfl
@[simp] theorem updTask_posted (s : State) (k : Nat) (f : Task → Task) : (updTask s k f).posted = s.posted := rfl
@[simp] theorem updTask_cores (s : State) (k : Nat) (f : Task → Task) : (updTask s k f).cores = s.cores := rfl
@[simp] theorem updTask_hand (s : State) (k : Nat) (f : Task → Task) : (updTask s k f).hand = s.hand := rfl
@[simp] theorem updTask_xl (s : State) (k : Nat) (f : Task → Task) : (updTask s k f).xl = s.xl := rfl
@[simp] theorem updTask_fab (s : State) (k : Nat) (f : Task → Task) : (updTask s k f).fab = s.fab := rfl
@[simp] theorem updTask_sched (s : State) (k : Nat) (f : Task → Task) : (updTask s k f).sched = s.sched := rfl
@[simp] theorem updTask_link (s : State) (k : Nat) (f : Task → Task) : (updTask s k f).link = s.link := rfl
@[simp] theorem updTask_hostp (s : State) (k : Nat) (f : Task → Task) : (updTask s k f).hostp = s.hostp := rfl
@[simp] theorem updTask_fw (s : State) (k : Nat) (f : Task → Task) : (updTask s k f).fw = s.fw := rfl

@[simp] theorem setCluster_agenda (s : State) (k : Nat) (c : Cluster) : (setCluster s k c).agenda = s.agenda := rfl
@[simp] theorem setCluster_fresh (s : State) (k : Nat) (c : Cluster) : (setCluster s k c).fresh = s.fresh := rfl
@[simp] theorem setCluster_team (s : State) (k : Nat) (c : Cluster) : (setCluster s k c).team = s.team := rfl
@[simp] theorem setCluster_others (s : State) (k : Nat) (c : Cluster) : (setCluster s k c).others = s.others := rfl
@[simp] theorem setCluster_mem (s : State) (k : Nat) (c : Cluster) : (setCluster s k c).mem = s.mem := rfl
@[simp] theorem setCluster_lm (s : State) (k : Nat) (c : Cluster) : (setCluster s k c).lm = s.lm := rfl
@[simp] theorem setCluster_tiles (s : State) (k : Nat) (c : Cluster) : (setCluster s k c).tiles = s.tiles := rfl
@[simp] theorem setCluster_sb (s : State) (k : Nat) (c : Cluster) : (setCluster s k c).sb = s.sb := rfl
@[simp] theorem setCluster_posted (s : State) (k : Nat) (c : Cluster) : (setCluster s k c).posted = s.posted := rfl
@[simp] theorem setCluster_cores (s : State) (k : Nat) (c : Cluster) : (setCluster s k c).cores = s.cores := rfl
@[simp] theorem setCluster_hand (s : State) (k : Nat) (c : Cluster) : (setCluster s k c).hand = s.hand := rfl
@[simp] theorem setCluster_xl (s : State) (k : Nat) (c : Cluster) : (setCluster s k c).xl = s.xl := rfl
@[simp] theorem setCluster_fab (s : State) (k : Nat) (c : Cluster) : (setCluster s k c).fab = s.fab := rfl
@[simp] theorem setCluster_eng (s : State) (k : Nat) (c : Cluster) : (setCluster s k c).eng = s.eng := rfl
@[simp] theorem setCluster_sched (s : State) (k : Nat) (c : Cluster) : (setCluster s k c).sched = s.sched := rfl
@[simp] theorem setCluster_link (s : State) (k : Nat) (c : Cluster) : (setCluster s k c).link = s.link := rfl
@[simp] theorem setCluster_hostp (s : State) (k : Nat) (c : Cluster) : (setCluster s k c).hostp = s.hostp := rfl

@[simp] theorem dropHeld_agenda (s : State) (h : Nat) : (dropHeld s h).agenda = s.agenda := rfl
@[simp] theorem dropHeld_fresh (s : State) (h : Nat) : (dropHeld s h).fresh = s.fresh := rfl
@[simp] theorem dropHeld_team (s : State) (h : Nat) : (dropHeld s h).team = s.team := rfl
@[simp] theorem dropHeld_others (s : State) (h : Nat) : (dropHeld s h).others = s.others := rfl
@[simp] theorem dropHeld_mem (s : State) (h : Nat) : (dropHeld s h).mem = s.mem := rfl
@[simp] theorem dropHeld_lm (s : State) (h : Nat) : (dropHeld s h).lm = s.lm := rfl
@[simp] theorem dropHeld_tiles (s : State) (h : Nat) : (dropHeld s h).tiles = s.tiles := rfl
@[simp] theorem dropHeld_sb (s : State) (h : Nat) : (dropHeld s h).sb = dropFromHeld h false s.sb := rfl
@[simp] theorem dropHeld_posted (s : State) (h : Nat) : (dropHeld s h).posted = s.posted := rfl
@[simp] theorem dropHeld_cores (s : State) (h : Nat) : (dropHeld s h).cores = s.cores := rfl
@[simp] theorem dropHeld_hand (s : State) (h : Nat) : (dropHeld s h).hand = s.hand := rfl
@[simp] theorem dropHeld_xl (s : State) (h : Nat) : (dropHeld s h).xl = s.xl := rfl
@[simp] theorem dropHeld_fab (s : State) (h : Nat) : (dropHeld s h).fab = s.fab := rfl
@[simp] theorem dropHeld_eng (s : State) (h : Nat) : (dropHeld s h).eng = s.eng := rfl
@[simp] theorem dropHeld_sched (s : State) (h : Nat) : (dropHeld s h).sched = s.sched := rfl
@[simp] theorem dropHeld_link (s : State) (h : Nat) : (dropHeld s h).link = s.link := rfl
@[simp] theorem dropHeld_hostp (s : State) (h : Nat) : (dropHeld s h).hostp = s.hostp := rfl
@[simp] theorem dropHeld_fw (s : State) (h : Nat) : (dropHeld s h).fw = s.fw := rfl

@[simp] theorem setPc_team_pc (s : State) (x : Word) : (setPc s x).team.pc = x := rfl
@[simp] theorem setPc_team_card (s : State) (x : Word) : (setPc s x).team.card = s.team.card := rfl
@[simp] theorem setPc_team_place (s : State) (x : Word) : (setPc s x).team.place = s.team.place := rfl
@[simp] theorem setPc_team_regs (s : State) (x : Word) : (setPc s x).team.regs = s.team.regs := rfl
@[simp] theorem setPc_team_sys (s : State) (x : Word) : (setPc s x).team.sys = s.team.sys := rfl
@[simp] theorem setPc_team_lane (s : State) (x : Word) : (setPc s x).team.lane = s.team.lane := rfl
@[simp] theorem setPc_team_ord (s : State) (x : Word) : (setPc s x).team.ord = s.team.ord := rfl

@[simp] theorem advance_team_pc (s : State) : (advance s).team.pc = s.team.pc + 4 := rfl
@[simp] theorem advance_team_card (s : State) : (advance s).team.card = s.team.card := rfl
@[simp] theorem advance_team_place (s : State) : (advance s).team.place = s.team.place := rfl
@[simp] theorem advance_team_regs (s : State) : (advance s).team.regs = s.team.regs := rfl
@[simp] theorem advance_team_sys (s : State) : (advance s).team.sys = s.team.sys := rfl
@[simp] theorem advance_team_lane (s : State) : (advance s).team.lane = s.team.lane := rfl
@[simp] theorem advance_team_ord (s : State) : (advance s).team.ord = s.team.ord := rfl

@[simp] theorem setRegs_team_pc (s : State) (r : Regs) : (setRegs s r).team.pc = s.team.pc := rfl
@[simp] theorem setRegs_team_card (s : State) (r : Regs) : (setRegs s r).team.card = s.team.card := rfl
@[simp] theorem setRegs_team_place (s : State) (r : Regs) : (setRegs s r).team.place = s.team.place := rfl
@[simp] theorem setRegs_team_regs (s : State) (r : Regs) : (setRegs s r).team.regs = r := rfl
@[simp] theorem setRegs_team_sys (s : State) (r : Regs) : (setRegs s r).team.sys = s.team.sys := rfl
@[simp] theorem setRegs_team_lane (s : State) (r : Regs) : (setRegs s r).team.lane = s.team.lane := rfl
@[simp] theorem setRegs_team_ord (s : State) (r : Regs) : (setRegs s r).team.ord = s.team.ord := rfl

@[simp] theorem setSys_team_pc (s : State) (r : Sys) : (setSys s r).team.pc = s.team.pc := rfl
@[simp] theorem setSys_team_card (s : State) (r : Sys) : (setSys s r).team.card = s.team.card := rfl
@[simp] theorem setSys_team_place (s : State) (r : Sys) : (setSys s r).team.place = s.team.place := rfl
@[simp] theorem setSys_team_regs (s : State) (r : Sys) : (setSys s r).team.regs = s.team.regs := rfl
@[simp] theorem setSys_team_sys (s : State) (r : Sys) : (setSys s r).team.sys = r := rfl
@[simp] theorem setSys_team_lane (s : State) (r : Sys) : (setSys s r).team.lane = s.team.lane := rfl
@[simp] theorem setSys_team_ord (s : State) (r : Sys) : (setSys s r).team.ord = s.team.ord := rfl

end Sys2Proof.Machine
end

