-- ==== Sys2Proof/Laws/Memory.lean ====
section
/-! SUPPORT. The laws of memory: translation is not changed by an access, a byte written reads back, every byte kept elsewhere reads
as before, and what a load or a store does to the caches changes no value. -/

namespace Sys2Proof.Machine

/-- What decides where a byte is kept is the same in two states. -/
def SameMap (s t : State) : Prop :=
  (∀ dom tag va, whereIs t dom tag va = whereIs s dom tag va) ∧ ∀ tag va, kindAt t tag va = kindAt s tag va

theorem SameMap.refl (s : State) : SameMap s s := ⟨fun _ _ _ => rfl, fun _ _ => rfl⟩

theorem SameMap.trans {s t u : State} (h : SameMap s t) (k : SameMap t u) : SameMap s u :=
  ⟨fun d g a => (k.1 d g a).trans (h.1 d g a), fun g a => (k.2 g a).trans (h.2 g a)⟩

theorem asidDomain_congr {s t : State} (h : t.xl.asids = s.xl.asids) (asid : Nat) : asidDomain t asid = asidDomain s asid := by
  unfold asidDomain; rw [h]

theorem pageServes_congr {s t : State} (h1 : t.xl.asids = s.xl.asids) (h2 : t.fw = s.fw) (dom tag : Nat) (p : PageEntry) :
    pageServes t dom tag p = pageServes s dom tag p := by
  unfold pageServes clusterRec; rw [h2, asidDomain_congr h1]

/-- An update that keeps the translation tables and the clusters keeps every place. -/
theorem sameMap_of {s t : State} (h1 : t.xl = s.xl) (h2 : t.fw = s.fw) : SameMap s t := by
  constructor
  · intro dom tag va
    have e : pageOf t tag va = pageOf s tag va := by unfold pageOf; rw [h1]
    unfold whereIs; rw [e]
    cases pageOf s tag va with
    | none => rfl
    | some p => dsimp only; rw [pageServes_congr (by rw [h1]) h2]
  · intro tag va
    simp only [kindAt, tableEntry, h1]

/-- Nothing has changed but the coherence fabric. -/
def FabOnly (s t : State) : Prop := t = { s with fab := t.fab }

theorem FabOnly.refl (s : State) : FabOnly s s := rfl

theorem FabOnly.trans {s t u : State} (h : FabOnly s t) (k : FabOnly t u) : FabOnly s u := by
  unfold FabOnly at h k ⊢
  rw [k, h]

theorem FabOnly.sameMap {s t : State} (h : FabOnly s t) : SameMap s t := sameMap_of (by rw [h]) (by rw [h])

theorem fabOnly_evictCopy (s : State) (h t a : Nat) : FabOnly s (evictCopy s h t a) := by
  unfold evictCopy sendHome
  dsimp only
  split
  · rfl
  · rfl
  · rfl
  · split <;> rfl

theorem fabOnly_foldl {α : Type} (f : State → α → State) (h : ∀ s x, FabOnly s (f s x)) :
    ∀ (l : List α) (s : State), FabOnly s (l.foldl f s)
  | [], s => FabOnly.refl s
  | x :: l, s => (h s x).trans (fabOnly_foldl f h l _)

/-- Room made in a slice changes the fabric alone: the sectors that leave differ from no coherent value (R394, R395). -/
theorem fabOnly_makeRoom (s : State) (cl : Nat) (l : Nat × Nat) : FabOnly s (makeRoom s cl l) := by
  unfold makeRoom
  split
  · rfl
  · split
    · rfl
    · exact fabOnly_foldl _ (fun s i => fabOnly_evictCopy s _ _ _) _ _

theorem fabOnly_mapCopies (s : State) (t a : Nat) (k : Option Nat) (f : Moesi → Moesi) : FabOnly s (mapCopies s t a k f) := rfl

theorem fabOnly_setCopy (s : State) (h t a : Nat) (m : Moesi) : FabOnly s (setCopy s h t a m) := rfl

theorem fabOnly_setHome (s : State) (t a : Nat) (o x : Bool) : FabOnly s (setHome s t a o x) := rfl

theorem fabOnly_dropPaired (s : State) (h t a : Nat) : FabOnly s (dropPaired s h t a) := by
  unfold dropPaired; split
  · exact fabOnly_evictCopy ..
  · exact FabOnly.refl _

theorem fabOnly_useHome (s : State) (t a : Nat) : FabOnly s (useHome s t a) := by unfold useHome; split <;> rfl

theorem fabOnly_noteHome (s : State) (t a : Nat) : FabOnly s (noteHome s t a) := by unfold noteHome; split <;> rfl

theorem fabOnly_settleCopy (s : State) (h t a : Nat) (b : Bool) : FabOnly s (settleCopy s h t a b) := by
  unfold settleCopy; split
  · exact fabOnly_evictCopy ..
  · exact FabOnly.refl _

theorem fabOnly_actRd (s : State) (h t a : Nat) : FabOnly s (actRd s h t a) := by
  refine ((fabOnly_makeRoom s h (t, a / 256)).trans (fabOnly_useHome _ t a)).trans ?_
  unfold actRd
  dsimp only
  split
  · exact ((fabOnly_setCopy ..).trans (fabOnly_setHome ..)).trans (fabOnly_settleCopy ..)
  · exact ((((fabOnly_mapCopies ..).trans (fabOnly_dropPaired ..)).trans (fabOnly_setCopy ..)).trans (fabOnly_setHome ..)).trans
      (fabOnly_settleCopy ..)

theorem fabOnly_actRo (s : State) (h t a : Nat) : FabOnly s (actRo s h t a) :=
  (((fabOnly_makeRoom s h (t, a / 256)).trans (fabOnly_useHome _ t a)).trans (fabOnly_noteHome _ t a)).trans
    ((((fabOnly_mapCopies _ t a (some h) fun _ => .I).trans (fabOnly_setCopy _ h t a .M)).trans
      (fabOnly_setHome _ t a true false)).trans (fabOnly_settleCopy ..))

theorem markDirty_fields (s : State) (tag va : Nat) : markDirty s tag va = { s with xl := (markDirty s tag va).xl } := by
  unfold markDirty; split
  · rfl
  · split <;> rfl

theorem markDirty_xl (s : State) (tag va : Nat) :
    ∃ f : PageEntry → PageEntry, (∀ p, f p = p ∨ f p = { p with dirty := true })
      ∧ (markDirty s tag va).xl = { s.xl with pages := s.xl.pages.map f } := by
  unfold markDirty
  split
  · exact ⟨id, fun p => .inl rfl, by simp⟩
  · rename_i p _
    split
    · exact ⟨id, fun p => .inl rfl, by simp⟩
    · refine ⟨fun q => if q = p then { q with dirty := true } else q, fun q => ?_, rfl⟩
      by_cases h : q = p
      · exact .inr (if_pos h)
      · exact .inl (if_neg h)

/-- A change of dirty bits alone moves no byte. -/
theorem sameMap_dirty {s t : State} (f : PageEntry → PageEntry) (hf : ∀ p, f p = p ∨ f p = { p with dirty := true })
    (hx : t.xl = { s.xl with pages := s.xl.pages.map f }) (hfw : t.fw = s.fw) : SameMap s t := by
  have cov : ∀ tag va, (pageCovers tag va) ∘ f = pageCovers tag va := by
    intro tag va; funext p
    simp only [Function.comp]
    rcases hf p with h | h <;> rw [h]
    rfl
  constructor
  · intro dom tag va
    have e : pageOf t tag va = (pageOf s tag va).map f := by
      simp only [pageOf, hx, List.find?_map, cov]
    simp only [whereIs, e]
    cases pageOf s tag va with
    | none => rfl
    | some p =>
      have sv : pageServes t dom tag (f p) = pageServes s dom tag p := by
        rw [pageServes_congr (by rw [hx]) hfw]
        rcases hf p with h | h <;> rw [h]
        rfl
      have pl : pagePlace (f p) va = pagePlace p va := by rcases hf p with h | h <;> rw [h]; rfl
      simp only [Option.map_some, sv, pl]
  · intro tag va
    simp only [kindAt, tableEntry, hx]

/-- Marking a page dirty moves no byte. -/
theorem sameMap_markDirty (s : State) (tag va : Nat) : SameMap s (markDirty s tag va) := by
  obtain ⟨f, hf, hx⟩ := markDirty_xl s tag va
  exact sameMap_dirty f hf hx (by rw [markDirty_fields])

/-- The value that a requester reads at a place: its own cluster's copy in a handoff region, else the byte kept there. -/
theorem readByte_eq (s : State) (w : Who) (va : Nat) : readByte s w va =
    match whereIs s w.domain (tagOf w.asid va) va with
    | .dram p =>
      if kindAt s (tagOf w.asid va) va = 3 then
        match handCopy s w.cluster (sectorOf p) with
        | some c => c.bytes.getD (p % 64) 0
        | none => byteAt s.mem p
      else byteAt s.mem p
    | x => byteIn s x := by
  unfold readByte; dsimp only
  cases h : whereIs s w.domain (tagOf w.asid va) va <;> rfl

/-- Two states with the same places, memories and handoff copies read the same. -/
theorem readByte_congr {s t : State} (h : SameMap s t) (hm : t.mem = s.mem) (hh : t.hand = s.hand)
    (hf : t.hostp.far = s.hostp.far) (w : Who) (va : Nat) : readByte t w va = readByte s w va := by
  have hc : ∀ c k, handCopy t c k = handCopy s c k := fun c k => by simp only [handCopy, hh]
  simp only [readByte_eq, h.1, h.2, hc, hm]
  cases whereIs s w.domain (tagOf w.asid va) va <;> simp [byteIn, hf]

theorem find_put (c : HandCopy) (cl sec : Nat) (l : List HandCopy) :
    (l.filter (fun h => !(h.cluster = c.cluster && h.dpa = c.dpa)) ++ [c]).find? (fun h => h.cluster = cl && h.dpa = sec)
      = if cl = c.cluster ∧ sec = c.dpa then some c else l.find? fun h => h.cluster = cl && h.dpa = sec := by
  induction l with
  | nil =>
    by_cases h : cl = c.cluster ∧ sec = c.dpa
    · obtain ⟨rfl, rfl⟩ := h; simp
    · have : ¬ (c.cluster = cl ∧ c.dpa = sec) := fun k => h ⟨k.1.symm, k.2.symm⟩
      simp [h, this]
  | cons a l ih =>
    by_cases hk : a.cluster = c.cluster ∧ a.dpa = c.dpa
    · have e : (!(decide (a.cluster = c.cluster) && decide (a.dpa = c.dpa))) = false := by simp [hk]
      rw [List.filter_cons_of_neg (by simp [hk]), ih]
      by_cases h : cl = c.cluster ∧ sec = c.dpa
      · simp [h]
      · have : ¬ (a.cluster = cl ∧ a.dpa = sec) := fun k => h ⟨k.1.symm.trans hk.1, k.2.symm.trans hk.2⟩
        rw [if_neg h, if_neg h, List.find?_cons_of_neg (by simpa using this)]
    · rw [List.filter_cons_of_pos (by rcases Decidable.not_and_iff_or_not.1 hk with h | h <;> simp [h]), List.cons_append]
      by_cases hq : a.cluster = cl ∧ a.dpa = sec
      · have h : ¬ (cl = c.cluster ∧ sec = c.dpa) := fun k => hk ⟨hq.1.trans k.1, hq.2.trans k.2⟩
        rw [List.find?_cons_of_pos (by simpa using hq), if_neg h, List.find?_cons_of_pos (by simpa using hq)]
      · rw [List.find?_cons_of_neg (by simpa using hq), ih, List.find?_cons_of_neg (by simpa using hq)]

/-- A handoff copy put into a cluster's cache is found there, and every other is found as before. -/
theorem handCopy_setHand (s : State) (c : HandCopy) (cl sec : Nat) :
    handCopy (setHand s c) cl sec = if cl = c.cluster ∧ sec = c.dpa then some c else handCopy s cl sec :=
  find_put c cl sec s.hand

theorem sameMap_setHand (s : State) (c : HandCopy) : SameMap s (setHand s c) := sameMap_of rfl rfl

theorem sameMap_handFill (s : State) (cl sec : Nat) : SameMap s (handFill s cl sec) := by
  unfold handFill; split
  · exact SameMap.refl s
  · split
    · exact SameMap.refl s
    · exact (fabOnly_makeRoom _ _ _).sameMap.trans (sameMap_setHand _ _)

theorem getD_bytesAt (m : SMap Byte) (n : Nat) : ∀ a i, i < n → (bytesAt m a n).getD i 0 = byteAt m (a + i) := by
  induction n with
  | zero => intro a i h; exact absurd h (Nat.not_lt_zero i)
  | succ n ih =>
    intro a i h
    cases i with
    | zero => rfl
    | succ i =>
      have := ih (a + 1) i (Nat.lt_of_succ_lt_succ h)
      simp only [bytesAt, List.getD_cons_succ]
      rw [this, Nat.add_assoc, Nat.add_comm 1 i]

/-- A handoff sector put into a cluster's cache as it stands in memory changes no value that anyone reads (R91). -/
theorem readByte_setClean (s : State) (cl sec : Nat) (hn : handCopy s cl sec = none) (w : Who) (va : Nat) :
    readByte (setHand s { cluster := cl, dpa := sec, bytes := bytesAt s.mem sec 64, dirty := false }) w va = readByte s w va := by
  have hm := sameMap_setHand s { cluster := cl, dpa := sec, bytes := bytesAt s.mem sec 64, dirty := false }
  simp only [readByte_eq, hm.1, hm.2, handCopy_setHand]
  cases whereIs s w.domain (tagOf w.asid va) va with
  | absent => rfl
  | far a x => rfl
  | dram p =>
    simp only [setHand_mem]
    by_cases hk : kindAt s (tagOf w.asid va) va = 3
    · simp only [hk, if_true]
      by_cases h : w.cluster = cl ∧ sectorOf p = sec
      · obtain ⟨rfl, rfl⟩ := h
        simp only [hn, and_self, if_true]
        rw [getD_bytesAt _ _ _ _ (Nat.mod_lt _ (by decide))]
        congr 1
        simp only [sectorOf]; omega
      · simp only [h, if_false]
    · simp only [hk, if_false]

theorem readByte_fab (s : State) (f : Fabric) (w : Who) (va : Nat) : readByte { s with fab := f } w va = readByte s w va :=
  readByte_congr (sameMap_of rfl rfl) rfl rfl rfl w va

theorem FabOnly.readByte {s t : State} (h : FabOnly s t) (w : Who) (va : Nat) : readByte t w va = readByte s w va := by
  rw [h]; exact readByte_fab _ _ _ _

/-- Bringing a handoff sector into a cluster's cache changes no value that anyone reads (R91). -/
theorem readByte_handFill (s : State) (cl sec : Nat) (w : Who) (va : Nat) :
    readByte (handFill s cl sec) w va = readByte s w va := by
  unfold handFill
  split
  · rfl
  · rename_i hn
    split
    · rfl
    have hr := fabOnly_makeRoom s cl (2 ^ 14, sec / 256)
    rw [← hr.readByte w va]
    have hn' : handCopy (makeRoom s cl (2 ^ 14, sec / 256)) cl sec = none := by rw [hr]; exact hn
    have := readByte_setClean _ cl sec hn' w va
    rwa [show (makeRoom s cl (2 ^ 14, sec / 256)).mem = s.mem by rw [hr]] at this

/-- What a load does to the caches changes no value that anyone reads (R91, R394). -/
theorem setCopy_only (s : State) (h t a : Nat) (m : Moesi) : setCopy s h t a m = { s with fab := (setCopy s h t a m).fab } := rfl

theorem touchRead_only (s : State) (w : Who) (va : Nat) : touchRead s w va = { s with fab := (touchRead s w va).fab } := by
  unfold touchRead; dsimp only
  split
  · rfl
  · split
    · rfl
    · exact fabOnly_actRd _ _ _ _

theorem touchWrite_only (s : State) (w : Who) (va : Nat) : touchWrite s w va = { s with fab := (touchWrite s w va).fab } := by
  unfold touchWrite; dsimp only
  split
  · rfl
  · split
    · split
      · rfl
      · exact fabOnly_actRo _ _ _ _
    · exact fabOnly_actRo _ _ _ _
    · exact fabOnly_actRo _ _ _ _
    · exact (fabOnly_noteHome _ _ _).trans (fabOnly_setCopy ..)
    · rfl

theorem handFill_only (s : State) (cl sec : Nat) :
    handFill s cl sec = { s with hand := (handFill s cl sec).hand, fab := (handFill s cl sec).fab } := by
  unfold handFill; split
  · rfl
  · split
    · rfl
    · rw [fabOnly_makeRoom]; rfl

theorem readByte_touchRead (s : State) (w : Who) (x : Nat) (w' : Who) (va : Nat) :
    readByte (touchRead s w x) w' va = readByte s w' va := by rw [touchRead_only]; exact readByte_fab _ _ _ _

theorem readByte_touchWrite (s : State) (w : Who) (x : Nat) (w' : Who) (va : Nat) :
    readByte (touchWrite s w x) w' va = readByte s w' va := by rw [touchWrite_only]; exact readByte_fab _ _ _ _

theorem fabOnly_l1Fill (s : State) (c t a : Nat) (k : Bool) : FabOnly s (l1Fill s c t a k) := rfl

theorem fabOnly_noteStrm (s : State) (c : Nat) (l : Nat × Nat) (b : Bool) : FabOnly s (noteStrm s c l b) := rfl

theorem fabOnly_hintLine (s : State) (w : Who) (va : Nat) (b : Bool) : FabOnly s (hintLine s w va b) := by
  unfold hintLine; split
  · exact fabOnly_noteStrm ..
  · exact FabOnly.refl _

theorem fabOnly_touchRead (s : State) (w : Who) (va : Nat) : FabOnly s (touchRead s w va) := touchRead_only ..

/-- What a load does to the caches: in the fabric alone, or a handoff sector may come into the cluster's cache (R91, R394). -/
theorem afterLoad_cases (s : State) (w : Who) (va hint : Nat) :
    FabOnly s (afterLoad s w va hint) ∨ ∃ u sec, FabOnly s u ∧ afterLoad s w va hint = handFill u w.cluster sec := by
  have l1 : FabOnly s (if (hint = 0 || hint = 2) = true then l1Fill s w.core (tagOf w.asid va) (sectorOf va) (decide (hint = 2)) else s) := by
    split
    · exact fabOnly_l1Fill ..
    · exact FabOnly.refl _
  unfold afterLoad; dsimp only
  split
  · exact .inl (fabOnly_touchRead ..)
  · split
    · exact .inl l1
    · split
      · split
        · exact .inr ⟨_, _, l1.trans (fabOnly_noteStrm ..), rfl⟩
        · exact .inl ((l1.trans (fabOnly_noteStrm ..)).trans (fabOnly_touchRead ..))
      · exact .inl ((l1.trans (fabOnly_noteStrm ..)).trans (fabOnly_touchRead ..))

theorem afterLoad_only (s : State) (w : Who) (va hint : Nat) :
    afterLoad s w va hint = { s with hand := (afterLoad s w va hint).hand, fab := (afterLoad s w va hint).fab } := by
  obtain h | ⟨u, sec, hu, h⟩ := afterLoad_cases s w va hint
  · rw [h]
  · rw [h, handFill_only, hu]

/-- A load changes no value that anyone reads. -/
theorem readByte_afterLoad (s : State) (w : Who) (x hint : Nat) (w' : Who) (va : Nat) :
    readByte (afterLoad s w x hint) w' va = readByte s w' va := by
  obtain h | ⟨u, sec, hu, h⟩ := afterLoad_cases s w x hint
  · exact h.readByte w' va
  · rw [h, readByte_handFill]; exact hu.readByte w' va

/-- A byte performed for a requester changes no place. -/
theorem sameMap_writeByte (s : State) (w : Who) (va : Nat) (b : Byte) : SameMap s (writeByte s w va b) := by
  have into : ∀ (s : State) x b, SameMap s (byteInto s x b) := by
    intro s x b; cases x <;> exact sameMap_of rfl rfl
  have dirty := sameMap_markDirty s (tagOf w.asid va) va
  unfold writeByte; dsimp only
  split
  · split
    · split
      · exact (dirty.trans (sameMap_handFill _ _ _)).trans (sameMap_setHand _ _)
      · exact (dirty.trans (sameMap_handFill _ _ _)).trans (into _ _ _)
    · exact dirty.trans (into _ _ _)
  · exact dirty.trans (into _ _ _)

theorem sameMap_writeBytes (w : Who) (bs : List Byte) : ∀ (s : State) (va : Nat), SameMap s (writeBytes s w va bs) := by
  induction bs with
  | nil => intro s va; exact SameMap.refl s
  | cons b bs ih => intro s va; exact (sameMap_writeByte s w va b).trans (ih _ _)

theorem readByte_markDirty (s : State) (tag x : Nat) (w : Who) (va : Nat) :
    readByte (markDirty s tag x) w va = readByte s w va := by
  have e := markDirty_fields s tag x
  exact readByte_congr (sameMap_markDirty s tag x) (by rw [e]) (by rw [e]) (by rw [e]) w va

/-- Every handoff copy holds a sector of 64 bytes (R91). -/
def HandOk (s : State) : Prop := ∀ c, c ∈ s.hand → c.bytes.length = 64

theorem handOk_setHand {s : State} (h : HandOk s) (c : HandCopy) (hc : c.bytes.length = 64) : HandOk (setHand s c) := by
  intro x hx
  simp only [setHand, List.mem_append, List.mem_filter, List.mem_singleton] at hx
  rcases hx with ⟨hx, -⟩ | rfl
  · exact h x hx
  · exact hc

theorem handOk_handFill {s : State} (h : HandOk s) (cl sec : Nat) : HandOk (handFill s cl sec) := by
  unfold handFill; split
  · exact h
  · split
    · exact h
    have hr := fabOnly_makeRoom s cl (2 ^ 14, sec / 256)
    exact handOk_setHand (s := makeRoom s cl (2 ^ 14, sec / 256)) (by rw [hr]; exact h) _ (length_bytesAt _ _ _)

theorem handCopy_mem {s : State} {cl sec : Nat} {c : HandCopy} (h : handCopy s cl sec = some c) :
    c ∈ s.hand ∧ c.cluster = cl ∧ c.dpa = sec := by
  have := List.find?_some h
  simp only [Bool.and_eq_true, decide_eq_true_eq] at this
  exact ⟨List.mem_of_find?_eq_some h, this⟩

theorem mem_handFill (s : State) (cl sec : Nat) : (handFill s cl sec).mem = s.mem := by rw [handFill_only]

theorem far_handFill (s : State) (cl sec : Nat) : (handFill s cl sec).hostp = s.hostp := by rw [handFill_only]

theorem hand_markDirty (s : State) (tag va : Nat) : (markDirty s tag va).hand = s.hand := by rw [markDirty_fields]

/-- A byte of a far page has one key for each adapter and address. -/
theorem farKey_inj {a b x y : Nat} (hx : x < 2 ^ 64) (hy : y < 2 ^ 64) (h : farKey a x = farKey b y) : a = b ∧ x = y := by
  unfold farKey at h; omega

theorem whereIs_far {s : State} {dom tag va a x : Nat} (h : whereIs s dom tag va = .far a x) : x < 2 ^ 64 := by
  unfold whereIs at h
  split at h
  · cases h
  · split at h
    · unfold pagePlace at h
      split at h
      · cases h; exact Nat.mod_lt _ (by decide)
      · cases h
    · cases h

theorem handOk_writeByte {s : State} (h : HandOk s) (w : Who) (va : Nat) (b : Byte) : HandOk (writeByte s w va b) := by
  have hd : HandOk (markDirty s (tagOf w.asid va) va) := by unfold HandOk; rw [hand_markDirty]; exact h
  have into : ∀ {s : State} x b, HandOk s → HandOk (byteInto s x b) := by intro s x b h; cases x <;> exact h
  unfold writeByte; dsimp only
  split
  · split
    · split
      · rename_i c hc
        exact handOk_setHand (handOk_handFill hd _ _) _ (by
          have := handOk_handFill hd _ _ c (handCopy_mem hc).1
          simpa using this)
      · exact into _ _ (handOk_handFill hd _ _)
    · exact into _ _ hd
  · exact into _ _ hd

theorem getD_set (l : List Byte) (i j : Nat) (b : Byte) (hi : i < l.length) :
    (l.set i b).getD j 0 = if j = i then b else l.getD j 0 := by
  by_cases h : j = i
  · subst h; simp [List.getD_eq_getElem?_getD, hi]
  · have : ¬ i = j := fun e => h e.symm
    simp [List.getD_eq_getElem?_getD, this, h]

/-- A byte written to DRAM is read by nobody at another place. -/
theorem readByte_intoDram (s : State) (p : Nat) (b : Byte) (w' : Who) (a : Nat)
    (h : whereIs s w'.domain (tagOf w'.asid a) a ≠ .dram p) : readByte (byteInto s (.dram p) b) w' a = readByte s w' a := by
  have bm := sameMap_of (s := s) (t := byteInto s (.dram p) b) rfl rfl
  have hh : ∀ cl k, handCopy (byteInto s (.dram p) b) cl k = handCopy s cl k := fun _ _ => rfl
  simp only [readByte_eq, bm.1, bm.2, hh]
  cases hy : whereIs s w'.domain (tagOf w'.asid a) a with
  | absent => rfl
  | far a x => rfl
  | dram q =>
    have : ¬ q = p := fun e => h (by rw [hy, e])
    simp only [byteInto, byteAt_setByte, if_neg this]

/-- THE LAW OF ONE BYTE WRITTEN: every byte that is kept elsewhere reads as before. -/
theorem readByte_writeByte_other (s : State) (w : Who) (va : Nat) (b : Byte) (hk : HandOk s) (w' : Who) (a : Nat)
    (h : whereIs s w'.domain (tagOf w'.asid a) a ≠ whereIs s w.domain (tagOf w.asid va) va) :
    readByte (writeByte s w va b) w' a = readByte s w' a := by
  have hm := sameMap_writeByte s w va b
  unfold writeByte at hm ⊢
  dsimp only at hm ⊢
  cases hx : whereIs s w.domain (tagOf w.asid va) va with
  | absent =>
    simp only [hx] at hm ⊢
    exact readByte_markDirty _ _ _ _ _
  | far ad x =>
    simp only [hx] at hm ⊢
    rw [← readByte_markDirty s (tagOf w.asid va) va w' a]
    have md := sameMap_markDirty s (tagOf w.asid va) va
    simp only [readByte_eq, byteInto, md.1, md.2]
    rw [show ∀ (s : State) (f : HostPorts) dom tag va, whereIs { s with hostp := f } dom tag va = whereIs s dom tag va from
      fun s f => (sameMap_of (s := s) (t := { s with hostp := f }) rfl rfl).1]
    rw [show ∀ (s : State) (f : HostPorts) tag va, kindAt { s with hostp := f } tag va = kindAt s tag va from
      fun s f => (sameMap_of (s := s) (t := { s with hostp := f }) rfl rfl).2]
    rw [md.1, md.2]
    cases hy : whereIs s w'.domain (tagOf w'.asid a) a with
    | absent => rfl
    | dram p => rfl
    | far ad' y =>
      simp only [byteIn, byteAt_setByte]
      rw [if_neg]
      intro e
      obtain ⟨rfl, rfl⟩ := farKey_inj (whereIs_far hy) (whereIs_far hx) e
      exact h (hy.trans hx.symm)
  | dram p =>
    simp only [hx] at hm ⊢
    rw [hx] at h
    by_cases k3 : kindAt s (tagOf w.asid va) va = 3
    · simp only [k3, if_true] at hm ⊢
      have hf : HandOk (handFill (markDirty s (tagOf w.asid va) va) w.cluster (sectorOf p)) :=
        handOk_handFill (by unfold HandOk; rw [hand_markDirty]; exact hk) _ _
      have base : readByte (handFill (markDirty s (tagOf w.asid va) va) w.cluster (sectorOf p)) w' a = readByte s w' a :=
        (readByte_handFill _ _ _ _ _).trans (readByte_markDirty _ _ _ _ _)
      rw [← base]
      split
      · rename_i c hc
        obtain ⟨hcm, hcc, hcd⟩ := handCopy_mem hc
        have sm := sameMap_setHand (handFill (markDirty s (tagOf w.asid va) va) w.cluster (sectorOf p))
          { c with bytes := c.bytes.set (p % 64) b, dirty := true }
        have fm := (sameMap_markDirty s (tagOf w.asid va) va).trans (sameMap_handFill _ w.cluster (sectorOf p))
        simp only [readByte_eq, sm.1, sm.2, fm.1, fm.2, handCopy_setHand, setHand_mem]
        cases hy : whereIs s w'.domain (tagOf w'.asid a) a with
        | absent => rfl
        | far a x => rfl
        | dram q =>
          dsimp only
          split
          · by_cases e : w'.cluster = c.cluster ∧ sectorOf q = c.dpa
            · rw [if_pos e, e.1, e.2, hcc, hcd, hc]
              dsimp only
              rw [getD_set _ _ _ _ (by rw [hf c hcm]; exact Nat.mod_lt _ (by decide)), if_neg]
              intro m
              apply h; rw [hy]; congr 1
              have := e.2.trans hcd
              simp only [sectorOf] at this; omega
            · rw [if_neg e]
          · rfl
      · exact readByte_intoDram _ _ _ _ _ (by
          rw [(((sameMap_markDirty s (tagOf w.asid va) va).trans (sameMap_handFill _ w.cluster (sectorOf p))).1)]; exact h)
    · simp only [k3, if_false] at hm ⊢
      rw [← readByte_markDirty s (tagOf w.asid va) va w' a]
      exact readByte_intoDram _ _ _ _ _ (by rw [(sameMap_markDirty s (tagOf w.asid va) va).1]; exact h)

/-- THE LAW OF ONE BYTE WRITTEN: at its own place the requester reads it back. -/
theorem readByte_writeByte_same (s : State) (w : Who) (va : Nat) (b : Byte) (hk : HandOk s)
    (h : whereIs s w.domain (tagOf w.asid va) va ≠ .absent) : readByte (writeByte s w va b) w va = b := by
  have hm := sameMap_writeByte s w va b
  rw [readByte_eq, hm.1, hm.2]
  unfold writeByte
  dsimp only
  cases hx : whereIs s w.domain (tagOf w.asid va) va with
  | absent => exact absurd hx h
  | far ad x => simp only [byteIn, byteInto, byteAt_setByte, if_true]
  | dram p =>
    by_cases k3 : kindAt s (tagOf w.asid va) va = 3
    · simp only [k3, if_true]
      have hf : HandOk (handFill (markDirty s (tagOf w.asid va) va) w.cluster (sectorOf p)) :=
        handOk_handFill (by unfold HandOk; rw [hand_markDirty]; exact hk) _ _
      cases hc : handCopy (handFill (markDirty s (tagOf w.asid va) va) w.cluster (sectorOf p)) w.cluster (sectorOf p) with
      | none =>
        have hn : handCopy (byteInto (handFill (markDirty s (tagOf w.asid va) va) w.cluster (sectorOf p)) (.dram p) b) w.cluster
            (sectorOf p) = none := hc
        dsimp only
        rw [hn]
        simp only [byteInto, byteAt_setByte, if_true]
      | some c =>
        obtain ⟨hcm, hcc, hcd⟩ := handCopy_mem hc
        simp only [handCopy_setHand, hcc, hcd, and_self, if_true]
        rw [getD_set _ _ _ _ (by rw [hf c hcm]; exact Nat.mod_lt _ (by decide))]
        simp
    · simp only [k3, if_false, byteInto, byteAt_setByte, if_true]

/-- BYTES WRITTEN IN A ROW: with every place present and no two alike, they read back, and every byte kept elsewhere is unchanged. -/
theorem writeBytes_spec (w : Who) (bs : List Byte) : ∀ (s : State) (va : Nat), HandOk s →
    (∀ i, i < bs.length → whereIs s w.domain (tagOf w.asid (va + i)) (va + i) ≠ .absent) →
    (∀ i j, i < bs.length → j < bs.length → i ≠ j →
      whereIs s w.domain (tagOf w.asid (va + i)) (va + i) ≠ whereIs s w.domain (tagOf w.asid (va + j)) (va + j)) →
    (∀ i, i < bs.length → readByte (writeBytes s w va bs) w (va + i) = bs.getD i 0)
      ∧ ∀ w' a, (∀ i, i < bs.length →
          whereIs s w'.domain (tagOf w'.asid a) a ≠ whereIs s w.domain (tagOf w.asid (va + i)) (va + i)) →
        readByte (writeBytes s w va bs) w' a = readByte s w' a := by
  induction bs with
  | nil => exact fun s va _ _ _ => ⟨fun i h => absurd h (Nat.not_lt_zero i), fun _ _ _ => rfl⟩
  | cons b bs ih =>
    intro s va hk hp hd
    have m := sameMap_writeByte s w va b
    have sh : ∀ i, va + 1 + i = va + (i + 1) := fun i => by omega
    obtain ⟨i1, i2⟩ := ih (writeByte s w va b) (va + 1) (handOk_writeByte hk w va b)
      (fun i h => by rw [m.1, sh]; exact hp (i + 1) (Nat.succ_lt_succ h))
      (fun i j hi hj hij => by
        rw [m.1, m.1, sh, sh]; exact hd (i + 1) (j + 1) (Nat.succ_lt_succ hi) (Nat.succ_lt_succ hj) (by omega))
    refine ⟨fun i h => ?_, fun w' a h => ?_⟩
    · cases i with
      | zero =>
        show readByte (writeBytes (writeByte s w va b) w (va + 1) bs) w va = b
        rw [i2 w va (fun i h => by
          rw [m.1, m.1, sh]; exact hd 0 (i + 1) (Nat.succ_pos _) (Nat.succ_lt_succ h) (by omega))]
        exact readByte_writeByte_same s w va b hk (hp 0 (Nat.succ_pos _))
      | succ i =>
        show readByte (writeBytes (writeByte s w va b) w (va + 1) bs) w (va + (i + 1)) = (b :: bs).getD (i + 1) 0
        have e := i1 i (Nat.lt_of_succ_lt_succ h)
        rw [sh] at e
        exact e
    · show readByte (writeBytes (writeByte s w va b) w (va + 1) bs) w' a = readByte s w' a
      rw [i2 w' a (fun i hi => by rw [m.1, m.1, sh]; exact h (i + 1) (Nat.succ_lt_succ hi))]
      exact readByte_writeByte_other s w va b hk w' a (h 0 (Nat.succ_pos _))

end Sys2Proof.Machine
end

