-- ==== Sys2Proof/Laws/Invariant.lean ====
section
/-! SUPPORT. Every operation on a memory of the module keeps its canonical form and the size of the handoff copies (`State.memOk`). -/

namespace Sys2Proof.Machine

/-- The invariant in its parts. -/
theorem memOk_iff {s : State} : s.memOk ↔
    Memory.wf s.mem = true ∧ Memory.wf s.lm = true ∧ Memory.wf s.hostp.far = true ∧ HandOk s := by
  simp [State.memOk, HandOk]

/-- A step that leaves every memory and every handoff copy as it is keeps the invariant. -/
theorem memOk_congr {s t : State} (h : s.memOk) (h1 : t.mem = s.mem) (h2 : t.lm = s.lm) (h3 : t.hostp.far = s.hostp.far)
    (h4 : t.hand = s.hand) : t.memOk := by
  unfold State.memOk at h ⊢; rwa [h1, h2, h3, h4]

/-- A step that changes the fabric alone. -/
theorem memOk_fabOnly {s t : State} (h : s.memOk) (k : FabOnly s t) : t.memOk :=
  memOk_congr h (by rw [k]) (by rw [k]) (by rw [k]) (by rw [k])

/-- Memory at reset lists nothing. -/
theorem memOk_reset : State.reset.memOk := ⟨rfl, rfl, rfl, rfl⟩

/-- A coherent byte written. -/
theorem memOk_byteInto {s : State} (h : s.memOk) (x : Where) (b : Byte) : (byteInto s x b).memOk := by
  rw [memOk_iff] at h ⊢
  cases x with
  | absent => exact h
  | dram p => exact ⟨wf_setByte _ _ _ h.1, h.2⟩
  | far a y => exact ⟨h.1, h.2.1, wf_setByte _ _ _ h.2.2.1, h.2.2.2⟩

/-- A handoff copy put in place. -/
theorem memOk_setHand {s : State} (h : s.memOk) (c : HandCopy) (hc : c.bytes.length = 64) : (setHand s c).memOk := by
  rw [memOk_iff] at h ⊢
  exact ⟨h.1, h.2.1, h.2.2.1, handOk_setHand h.2.2.2 c hc⟩

/-- A handoff sector brought in. -/
theorem memOk_handFill {s : State} (h : s.memOk) (cl sec : Nat) : (handFill s cl sec).memOk := by
  unfold handFill; split
  · exact h
  · split
    · exact h
    exact memOk_setHand (memOk_fabOnly h (fabOnly_makeRoom s cl (2 ^ 14, sec / 256))) _ (length_bytesAt _ _ _)

/-- Fewer handoff copies. -/
theorem memOk_filterHand {s : State} (h : s.memOk) (p : HandCopy → Bool) : ({ s with hand := s.hand.filter p } : State).memOk := by
  rw [memOk_iff] at h ⊢
  exact ⟨h.1, h.2.1, h.2.2.1, fun c hc => h.2.2.2 c (List.mem_filter.1 hc).1⟩

/-- A handoff sector leaves a cache. -/
theorem memOk_handEvict {s : State} (h : s.memOk) (cl sec : Nat) : (handEvict s cl sec).memOk := by
  unfold handEvict; split
  · exact h
  · rename_i c _
    rw [memOk_iff] at h ⊢
    refine ⟨?_, h.2.1, h.2.2.1, fun c hc => h.2.2.2 c (List.mem_filter.1 hc).1⟩
    show Memory.wf (if c.dirty then setBytes s.mem sec c.bytes else s.mem) = true
    split
    · exact wf_setBytes _ _ _ h.1
    · exact h.1

/-- Handoff sectors written home and kept. -/
theorem memOk_cleanHand {s : State} (h : s.memOk) (cl : Nat) (w : Who) (va n : Nat) : (cleanHand s cl w va n).memOk := by
  unfold cleanHand
  have hk : ∀ c, c ∈ s.hand → c.bytes.length = 64 := (memOk_iff.1 h).2.2.2
  generalize s.hand = l at hk
  induction l generalizing s with
  | nil => exact h
  | cons c l ih =>
    rw [List.foldl_cons]
    refine ih ?_ fun x hx => hk x (by simp [hx])
    split
    · refine memOk_setHand ?_ _ (hk c (by simp))
      rw [memOk_iff] at h ⊢
      exact ⟨wf_setBytes _ _ _ h.1, h.2⟩
    · exact h

/-- A dirty bit set. -/
theorem memOk_markDirty {s : State} (h : s.memOk) (tag va : Nat) : (markDirty s tag va).memOk := by
  unfold markDirty; split
  · exact h
  · split <;> exact h

/-- A byte written by a requester. -/
theorem memOk_writeByte {s : State} (h : s.memOk) (w : Who) (va : Nat) (b : Byte) : (writeByte s w va b).memOk := by
  have hd := memOk_markDirty h (tagOf w.asid va) va
  have hh := handOk_writeByte (memOk_iff.1 h).2.2.2 w va b
  unfold writeByte at hh ⊢; dsimp only at hh ⊢
  split
  · split
    · split
      · rename_i c hc
        have := (memOk_iff.1 (memOk_handFill hd w.cluster _)).2.2.2 c (handCopy_mem hc).1
        exact memOk_setHand (memOk_handFill hd _ _) _ (by simpa using this)
      · exact memOk_byteInto (memOk_handFill hd _ _) _ _
    · exact memOk_byteInto hd _ _
  · exact memOk_byteInto hd _ _

/-- Bytes written by a requester. -/
theorem memOk_writeBytes (w : Who) (bs : List Byte) :
    ∀ (s : State) (va : Nat), s.memOk → (writeBytes s w va bs).memOk := by
  induction bs with
  | nil => intro s va h; exact h
  | cons b bs ih => intro s va h; exact ih _ _ (memOk_writeByte h w va b)

/-- Bytes of DRAM made zero. -/
theorem memOk_clearBytes {s : State} (h : s.memOk) (a n : Nat) : ({ s with mem := clearBytes s.mem a n } : State).memOk := by
  rw [memOk_iff] at h ⊢
  exact ⟨wf_clearBytes _ _ _ h.1, h.2⟩

/-- Bytes of a local memory written. -/
theorem memOk_lmWrite {s : State} (h : s.memOk) (core la : Nat) (bs : List Byte) : (lmWrite s core la bs).memOk := by
  rw [memOk_iff] at h ⊢
  exact ⟨h.1, wf_setBytes _ _ _ h.2.1, h.2.2⟩

end Sys2Proof.Machine
end

