-- ==== Sys2Proof/Laws/Lanes.lean ====
section
/-! SUPPORT. What the shared forms of a register-to-register L-word do, in the notions that claims are made in: the lanes that take part,
the values written under R47, the flags and the lane stream. -/

namespace Sys2Proof.Machine

/-- A lane takes part exactly when it is listed. -/
theorem mem_takerList {s : State} {f : LaneFields} {l : Nat} : l ∈ takerList s.team f ↔ takes s f l = true := by
  simp [takerList, laneList, takes]

/-- Only the lanes of the widest team take part. -/
theorem takes_lt {s : State} {f : LaneFields} {l : Nat} (h : takes s f l = true) : l < 1024 := by
  simp only [takes, Bool.and_eq_true] at h
  exact BitVec.lt_of_getLsbD h.2

/-- The lanes that take part are listed once. -/
theorem takerList_nodup (t : Team) (f : LaneFields) : (takerList t f).Nodup := by
  unfold takerList laneList; exact List.Pairwise.filter _ List.nodup_range

/-- Keys of lanes name their register and lane. -/
theorem vkey_inj {r r' l l' : Nat} (h : l < 1024) (h' : l' < 1024) : vkey r l = vkey r' l' ↔ r = r' ∧ l = l' := by
  unfold vkey; omega

/-- The bits that a number of a type leaves in a register or a pair are those that R47 gives for its pattern. -/
theorem stored_inType (ty c : Nat) :
    stored ty (inType ty (c : Int)) = if ty64 ty then c % 2 ^ 64 else extendR47 ty c % 2 ^ 32 := by
  rcases Nat.lt_or_ge ty 16 with h | h
  · have : ty = 0 ∨ ty = 1 ∨ ty = 2 ∨ ty = 3 ∨ ty = 4 ∨ ty = 5 ∨ ty = 6 ∨ ty = 7 ∨ ty = 8 ∨ ty = 9 ∨ ty = 10 ∨ ty = 11 ∨ ty = 12
      ∨ ty = 13 ∨ ty = 14 ∨ ty = 15 := by omega
    rcases this with h | h | h | h | h | h | h | h | h | h | h | h | h | h | h | h <;> subst h <;>
      simp [stored, inType, leastOf, isSigned, ty64, widthOf, extendR47, toBits, sInt] <;> omega
  · have h1 : isSigned ty = false := by simp [isSigned]; omega
    have h2 : ty64 ty = false := by simp [ty64]; omega
    have h3 : widthOf ty = 32 := by unfold widthOf; split <;> omega
    have h4 : extendR47 ty c = c % 2 ^ 32 := by unfold extendR47; rw [h3, if_neg]; simp; omega
    simp [stored, inType, leastOf, h1, h2, h3, h4]; omega

/-- Writing one lane: what each key of the file then holds. -/
theorem sget_putLane (ty r : Nat) (m : SMap Half) (p : Nat × Nat) (k : Nat) :
    sget 0 (putLane ty r m p) k =
      if ty64 ty = true ∧ k = vkey (r + 1) p.1 then BitVec.ofNat 32 (p.2 / 2 ^ 32)
      else if k = vkey r p.1 then BitVec.ofNat 32 (if ty64 ty then p.2 else extendR47 ty p.2)
      else sget 0 m k := by
  unfold putLane
  by_cases h : ty64 ty = true <;> simp [h, sget_sset]

/-- Keys of lanes that a list of writes does not name keep what they hold. -/
theorem sget_putLanes_other (ty r : Nat) (xs : List (Nat × Nat)) (m : SMap Half) (r' l : Nat) (hl : l < 1024)
    (hx : ∀ x, x ∈ xs → x.1 < 1024) (h : ∀ x, x ∈ xs → x.1 = l → r' ≠ r ∧ (ty64 ty = true → r' ≠ r + 1)) :
    sget 0 (xs.foldl (putLane ty r) m) (vkey r' l) = sget 0 m (vkey r' l) := by
  induction xs generalizing m with
  | nil => rfl
  | cons x xs ih =>
    rw [List.foldl_cons, ih _ (fun y hy => hx y (by simp [hy])) (fun y hy => h y (by simp [hy])), sget_putLane]
    have hx1 := hx x (by simp)
    have hc := h x (by simp)
    rw [if_neg, if_neg]
    · rw [vkey_inj hl hx1]; intro e; exact (hc e.2.symm).1 e.1
    · rw [vkey_inj hl hx1]; intro e; exact (hc e.2.2.symm).2 e.1 e.2.1

/-- A lane that a list of writes names once holds what was written to it (R47). -/
theorem sget_putLanes_same (ty r : Nat) (xs : List (Nat × Nat)) (m : SMap Half) (l c : Nat) (hm : (l, c) ∈ xs)
    (hn : (xs.map (·.1)).Nodup) (hx : ∀ x, x ∈ xs → x.1 < 1024) :
    (sget 0 (xs.foldl (putLane ty r) m) (vkey r l) = BitVec.ofNat 32 (if ty64 ty then c else extendR47 ty c))
      ∧ (ty64 ty = true → sget 0 (xs.foldl (putLane ty r) m) (vkey (r + 1) l) = BitVec.ofNat 32 (c / 2 ^ 32)) := by
  induction xs generalizing m with
  | nil => simp at hm
  | cons x xs ih =>
    rw [List.map_cons, List.nodup_cons] at hn
    rw [List.foldl_cons]
    rcases List.mem_cons.1 hm with e | hm
    · subst e
      have hl : l < 1024 := hx (l, c) (by simp)
      have hne : ∀ y, y ∈ xs → y.1 ≠ l := fun y hy e => hn.1 (List.mem_map.2 ⟨y, hy, e⟩)
      have ho := fun r' => sget_putLanes_other ty r xs (putLane ty r m (l, c)) r' l hl (fun y hy => hx y (by simp [hy]))
        (fun y hy e => absurd e (hne y hy))
      constructor
      · rw [ho, sget_putLane, if_neg, if_pos rfl]
        simp only [vkey]; omega
      · intro h; rw [ho, sget_putLane, if_pos ⟨h, rfl⟩]
    · exact ih _ hm hn.2 fun y hy => hx y (by simp [hy])

/-- An L-word that writes a vector register completes: what it leaves in each lane, the flags, and nothing else (R47, R199, R202). -/
theorem vecWord_wrote (op ty : Nat) (f : LaneFields) (s : State) (one : Team → Nat → Nat × Flags)
    (h : laneLegal s.team.card.v op f = true) :
    ∃ t, vecWord op ty f s one = .next t
      ∧ LaneWrote s t f ty (fun l => ((one s.team l).1 : Int)) (flagsOf s f fun l => (one s.team l).2) := by
  have hx : ∀ x, x ∈ (laneResults s.team f (one s.team)).map (fun x => (x.1, x.2.1)) → x.1 < 1024 ∧ takes s f x.1 = true := by
    intro x hx
    simp only [laneResults, List.map_map, List.mem_map] at hx
    obtain ⟨l, hl, rfl⟩ := hx
    exact ⟨takes_lt (mem_takerList.1 hl), mem_takerList.1 hl⟩
  refine ⟨_, by unfold vecWord laneDone laneWord; rw [if_pos h], ?_, ?_, ?_, rfl⟩
  · intro l hl
    have hm : (l, (one s.team l).1) ∈ (laneResults s.team f (one s.team)).map (fun x => (x.1, x.2.1)) := by
      simp only [laneResults, List.map_map, List.mem_map]
      exact ⟨l, mem_takerList.2 hl, rfl⟩
    have hn : (((laneResults s.team f (one s.team)).map (fun x => (x.1, x.2.1))).map (·.1)).Nodup := by
      have : ((laneResults s.team f (one s.team)).map (fun x => (x.1, x.2.1))).map (·.1) = takerList s.team f := by
        simp [laneResults, List.map_map, Function.comp_def]
      rw [this]; exact takerList_nodup _ _
    have hs := sget_putLanes_same ty f.d.toNat _ s.team.regs.v l _ hm hn fun x hxx => (hx x hxx).1
    rw [stored_inType]
    unfold laneVal vreg
    have e : ∀ k, sget 0 (popWord (vecResults ty f s one)).team.regs.v k
        = sget 0 (((laneResults s.team f (one s.team)).map (fun x => (x.1, x.2.1))).foldl (putLane ty f.d.toNat) s.team.regs.v) k :=
      fun _ => rfl
    by_cases h64 : ty64 ty = true
    · rw [if_pos h64, if_pos h64, e, e, hs.1, hs.2 h64, if_pos h64]
      simp only [BitVec.toNat_ofNat]; omega
    · rw [if_neg h64, if_neg h64, e, hs.1, if_neg h64]
      simp
  · intro r l hl hr
    unfold vreg
    have e : sget 0 (popWord (vecResults ty f s one)).team.regs.v (vkey r l)
        = sget 0 (((laneResults s.team f (one s.team)).map (fun x => (x.1, x.2.1))).foldl (putLane ty f.d.toNat) s.team.regs.v) (vkey r l) :=
      rfl
    rw [e, sget_putLanes_other ty f.d.toNat _ _ r l hl fun x hxx => (hx x hxx).1]
    intro x hxx hxl
    have := (hx x hxx).2
    rw [hxl] at this
    constructor
    · intro e; exact hr ⟨this, .inl e⟩
    · intro h64 e; exact hr ⟨this, .inr ⟨h64, e⟩⟩
  · have : allFlags (laneResults s.team f (one s.team)) = flagsOf s f fun l => (one s.team l).2 := by
      simp [allFlags, laneResults, flagsOf, List.foldl_map]
    simp only [popWord, vecResults, raise, writeVec, setRegs, setTeam, this]

end Sys2Proof.Machine
end

