-- ==== Sys2Proof/Laws/PerInstr.lean ====
section
/-! SUPPORT. A statement for every instruction, one lemma for each constructor: the scalar registers that a well-formed S-word names are
s0 to s95 and sz (R134). -/

namespace Sys2Proof.Laws.Registers

/-- Every scalar register that a well-formed instruction reads or writes is s0 to s95 or sz (R134). -/
def Statement (i : Instr) : Prop :=
  wellFormed i = true → ∀ r, r ∈ Machine.scalarReads i ++ Machine.scalarWrites i → r.toNat < 96 ∨ r = 127

/-- The statement from the list of the registers, each legal where the instruction is well-formed. -/
theorem of_list (i : Instr) (l : List SReg) (hl : Machine.scalarReads i ++ Machine.scalarWrites i = l)
    (hw : wellFormed i = true → l.all regOk = true) : Statement i := by
  intro h r hr; rw [hl] at hr
  simpa [regOk] using List.all_eq_true.mp (hw h) r hr

/-- An instruction that names no scalar register. -/
theorem of_none (i : Instr) (hl : Machine.scalarReads i ++ Machine.scalarWrites i = []) : Statement i :=
  of_list i [] hl fun _ => rfl

/-- Legal fields, listed as an instruction reads and writes them. -/
theorem pick3120 {x y z : SReg} (h : (regOk x && regOk y && regOk z) = true) : [y, z, x].all regOk = true := by
  simp_all

/-- Legal fields, listed as an instruction reads and writes them. -/
theorem pick210 {x y : SReg} (h : (regOk x && regOk y) = true) : [y, x].all regOk = true := by
  simp_all

/-- Legal fields, listed as an instruction reads and writes them. -/
theorem pick30120 {x y z : SReg} (h : (regOk x && regOk y && regOk z) = true) : [x, y, z, x].all regOk = true := by
  simp_all

/-- Legal fields, listed as an instruction reads and writes them. -/
theorem pick10 {x : SReg} (h : (regOk x) = true) : [x].all regOk = true := by
  simp_all

/-- Legal fields, listed as an instruction reads and writes them. -/
theorem pick100 {x : SReg} (h : (regOk x) = true) : [x, x].all regOk = true := by
  simp_all

/-- Legal fields, listed as an instruction reads and writes them. -/
theorem pick201 {x y : SReg} (h : (regOk x && regOk y) = true) : [x, y].all regOk = true := by
  simp_all

/-- Legal fields, listed as an instruction reads and writes them. -/
theorem pick10k {x : SReg} (h : (regOk x) = true) : [x, 95].all regOk = true := by
  have k : regOk 95 = true := rfl
  simp_all

/-- Legal fields, listed as an instruction reads and writes them. -/
theorem pick3012 {x y z : SReg} (h : (regOk x && regOk y && regOk z) = true) : [x, y, z].all regOk = true := by
  simp_all

theorem add (d : SReg) (a : SReg) (b : SReg) : Statement (.add d a b) := of_list _ [a, b, d] rfl (fun h => pick3120 h)
theorem sub (d : SReg) (a : SReg) (b : SReg) : Statement (.sub d a b) := of_list _ [a, b, d] rfl (fun h => pick3120 h)
theorem mul (d : SReg) (a : SReg) (b : SReg) : Statement (.mul d a b) := of_list _ [a, b, d] rfl (fun h => pick3120 h)
theorem mulhS (d : SReg) (a : SReg) (b : SReg) : Statement (.mulhS d a b) := of_list _ [a, b, d] rfl (fun h => pick3120 h)
theorem mulhZ (d : SReg) (a : SReg) (b : SReg) : Statement (.mulhZ d a b) := of_list _ [a, b, d] rfl (fun h => pick3120 h)
theorem divS (d : SReg) (a : SReg) (b : SReg) : Statement (.divS d a b) := of_list _ [a, b, d] rfl (fun h => pick3120 h)
theorem divZ (d : SReg) (a : SReg) (b : SReg) : Statement (.divZ d a b) := of_list _ [a, b, d] rfl (fun h => pick3120 h)
theorem remS (d : SReg) (a : SReg) (b : SReg) : Statement (.remS d a b) := of_list _ [a, b, d] rfl (fun h => pick3120 h)
theorem remZ (d : SReg) (a : SReg) (b : SReg) : Statement (.remZ d a b) := of_list _ [a, b, d] rfl (fun h => pick3120 h)
theorem and (d : SReg) (a : SReg) (b : SReg) : Statement (.and d a b) := of_list _ [a, b, d] rfl (fun h => pick3120 h)
theorem or (d : SReg) (a : SReg) (b : SReg) : Statement (.or d a b) := of_list _ [a, b, d] rfl (fun h => pick3120 h)
theorem xor (d : SReg) (a : SReg) (b : SReg) : Statement (.xor d a b) := of_list _ [a, b, d] rfl (fun h => pick3120 h)
theorem shl (d : SReg) (a : SReg) (b : SReg) : Statement (.shl d a b) := of_list _ [a, b, d] rfl (fun h => pick3120 h)
theorem shr (d : SReg) (a : SReg) (b : SReg) : Statement (.shr d a b) := of_list _ [a, b, d] rfl (fun h => pick3120 h)
theorem sra (d : SReg) (a : SReg) (b : SReg) : Statement (.sra d a b) := of_list _ [a, b, d] rfl (fun h => pick3120 h)
theorem minS (d : SReg) (a : SReg) (b : SReg) : Statement (.minS d a b) := of_list _ [a, b, d] rfl (fun h => pick3120 h)
theorem minZ (d : SReg) (a : SReg) (b : SReg) : Statement (.minZ d a b) := of_list _ [a, b, d] rfl (fun h => pick3120 h)
theorem maxS (d : SReg) (a : SReg) (b : SReg) : Statement (.maxS d a b) := of_list _ [a, b, d] rfl (fun h => pick3120 h)
theorem maxZ (d : SReg) (a : SReg) (b : SReg) : Statement (.maxZ d a b) := of_list _ [a, b, d] rfl (fun h => pick3120 h)
theorem sltS (d : SReg) (a : SReg) (b : SReg) : Statement (.sltS d a b) := of_list _ [a, b, d] rfl (fun h => pick3120 h)
theorem sltZ (d : SReg) (a : SReg) (b : SReg) : Statement (.sltZ d a b) := of_list _ [a, b, d] rfl (fun h => pick3120 h)
theorem seq (d : SReg) (a : SReg) (b : SReg) : Statement (.seq d a b) := of_list _ [a, b, d] rfl (fun h => pick3120 h)
theorem clz (d : SReg) (a : SReg) : Statement (.clz d a) := of_list _ [a, d] rfl (fun h => pick210 h)
theorem ctz (d : SReg) (a : SReg) : Statement (.ctz d a) := of_list _ [a, d] rfl (fun h => pick210 h)
theorem popc (d : SReg) (a : SReg) : Statement (.popc d a) := of_list _ [a, d] rfl (fun h => pick210 h)
theorem sel (d : SReg) (a : SReg) (b : SReg) : Statement (.sel d a b) := of_list _ [d, a, b, d] rfl (fun h => pick30120 h)
theorem addi (d : SReg) (a : SReg) (imm : BitVec 12) : Statement (.addi d a imm) := of_list _ [a, d] rfl (fun h => pick210 h)
theorem andi (d : SReg) (a : SReg) (imm : BitVec 12) : Statement (.andi d a imm) := of_list _ [a, d] rfl (fun h => pick210 h)
theorem ori (d : SReg) (a : SReg) (imm : BitVec 12) : Statement (.ori d a imm) := of_list _ [a, d] rfl (fun h => pick210 h)
theorem xori (d : SReg) (a : SReg) (imm : BitVec 12) : Statement (.xori d a imm) := of_list _ [a, d] rfl (fun h => pick210 h)
theorem shli (d : SReg) (a : SReg) (amt : BitVec 6) : Statement (.shli d a amt) := of_list _ [a, d] rfl (fun h => pick210 h)
theorem shri (d : SReg) (a : SReg) (amt : BitVec 6) : Statement (.shri d a amt) := of_list _ [a, d] rfl (fun h => pick210 h)
theorem srai (d : SReg) (a : SReg) (amt : BitVec 6) : Statement (.srai d a amt) := of_list _ [a, d] rfl (fun h => pick210 h)
theorem slti (d : SReg) (a : SReg) (imm : BitVec 12) : Statement (.slti d a imm) := of_list _ [a, d] rfl (fun h => pick210 h)
theorem limm (d : SReg) (imm : BitVec 19) : Statement (.limm d imm) := of_list _ [d] rfl (fun h => pick10 h)
theorem lsh (d : SReg) (imm : BitVec 19) : Statement (.lsh d imm) := of_list _ [d, d] rfl (fun h => pick100 h)
theorem lpc (d : SReg) (imm : BitVec 19) : Statement (.lpc d imm) := of_list _ [d] rfl (fun h => pick10 h)
theorem ld (ty : BitVec 3) (d : SReg) (a : SReg) (off : BitVec 9) : Statement (.ld ty d a off) := of_list _ [a, d] rfl (fun h => pick210 h)
theorem st (ty : BitVec 2) (d : SReg) (a : SReg) (off : BitVec 9) : Statement (.st ty d a off) := of_list _ [d, a] rfl (fun h => pick201 h)
theorem amoS32 (aop : BitVec 3) (ord : BitVec 2) (d : SReg) (a : SReg) (b : SReg) : Statement (.amoS32 aop ord d a b) := of_list _ [d, a, b, d] rfl (fun h => pick30120 h)
theorem amoZ32 (aop : BitVec 3) (ord : BitVec 2) (d : SReg) (a : SReg) (b : SReg) : Statement (.amoZ32 aop ord d a b) := of_list _ [d, a, b, d] rfl (fun h => pick30120 h)
theorem amo64 (aop : BitVec 3) (ord : BitVec 2) (d : SReg) (a : SReg) (b : SReg) : Statement (.amo64 aop ord d a b) := of_list _ [d, a, b, d] rfl (fun h => pick30120 h)
theorem amoF32 (aop : BitVec 3) (ord : BitVec 2) (d : SReg) (a : SReg) (b : SReg) : Statement (.amoF32 aop ord d a b) := of_list _ [d, a, b, d] rfl (fun h => by have h : (regOk d && regOk a && regOk b && (aop.toNat ≤ 2 || 6 ≤ aop.toNat)) = true := h; simp_all)
theorem b (off : BitVec 26) : Statement (.b off) := of_none _ rfl
theorem call (off : BitVec 26) : Statement (.call off) := of_list _ [95] rfl (fun _ => rfl)
theorem bc (cond : BitVec 3) (a : SReg) (off : BitVec 16) : Statement (.bc cond a off) := of_list _ [a] rfl (fun h => by have h : (regOk a && cond.toNat ≤ 5) = true := h; simp_all)
theorem jr (a : SReg) : Statement (.jr a) := of_list _ [a] rfl (fun h => pick10 h)
theorem callr (a : SReg) : Statement (.callr a) := of_list _ [a, 95] rfl (fun h => pick10k h)
theorem lrun (a : SReg) (n : BitVec 12) : Statement (.lrun a n) := of_list _ [a] rfl (fun h => pick10 h)
theorem lloop (d : SReg) (a : SReg) (b : SReg) (len : BitVec 5) : Statement (.lloop d a b len) := of_list _ [d, a, b] rfl (fun h => pick3012 h)
theorem fence (kind : BitVec 3) (scope : BitVec 3) : Statement (.fence kind scope) := of_none _ rfl
theorem cwait (a : SReg) (b : SReg) : Statement (.cwait a b) := of_list _ [a, b] rfl (fun h => pick201 h)
theorem cpclose (d : SReg) : Statement (.cpclose d) := of_list _ [d] rfl (fun h => pick10 h)
theorem cpwait (a : SReg) : Statement (.cpwait a) := of_list _ [a] rfl (fun h => pick10 h)
theorem mxpost (a : SReg) : Statement (.mxpost a) := of_list _ [a] rfl (fun h => pick10 h)
theorem own (new : BitVec 2) (d : SReg) (a : SReg) : Statement (.own new d a) := of_list _ [a, d] rfl (fun h => pick210 h)
theorem ownQuery (d : SReg) (a : SReg) : Statement (.ownQuery d a) := of_list _ [a, d] rfl (fun h => pick210 h)
theorem coll (d : SReg) (a : SReg) : Statement (.coll d a) := of_list _ [a, d] rfl (fun h => pick210 h)
theorem qpush (a : SReg) (b : SReg) : Statement (.qpush a b) := of_list _ [a, b] rfl (fun h => pick201 h)
theorem qpop (d : SReg) (a : SReg) : Statement (.qpop d a) := of_list _ [a, d] rfl (fun h => pick210 h)
theorem post (d : SReg) (a : SReg) (b : SReg) : Statement (.post d a b) := of_list _ [a, b, d] rfl (fun h => pick3120 h)
theorem gseq (d : SReg) (a : SReg) : Statement (.gseq d a) := of_list _ [a, d] rfl (fun h => pick210 h)
theorem crvld (a : SReg) : Statement (.crvld a) := of_list _ [a] rfl (fun h => pick10 h)
theorem csrr (d : SReg) (csr : BitVec 12) : Statement (.csrr d csr) := of_list _ [d] rfl (fun h => pick10 h)
theorem csrw (a : SReg) (csr : BitVec 12) : Statement (.csrw a csr) := of_list _ [a] rfl (fun h => pick10 h)
theorem trap (code : BitVec 16) : Statement (.trap code) := of_none _ rfl
theorem brk (code : BitVec 16) : Statement (.brk code) := of_none _ rfl
theorem cacheWb (a : SReg) (b : SReg) : Statement (.cacheWb a b) := of_list _ [a, b] rfl (fun h => pick201 h)
theorem cacheInv (a : SReg) (b : SReg) : Statement (.cacheInv a b) := of_list _ [a, b] rfl (fun h => pick201 h)
theorem cacheWbinv (a : SReg) (b : SReg) : Statement (.cacheWbinv a b) := of_list _ [a, b] rfl (fun h => pick201 h)
theorem cacheDiscard (a : SReg) (b : SReg) : Statement (.cacheDiscard a b) := of_list _ [a, b] rfl (fun h => pick201 h)
theorem cacheBind (d : SReg) (a : SReg) (b : SReg) : Statement (.cacheBind d a b) := of_list _ [d, a, b] rfl (fun h => pick3012 h)
theorem cacheUnbind (a : SReg) : Statement (.cacheUnbind a) := of_list _ [a] rfl (fun h => pick10 h)
theorem cancel (level : BitVec 2) (a : SReg) : Statement (.cancel level a) := of_list _ [a] rfl (fun h => pick10 h)
theorem ctr (level : BitVec 2) (d : SReg) (a : SReg) : Statement (.ctr level d a) := of_list _ [a, d] rfl (fun h => pick210 h)
theorem rptinv (a : SReg) (b : SReg) : Statement (.rptinv a b) := of_list _ [a, b] rfl (fun h => pick201 h)
theorem tstop (a : SReg) : Statement (.tstop a) := of_list _ [a] rfl (fun h => pick10 h)
theorem vadd (f : LaneFields) : Statement (.vadd f) := of_none _ rfl
theorem vsub (f : LaneFields) : Statement (.vsub f) := of_none _ rfl
theorem vmul (f : LaneFields) : Statement (.vmul f) := of_none _ rfl
theorem vmulh (f : LaneFields) : Statement (.vmulh f) := of_none _ rfl
theorem vmad (f : LaneFields) : Statement (.vmad f) := of_none _ rfl
theorem vdiv (f : LaneFields) : Statement (.vdiv f) := of_none _ rfl
theorem vrem (f : LaneFields) : Statement (.vrem f) := of_none _ rfl
theorem vabs (f : LaneFields) : Statement (.vabs f) := of_none _ rfl
theorem vneg (f : LaneFields) : Statement (.vneg f) := of_none _ rfl
theorem vmin (f : LaneFields) : Statement (.vmin f) := of_none _ rfl
theorem vmax (f : LaneFields) : Statement (.vmax f) := of_none _ rfl
theorem vand (f : LaneFields) : Statement (.vand f) := of_none _ rfl
theorem vor (f : LaneFields) : Statement (.vor f) := of_none _ rfl
theorem vxor (f : LaneFields) : Statement (.vxor f) := of_none _ rfl
theorem vnot (f : LaneFields) : Statement (.vnot f) := of_none _ rfl
theorem vshl (f : LaneFields) : Statement (.vshl f) := of_none _ rfl
theorem vshr (f : LaneFields) : Statement (.vshr f) := of_none _ rfl
theorem vsra (f : LaneFields) : Statement (.vsra f) := of_none _ rfl
theorem vrot (f : LaneFields) : Statement (.vrot f) := of_none _ rfl
theorem vclz (f : LaneFields) : Statement (.vclz f) := of_none _ rfl
theorem vpopc (f : LaneFields) : Statement (.vpopc f) := of_none _ rfl
theorem vbrev (f : LaneFields) : Statement (.vbrev f) := of_none _ rfl
theorem vbext (f : LaneFields) : Statement (.vbext f) := of_none _ rfl
theorem vbins (f : LaneFields) : Statement (.vbins f) := of_none _ rfl
theorem vsel (f : LaneFields) : Statement (.vsel f) := of_none _ rfl
theorem vcmp (f : LaneFields) : Statement (.vcmp f) := of_none _ rfl
theorem vmov (f : LaneFields) : Statement (.vmov f) := of_none _ rfl
theorem vli (f : LaneFields) : Statement (.vli f) := of_none _ rfl
theorem vlane (f : LaneFields) : Statement (.vlane f) := of_none _ rfl
theorem vbcast (f : LaneFields) : Statement (.vbcast f) := of_none _ rfl
theorem vfadd (f : LaneFields) : Statement (.vfadd f) := of_none _ rfl
theorem vfsub (f : LaneFields) : Statement (.vfsub f) := of_none _ rfl
theorem vfmul (f : LaneFields) : Statement (.vfmul f) := of_none _ rfl
theorem vfma (f : LaneFields) : Statement (.vfma f) := of_none _ rfl
theorem vfms (f : LaneFields) : Statement (.vfms f) := of_none _ rfl
theorem vfnma (f : LaneFields) : Statement (.vfnma f) := of_none _ rfl
theorem vfmin (f : LaneFields) : Statement (.vfmin f) := of_none _ rfl
theorem vfmax (f : LaneFields) : Statement (.vfmax f) := of_none _ rfl
theorem vfabs (f : LaneFields) : Statement (.vfabs f) := of_none _ rfl
theorem vfneg (f : LaneFields) : Statement (.vfneg f) := of_none _ rfl
theorem vfcmp (f : LaneFields) : Statement (.vfcmp f) := of_none _ rfl
theorem vfclass (f : LaneFields) : Statement (.vfclass f) := of_none _ rfl
theorem vfdiv (f : LaneFields) : Statement (.vfdiv f) := of_none _ rfl
theorem vfsqrt (f : LaneFields) : Statement (.vfsqrt f) := of_none _ rfl
theorem vdot2 (f : LaneFields) : Statement (.vdot2 f) := of_none _ rfl
theorem vdot4 (f : LaneFields) : Statement (.vdot4 f) := of_none _ rfl
theorem vdot8 (f : LaneFields) : Statement (.vdot8 f) := of_none _ rfl
theorem vcvt (f : LaneFields) : Statement (.vcvt f) := of_none _ rfl
theorem vcvts (f : LaneFields) : Statement (.vcvts f) := of_none _ rfl
theorem vscl (f : LaneFields) : Statement (.vscl f) := of_none _ rfl
theorem vpack (f : LaneFields) : Statement (.vpack f) := of_none _ rfl
theorem vunpk (f : LaneFields) : Statement (.vunpk f) := of_none _ rfl
theorem vround (f : LaneFields) : Statement (.vround f) := of_none _ rfl
theorem vcrv (f : LaneFields) : Statement (.vcrv f) := of_none _ rfl
theorem vamax (f : LaneFields) : Statement (.vamax f) := of_none _ rfl
theorem vband (f : LaneFields) : Statement (.vband f) := of_none _ rfl
theorem vshf (f : LaneFields) : Statement (.vshf f) := of_none _ rfl
theorem vshfx (f : LaneFields) : Statement (.vshfx f) := of_none _ rfl
theorem vshfu (f : LaneFields) : Statement (.vshfu f) := of_none _ rfl
theorem vshfd (f : LaneFields) : Statement (.vshfd f) := of_none _ rfl
theorem vvote (f : LaneFields) : Statement (.vvote f) := of_none _ rfl
theorem vscan (f : LaneFields) : Statement (.vscan f) := of_none _ rfl
theorem vred (f : LaneFields) : Statement (.vred f) := of_none _ rfl
theorem vext (f : LaneFields) : Statement (.vext f) := of_none _ rfl
theorem mif (f : LaneFields) : Statement (.mif f) := of_none _ rfl
theorem melse (f : LaneFields) : Statement (.melse f) := of_none _ rfl
theorem mend (f : LaneFields) : Statement (.mend f) := of_none _ rfl
theorem mbrk (f : LaneFields) : Statement (.mbrk f) := of_none _ rfl
theorem mloop (f : LaneFields) : Statement (.mloop f) := of_none _ rfl
theorem msetPred (f : LaneFields) : Statement (.msetPred f) := of_none _ rfl
theorem msetWord (f : LaneFields) : Statement (.msetWord f) := of_none _ rfl
theorem msetAll (f : LaneFields) : Statement (.msetAll f) := of_none _ rfl
theorem mgetPred (f : LaneFields) : Statement (.mgetPred f) := of_none _ rfl
theorem mgetSum (f : LaneFields) : Statement (.mgetSum f) := of_none _ rfl
theorem mgetWord (f : LaneFields) : Statement (.mgetWord f) := of_none _ rfl
theorem pand (f : LaneFields) : Statement (.pand f) := of_none _ rfl
theorem por (f : LaneFields) : Statement (.por f) := of_none _ rfl
theorem pxor (f : LaneFields) : Statement (.pxor f) := of_none _ rfl
theorem pnot (f : LaneFields) : Statement (.pnot f) := of_none _ rfl
theorem pmov (f : LaneFields) : Statement (.pmov f) := of_none _ rfl
theorem vld (f : LaneFields) : Statement (.vld f) := of_none _ rfl
theorem vst (f : LaneFields) : Statement (.vst f) := of_none _ rfl
theorem vlds (f : LaneFields) : Statement (.vlds f) := of_none _ rfl
theorem vsts (f : LaneFields) : Statement (.vsts f) := of_none _ rfl
theorem vldx (f : LaneFields) : Statement (.vldx f) := of_none _ rfl
theorem vstx (f : LaneFields) : Statement (.vstx f) := of_none _ rfl
theorem vldm (f : LaneFields) : Statement (.vldm f) := of_none _ rfl
theorem vstm (f : LaneFields) : Statement (.vstm f) := of_none _ rfl
theorem vamo (f : LaneFields) : Statement (.vamo f) := of_none _ rfl
theorem vpref (f : LaneFields) : Statement (.vpref f) := of_none _ rfl
theorem xiss (f : LaneFields) : Statement (.xiss f) := of_none _ rfl
theorem loadReply (team : Nat) : Statement (.loadReply team) := of_none _ rfl
theorem storeBufferDrain (i : Nat) : Statement (.storeBufferDrain i) := of_none _ rfl
theorem registerMissMicroTrap (line : RegLine) (victim : Option RegLine) : Statement (.registerMissMicroTrap line victim) := of_none _ rfl
theorem handlerEntry (team : Nat) : Statement (.handlerEntry team) := of_none _ rfl
theorem haltedEntry (team : Nat) : Statement (.haltedEntry team) := of_none _ rfl
theorem timeSliceExpiry (team : Nat) : Statement (.timeSliceExpiry team) := of_none _ rfl
theorem teamPlacement (launch : Nat) (crew : Nat) (cluster : Nat) (cores : List Nat) : Statement (.teamPlacement launch crew cluster cores) := of_none _ rfl
theorem teamResumption (team : Nat) (partition : Nat) : Statement (.teamResumption team partition) := of_none _ rfl
theorem teamRetirement (team : Nat) : Statement (.teamRetirement team) := of_none _ rfl
theorem cardFetch (q : QueueId) : Statement (.cardFetch q) := of_none _ rfl
theorem graphOpen (job : Nat) (graph : Nat) : Statement (.graphOpen job graph) := of_none _ rfl
theorem nodeStart (n : NodeId) : Statement (.nodeStart n) := of_none _ rfl
theorem tileTaskNodePosting (n : NodeId) : Statement (.tileTaskNodePosting n) := of_none _ rfl
theorem queueDestroyComplete (q : QueueId) : Statement (.queueDestroyComplete q) := of_none _ rfl
theorem tileTaskStart (task : Nat) : Statement (.tileTaskStart task) := of_none _ rfl
theorem engineStep (task : Nat) (agree : Bool) : Statement (.engineStep task agree) := of_none _ rfl
theorem copyRow (copy : Nat) : Statement (.copyRow copy) := of_none _ rfl
theorem copyCompletion (copy : Nat) : Statement (.copyCompletion copy) := of_none _ rfl
theorem collectiveTileReceive (t : CollTile) : Statement (.collectiveTileReceive t) := of_none _ rfl
theorem arrivalAppend (coll : Nat) (slot : Nat) : Statement (.arrivalAppend coll slot) := of_none _ rfl
theorem stamp (r : GroupReq) : Statement (.stamp r) := of_none _ rfl
theorem stampReply (group : Nat) (number : Nat) (stamp : Nat) : Statement (.stampReply group number stamp) := of_none _ rfl
theorem stampedRequestApply (stamp : Nat) (r : GroupReq) : Statement (.stampedRequestApply stamp r) := of_none _ rfl
theorem endToEndResend (group : Nat) (number : Nat) : Statement (.endToEndResend group number) := of_none _ rfl
theorem appliedReport (group : Nat) (member : Nat) (applied : Nat) : Statement (.appliedReport group member applied) := of_none _ rfl
theorem rootResend (group : Nat) (member : Nat) : Statement (.rootResend group member) := of_none _ rfl
theorem rd (m : BusMsg) : Statement (.rd m) := of_none _ rfl
theorem ro (m : BusMsg) : Statement (.ro m) := of_none _ rfl
theorem up (m : BusMsg) : Statement (.up m) := of_none _ rfl
theorem ev (m : BusMsg) : Statement (.ev m) := of_none _ rfl
theorem rc (m : BusMsg) : Statement (.rc m) := of_none _ rfl
theorem dc (m : BusMsg) : Statement (.dc m) := of_none _ rfl
theorem uh (m : BusMsg) (upd : List (Nat × Byte)) : Statement (.uh m upd) := of_none _ rfl
theorem ua (m : BusMsg) (a : UpdAtomic) : Statement (.ua m a) := of_none _ rfl
theorem hr (m : BusMsg) : Statement (.hr m) := of_none _ rfl
theorem hw (m : BusMsg) : Statement (.hw m) := of_none _ rfl
theorem dataSupply (m : BusMsg) : Statement (.dataSupply m) := of_none _ rfl
theorem evictionWriteBack (m : BusMsg) : Statement (.evictionWriteBack m) := of_none _ rfl
theorem walkRequest (core : Nat) (asid : Nat) (rn : Nat) : Statement (.walkRequest core asid rn) := of_none _ rfl
theorem flitReceive (port : Nat) (f : Flit) : Statement (.flitReceive port f) := of_none _ rfl
theorem replay (port : Nat) (seq : Nat) : Statement (.replay port seq) := of_none _ rfl
theorem memrd (r : HostReq) : Statement (.memrd r) := of_none _ rfl
theorem memrddata (r : HostReq) : Statement (.memrddata r) := of_none _ rfl
theorem memwr (r : HostReq) (data : List Byte) : Statement (.memwr r data) := of_none _ rfl
theorem meminv (r : HostReq) : Statement (.meminv r) := of_none _ rfl
theorem snpdata (r : HostReq) : Statement (.snpdata r) := of_none _ rfl
theorem snpinv (r : HostReq) : Statement (.snpinv r) := of_none _ rfl
theorem snpcur (r : HostReq) : Statement (.snpcur r) := of_none _ rfl
theorem birsp (adapter : Nat) (at_ : SnoopPlace) : Statement (.birsp adapter at_) := of_none _ rfl
theorem queueCreate (c : CardId) : Statement (.queueCreate c) := of_none _ rfl
theorem queueSeal (c : CardId) : Statement (.queueSeal c) := of_none _ rfl
theorem queueDestroy (c : CardId) : Statement (.queueDestroy c) := of_none _ rfl
theorem queueRestart (c : CardId) : Statement (.queueRestart c) := of_none _ rfl
theorem asidCreate (c : CardId) : Statement (.asidCreate c) := of_none _ rfl
theorem regionSet (c : CardId) : Statement (.regionSet c) := of_none _ rfl
theorem pageMap (c : CardId) : Statement (.pageMap c) := of_none _ rfl
theorem pageUnmap (c : CardId) : Statement (.pageUnmap c) := of_none _ rfl
theorem pageQuery (c : CardId) : Statement (.pageQuery c) := of_none _ rfl
theorem teamResume (c : CardId) : Statement (.teamResume c) := of_none _ rfl
theorem domainAssign (c : CardId) : Statement (.domainAssign c) := of_none _ rfl
theorem linkConfigure (c : CardId) : Statement (.linkConfigure c) := of_none _ rfl
theorem topologyChange (c : CardId) : Statement (.topologyChange c) := of_none _ rfl
theorem groupBind (c : CardId) : Statement (.groupBind c) := of_none _ rfl
theorem groupDissolve (c : CardId) : Statement (.groupDissolve c) := of_none _ rfl
theorem biasSet (c : CardId) : Statement (.biasSet c) := of_none _ rfl
theorem farMap (c : CardId) : Statement (.farMap c) := of_none _ rfl
theorem adapterAttach (c : CardId) : Statement (.adapterAttach c) := of_none _ rfl
theorem clockChange (cluster : Nat) : Statement (.clockChange cluster) := of_none _ rfl
theorem clockRaise (cluster : Nat) : Statement (.clockRaise cluster) := of_none _ rfl
theorem thermalStop (cluster : Nat) : Statement (.thermalStop cluster) := of_none _ rfl
theorem uncorrectableError (e : ErrorSite) : Statement (.uncorrectableError e) := of_none _ rfl
theorem clusterLoss (cluster : Nat) : Statement (.clusterLoss cluster) := of_none _ rfl
theorem portTrained (port : Nat) (ok : Bool) : Statement (.portTrained port ok) := of_none _ rfl
theorem contributionRead (coll : Nat) : Statement (.contributionRead coll) := of_none _ rfl
theorem bindingAnnouncement (group : Nat) (bind : Bool) : Statement (.bindingAnnouncement group bind) := of_none _ rfl
theorem farFillReply (asid : Nat) (va : Nat) (data : List Byte) : Statement (.farFillReply asid va data) := of_none _ rfl
theorem ret : Statement (.ret) := of_list _ [95] rfl (fun _ => rfl)
theorem lsync : Statement (.lsync) := of_none _ rfl
theorem cbar : Statement (.cbar) := of_none _ rfl
theorem rfence : Statement (.rfence) := of_none _ rfl
theorem gfence : Statement (.gfence) := of_none _ rfl
theorem sretResume : Statement (.sretResume) := of_none _ rfl
theorem sretReplay : Statement (.sretReplay) := of_none _ rfl
theorem sretAbandon : Statement (.sretAbandon) := of_none _ rfl
theorem yield : Statement (.yield) := of_none _ rfl
theorem walkReply : Statement (.walkReply) := of_none _ rfl
theorem drainComplete : Statement (.drainComplete) := of_none _ rfl
theorem drainLimitExpiry : Statement (.drainLimitExpiry) := of_none _ rfl
theorem switchStatus : Statement (.switchStatus) := of_none _ rfl
theorem hostBiasFlip : Statement (.hostBiasFlip) := of_none _ rfl
theorem attest : Statement (.attest) := of_none _ rfl
theorem certificate : Statement (.certificate) := of_none _ rfl
theorem enrolKey : Statement (.enrolKey) := of_none _ rfl
theorem configure : Statement (.configure) := of_none _ rfl
theorem scrubAdd : Statement (.scrubAdd) := of_none _ rfl
theorem scrubRemove : Statement (.scrubRemove) := of_none _ rfl
theorem recordStart : Statement (.recordStart) := of_none _ rfl
theorem recordStop : Statement (.recordStop) := of_none _ rfl
theorem replayStart : Statement (.replayStart) := of_none _ rfl
theorem wearRead : Statement (.wearRead) := of_none _ rfl
theorem errorLogRead : Statement (.errorLogRead) := of_none _ rfl
theorem bringUp : Statement (.bringUp) := of_none _ rfl
theorem wearMeasurement : Statement (.wearMeasurement) := of_none _ rfl
theorem scrub : Statement (.scrub) := of_none _ rfl
theorem clusterCooled : Statement (.clusterCooled) := of_none _ rfl

end Sys2Proof.Laws.Registers
end

