-- ==== Sys2Proof/Laws/Registers.lean ====
section
/-! SUPPORT. The laws of the scalar registers: a result written reads back, every other register keeps its value, and nothing else of
the state changes but the PC. -/

namespace Sys2Proof.Machine

theorem readReg_writeReg (s : State) (d r : SReg) (x : Word) :
    readReg (writeReg s d x) r = if r = d ∧ d.toNat < 96 then x else readReg s r := by
  simp only [readReg, writeReg]
  by_cases hd : d.toNat < 96
  · simp only [hd, if_true, and_true, sget_sset]
    by_cases h : r = d
    · subst h; simp [hd]
    · have : r.toNat ≠ d.toNat := fun e => h (BitVec.eq_of_toNat_eq e)
      simp [h, this]
  · simp [hd]

@[simp] theorem readReg_advance (s : State) (r : SReg) : readReg (advance s) r = readReg s r := rfl

/-- The register that reads 0 (R45). -/
@[simp] theorem readReg_sz (s : State) : readReg s 127 = 0 := rfl

theorem readReg_finish (s : State) (d r : SReg) (x : Word) :
    readReg (finish s d x) r = if r = d ∧ d.toNat < 96 then x else readReg s r := readReg_writeReg s d r x

@[simp] theorem finish_pc (s : State) (d : SReg) (x : Word) : (finish s d x).team.pc = s.team.pc + 4 := by
  unfold finish writeReg; split <;> rfl

/-- A result changes only the PC and the scalar registers of the focus team. -/
theorem finish_frame (s : State) (d : SReg) (x : Word) : finish s d x =
    { s with team := { s.team with
        pc := s.team.pc + 4, regs := { s.team.regs with s := (finish s d x).team.regs.s } } } := by
  unfold finish writeReg; split <;> rfl

end Sys2Proof.Machine
end

