-- ==== Sys2Proof/Laws/Results.lean ====
section
/-! SUPPORT. What the shared ends and waits of the scalar instructions do, in the notions that claims are made in: results, PC changes,
loads of a team with no store outstanding, and waits for its stores. -/

namespace Sys2Proof.Machine

/-- A new PC changes the focus team only. -/
theorem onlyTeam_setPc (s : State) (x : Word) : OnlyTeam s (setPc s x) := ⟨rfl, fun _ _ => rfl, fun _ _ _ => rfl⟩

/-- A new PC changes nothing else. -/
theorem onlyPc_setPc (s : State) (x : Word) : OnlyPc s (setPc s x) := ⟨rfl, onlyTeam_setPc s x⟩

/-- The common end of a scalar instruction changes its destination and the PC, and nothing else. -/
theorem finish_only (s : State) (d : SReg) (x : Word) : OnlyScalar s (finish s d x) d := by
  refine ⟨?_, ?_, ?_, ?_, ?_⟩
  · intro r h; rw [readReg_finish]; simp [h]
  · unfold finish writeReg; split <;> rfl
  · unfold finish writeReg; split <;> rfl
  · unfold finish writeReg; split <;> rfl
  · unfold finish writeReg; split <;> exact ⟨fun _ _ => rfl, fun _ _ _ => rfl⟩

/-- The common end of a scalar instruction with a number as its result (R165). -/
theorem finish_result (s : State) (d : SReg) (x : Word) (n : Int) (h : x = BitVec.ofInt 64 n) :
    ∃ t, Host.Outcome.next (φ := Fault) (ρ := Refusal) (finish s d x) = .next t ∧ readReg t d = (if d.toNat < 96 then BitVec.ofInt 64 n else 0)
      ∧ t.team.pc = s.team.pc + 4 ∧ OnlyScalar s t d := by
  refine ⟨_, rfl, ?_, ?_, finish_only s d x⟩
  · rw [readReg_finish]
    by_cases hd : d.toNat < 96 
    · simp [hd, h]
    · simp [hd, readReg]
  · unfold finish writeReg; split <;> rfl

/-- An access that may be made passes every check of its address (R80, R84, R86). -/
theorem may_addr {s : State} {va n : Nat} {need : Right} (h : mayAccess s va n need = true) : addrTrap s (focusWho s) va n need = none ∧ va < 2^56 ∧ inAperture va = false ∧ va % n = 0 := by
  unfold mayAccess at h
  simp only [Bool.and_eq_true, decide_eq_true_eq, Bool.not_eq_true'] at h
  obtain ⟨⟨⟨h1, h2⟩, h3⟩, h4⟩ := h
  refine ⟨?_, h1, h2, h3⟩
  unfold addrTrap rightsTrap
  rw [if_neg (by omega), h2]
  split at h4
  · rename_i e he
    simp only [he]
    have hs : (eSup e = false ∨ (focusWho s).sup = true) ∧ hasRight e need = true := by
      simpa [focusWho, whoOf] using h4
    simp [hs, h3]
  · cases h4

/-- A team with no store outstanding has no byte of its own to forward (R352). -/
theorem ownByte_none {s : State} (h : noStores s = true) (va : Nat) : ownByte s (focusWho s) va = none := by
  unfold noStores at h
  simp only [Bool.and_eq_true, Bool.not_eq_true', List.any_eq_false, decide_eq_true_eq] at h
  have hf := h.1
  unfold ownByte
  split
  · rfl
  · have : ∀ (l : List SbEntry), (∀ e ∈ l, ¬ e.team = s.team.card.handle) → ∀ r, l.foldl (fun r e =>
      if decide (e.team = (focusWho s).team) && decide (e.asid = tagOf (focusWho s).asid va) && decide (e.sector = sectorOf va) then
        match e.bytes.find? (fun b => decide (b.1 = va % 64)) with
        | some b => some (b.2, e.held)
        | none => r
      else r) r = (r : Option (Byte × Bool)) := by
      intro l hl
      induction l with
      | nil => intro r; rfl
      | cons e l ih =>
        intro r
        have : ¬ e.team = (focusWho s).team := hl e (by simp)
        simp only [List.foldl_cons, this, decide_false, Bool.false_and]
        exact ih (fun e he => hl e (by simp [he])) r
    exact this s.sb hf none

/-- A load of such a team at a page that is there gets the bytes in memory (R164, R169). -/
theorem loadGot_plain {s : State} (h : noStores s = true) (va n : Nat) (hn : 0 < n) (hg : gateAt s (focusWho s) va = .go) :
    loadGot s (focusWho s) va n = .value (ofBytes ((List.range n).map fun i => readByte s (focusWho s) (va + i))) := by
  unfold loadGot
  simp only [ownByte_none h]
  have : ∃ m, n = m + 1 := ⟨n - 1, by omega⟩
  obtain ⟨m, rfl⟩ := this
  simp [hg, List.range_succ_eq_map]

/-- Draining entries that cannot move changes nothing. -/
theorem drainFrom_none (pick : SbEntry → Bool) (n : Nat) : ∀ i (s : State), (∀ e ∈ s.sb, pick e = true → drainEntry s e = s) → drainFrom pick n i s = s := by
  induction n with
  | zero => intros; rfl
  | succ n ih =>
    intro i s h
    unfold drainFrom
    split
    · rfl
    · rename_i e he
      have hm : e ∈ s.sb := List.mem_of_getElem? he
      split
      · rename_i hp
        rw [h e hm hp]
        simp only [Nat.lt_irrefl, if_false]
        exact ih _ _ h
      · exact ih _ _ h

/-- A team with no store outstanding has nothing to drain. -/
theorem drain_noStores {s : State} (h : noStores s = true) : drainTeam s s.team.card.handle = s := by
  apply drainFrom_none
  intro e he hp
  unfold noStores at h
  simp only [Bool.and_eq_true, Bool.not_eq_true', List.any_eq_false, decide_eq_true_eq] at h hp
  exact absurd hp (h.1 e he)

/-- A wait for the stores of such a team is over at once (R118, R352). -/
theorem flush_noStores {s : State} (h : noStores s = true) : flushTeam s s.team.card.handle = .done s := by
  unfold flushTeam
  simp only [drain_noStores h]
  unfold noStores at h
  simp only [Bool.and_eq_true, Bool.not_eq_true', List.any_eq_false, decide_eq_true_eq, List.all_eq_true] at h
  have h1 : hasHeld s s.team.card.handle = false := by
    simp only [hasHeld, List.any_eq_false, Bool.and_eq_true, decide_eq_true_eq, not_and]
    intro e he h2; exact absurd h2 (h.1 e he)
  have h2 : hasStores s s.team.card.handle = false := by
    simp only [hasStores, List.any_eq_false, decide_eq_true_eq]; exact h.1
  have h3 : owedBy s s.team.card.handle = false := by
    simp only [owedBy, List.any_eq_false, Bool.and_eq_true, decide_eq_true_eq, not_and]
    intro r hr _; simpa using h.2 r hr
  simp [h1, h2, h3]

end Sys2Proof.Machine
end

