-- ==== Sys2Proof/Laws/Stops.lean ====
section
/-! SUPPORT. All that the shared operations on stops, crews and the store buffer can come to, said once for each. -/

namespace Sys2Proof.Machine

/-- A crew on its way out stays as it is, or leaves all at once (R30, R367). -/
theorem settleLeave_cases (s : State) (h : Nat) :
    settleLeave s h = s
      ∨ ∃ t, teamOf s h = some t ∧ t.ord.leave ≠ none ∧ (∀ x, x ∈ crewOf s t → midWord s x = false)
        ∧ settleLeave s h = (crewOf s t).foldl leaveOne s := by
  unfold settleLeave
  cases ht : teamOf s h with
  | none => exact .inl rfl
  | some t =>
    by_cases hc : (t.ord.leave.isNone || (crewOf s t).any (midWord s)) = true
    · exact .inl (by simp [hc])
    · refine .inr ⟨t, rfl, ?_, ?_, by simp [hc]⟩ <;> simp_all

/-- A stop enters the handler, or halts the team with its crew (R332, R333, R354, R360). -/
theorem takeStop_cases (s : State) (st : Stop) :
    (∃ s1 cause, takeStop s st = haltCrew s1 cause)
      ∨ ∃ (k : Nat) (s1 : State) (cause : Word), freeSlots s s.team (if st.four then 4 else 1) = some k
        ∧ s1 = putSlots s s.team k (stopBytes st (if s.team.sys.handler && !alwaysHalts st.cause then 0x1A else st.cause)
            (if s.team.sys.handler && !alwaysHalts st.cause then st.cause else st.reason))
        ∧ takeStop s st = setTeam s1 (enterHandler s1.team cause (BitVec.ofNat 64 (s.team.card.fault + 64 * k))) := by
  unfold takeStop
  dsimp only
  generalize (if (s.team.sys.handler && !alwaysHalts st.cause) = true then 0x1A else st.cause) = c
  generalize (if (s.team.sys.handler && !alwaysHalts st.cause) = true then st.cause else st.reason) = r
  split
  · exact .inl ⟨_, _, rfl⟩
  · split
    · exact .inl ⟨_, _, rfl⟩
    · next k hk =>
      split
      · exact .inr ⟨k, _, _, hk, rfl, rfl⟩
      · exact .inl ⟨_, _, rfl⟩

/-- An entry of the store buffer that drains stays as it is, is held, waits at a gate, leaves for its group, is performed, or is marked
release-pending (R352, R116, R119). -/
theorem drainEntry_cases (s : State) (e : SbEntry) :
    drainEntry s e = s ∨ drainEntry s e = holdEntry s e ∨ drainEntry s e = askGate s (entryWho s e) e.sector
      ∨ (sendReady s e = true ∧ drainEntry s e = sendEntry s e)
      ∨ (releaseReady s e = true ∧ drainEntry s e = performAll s e)
      ∨ (releaseReady s e = false
        ∧ drainEntry s e = touchWrite (mapSb s fun x => if x = e then { x with marked := true } else x) (entryWho s e) e.sector) := by
  unfold drainEntry
  repeat' split
  all_goals simp_all

/-- A slice that ends removes the team, pre-empts its crew, or begins afresh (R42, R39). -/
theorem sliceEnd_cases (s : State) :
    (pointRemoves s = true ∧ sliceEnd s = cancelTeam s)
      ∨ (pointRemoves s = false ∧ waitedFor s s.team = true ∧ sliceEnd s = preemptCrew s s.team)
      ∨ (pointRemoves s = false ∧ waitedFor s s.team = false ∧ sliceEnd s = s) := by
  unfold sliceEnd
  cases pointRemoves s <;> cases waitedFor s s.team <;> simp

end Sys2Proof.Machine
end

