-- ==== Sys2Proof/Tests/Slice0.lean ====
section
/-! SUPPORT. The model's own tests: words written out from the spec's encoding tables, a term that each check of well-formedness refuses,
results that the spec works out, and for each statement with hypotheses a state and operands that meet them. -/

namespace Sys2Proof.Tests

set_option Elab.async false

open Sys2Proof.Machine

/-- An A-format word (R133). -/
def wordA (op d a b fn : Nat) : Nat := op * 2 ^ 26 + d * 2 ^ 19 + a * 2 ^ 12 + b * 2 ^ 5 + fn
/-- An I-format word (R133). -/
def wordI (op d a imm : Nat) : Nat := op * 2 ^ 26 + d * 2 ^ 19 + a * 2 ^ 12 + imm
/-- A word with its opcode and its low 26 bits (R133). -/
def wordJ (op low : Nat) : Nat := op * 2 ^ 26 + low
/-- The guard fields of an unguarded L-word (R144). -/
def openGuards : Nat := 15 * 2 ^ 18 + 15 * 2 ^ 13
/-- An unguarded L-word (R142). -/
def wordL (op ty md d a b c e : Nat) : Nat :=
  op * 2 ^ 86 + ty * 2 ^ 82 + md * 2 ^ 78 + d * 2 ^ 67 + a * 2 ^ 56 + b * 2 ^ 45 + c * 2 ^ 34 + e * 2 ^ 23 + openGuards
/-- The fields of an unguarded L-word. -/
def fieldsL (ty md d a b c e : Nat) : LaneFields where
  ty := BitVec.ofNat 4 ty
  md := BitVec.ofNat 4 md
  d := BitVec.ofNat 11 d
  a := BitVec.ofNat 11 a
  b := BitVec.ofNat 11 b
  c := BitVec.ofNat 11 c
  e := BitVec.ofNat 11 e
  g1 := 15
  g2 := 15
  hint := 0
  sched := 0

/-- The fn codes of opcode 0x01 in the order that R136 lists them, with sd, sa and sb in [25:19], [18:12] and [11:5] (R133, R165). -/
theorem test_decode_alu :
    decodeTableWord 32 (wordA 0x01 4 5 6 0) = some (.add 4 5 6)
      ∧ decodeTableWord 32 (wordA 0x01 4 5 6 1) = some (.sub 4 5 6)
      ∧ decodeTableWord 32 (wordA 0x01 4 5 6 2) = some (.mul 4 5 6)
      ∧ decodeTableWord 32 (wordA 0x01 4 5 6 3) = some (.mulhS 4 5 6)
      ∧ decodeTableWord 32 (wordA 0x01 4 5 6 4) = some (.mulhZ 4 5 6)
      ∧ decodeTableWord 32 (wordA 0x01 4 5 6 5) = some (.divS 4 5 6)
      ∧ decodeTableWord 32 (wordA 0x01 4 5 6 6) = some (.divZ 4 5 6)
      ∧ decodeTableWord 32 (wordA 0x01 4 5 6 7) = some (.remS 4 5 6)
      ∧ decodeTableWord 32 (wordA 0x01 4 5 6 8) = some (.remZ 4 5 6)
      ∧ decodeTableWord 32 (wordA 0x01 4 5 6 9) = some (.and 4 5 6)
      ∧ decodeTableWord 32 (wordA 0x01 4 5 6 10) = some (.or 4 5 6)
      ∧ decodeTableWord 32 (wordA 0x01 4 5 6 11) = some (.xor 4 5 6)
      ∧ decodeTableWord 32 (wordA 0x01 4 5 6 12) = some (.shl 4 5 6)
      ∧ decodeTableWord 32 (wordA 0x01 4 5 6 13) = some (.shr 4 5 6)
      ∧ decodeTableWord 32 (wordA 0x01 4 5 6 14) = some (.sra 4 5 6)
      ∧ decodeTableWord 32 (wordA 0x01 4 5 6 15) = some (.minS 4 5 6)
      ∧ decodeTableWord 32 (wordA 0x01 4 5 6 16) = some (.minZ 4 5 6)
      ∧ decodeTableWord 32 (wordA 0x01 4 5 6 17) = some (.maxS 4 5 6)
      ∧ decodeTableWord 32 (wordA 0x01 4 5 6 18) = some (.maxZ 4 5 6)
      ∧ decodeTableWord 32 (wordA 0x01 4 5 6 19) = some (.sltS 4 5 6)
      ∧ decodeTableWord 32 (wordA 0x01 4 5 6 20) = some (.sltZ 4 5 6)
      ∧ decodeTableWord 32 (wordA 0x01 4 5 6 21) = some (.seq 4 5 6)
      ∧ decodeTableWord 32 (wordA 0x01 4 5 0 22) = some (.clz 4 5)
      ∧ decodeTableWord 32 (wordA 0x01 4 5 0 23) = some (.ctz 4 5)
      ∧ decodeTableWord 32 (wordA 0x01 4 5 0 24) = some (.popc 4 5)
      ∧ decodeTableWord 32 (wordA 0x01 4 5 6 25) = some (.sel 4 5 6) := by decide +kernel

/-- Opcodes 0x02 to 0x0A (R136, R167, R168): imm12, the shift kinds in [7:6], and imm19. -/
theorem test_decode_immediates :
    decodeTableWord 32 (wordI 0x02 4 5 0xFFF) = some (.addi 4 5 0xFFF)
      ∧ decodeTableWord 32 (wordI 0x03 4 5 0x123) = some (.andi 4 5 0x123)
      ∧ decodeTableWord 32 (wordI 0x04 4 5 0x800) = some (.ori 4 5 0x800)
      ∧ decodeTableWord 32 (wordI 0x05 4 5 0x7) = some (.xori 4 5 7)
      ∧ decodeTableWord 32 (wordI 0x06 4 5 0x3F) = some (.shli 4 5 63)
      ∧ decodeTableWord 32 (wordI 0x06 4 5 0x41) = some (.shri 4 5 1)
      ∧ decodeTableWord 32 (wordI 0x06 4 5 0x82) = some (.srai 4 5 2)
      ∧ decodeTableWord 32 (wordI 0x07 4 5 0xABC) = some (.slti 4 5 0xABC)
      ∧ decodeTableWord 32 (wordJ 0x08 0x27FFFF) = some (.limm 4 0x7FFFF)
      ∧ decodeTableWord 32 (wordJ 0x09 0x22468A) = some (.lsh 4 0x2468A)
      ∧ decodeTableWord 32 (wordJ 0x0A 0x200001) = some (.lpc 4 1) := by decide +kernel

/-- Opcodes 0x0B to 0x10 (R136 to R138): type in [11:9], offset in [8:0]; aop in [4:2], ord in [1:0]. -/
theorem test_decode_memory :
    decodeTableWord 32 (wordI 0x0B 4 5 0xBFF) = some (.ld 5 4 5 0x1FF)
      ∧ decodeTableWord 32 (wordI 0x0C 4 5 0xC03) = some (.st 3 4 5 3)
      ∧ decodeTableWord 32 (wordA 0x0D 4 5 6 31) = some (.amoS32 7 3 4 5 6)
      ∧ decodeTableWord 32 (wordA 0x0E 4 5 6 5) = some (.amoZ32 1 1 4 5 6)
      ∧ decodeTableWord 32 (wordA 0x0F 4 5 6 26) = some (.amo64 6 2 4 5 6)
      ∧ decodeTableWord 32 (wordA 0x10 4 5 6 8) = some (.amoF32 2 0 4 5 6) := by decide +kernel

/-- Opcodes 0x11 to 0x14 (R136, R173). -/
theorem test_decode_control :
    decodeTableWord 32 (wordJ 0x11 0x3FFFFFF) = some (.b 0x3FFFFFF)
      ∧ decodeTableWord 32 (wordJ 0x12 0x100) = some (.call 0x100)
      ∧ decodeTableWord 32 (wordJ 0x13 0x2C8000) = some (.bc 4 5 0x8000)
      ∧ decodeTableWord 32 (wordA 0x14 0 5 0 0) = some (.jr 5)
      ∧ decodeTableWord 32 (wordA 0x14 0 0 0 1) = some (.ret)
      ∧ decodeTableWord 32 (wordA 0x14 0 5 0 2) = some (.callr 5) := by decide +kernel

/-- Opcodes 0x15 to 0x1A (R136, R112, R175 to R180): count less one, body length less one, fence kind in [5:3] and scope in [2:0]. -/
theorem test_decode_feed :
    decodeTableWord 32 (wordI 0x15 0 5 0xFFF) = some (.lrun 5 0xFFF)
      ∧ decodeTableWord 32 (wordA 0x16 4 5 6 31) = some (.lloop 4 5 6 31)
      ∧ decodeTableWord 32 (wordA 0x17 0 0 0 0) = some (.lsync)
      ∧ decodeTableWord 32 (wordI 0x18 0 0 0x22) = some (.fence 4 2)
      ∧ decodeTableWord 32 (wordA 0x19 0 0 0 0) = some (.cbar)
      ∧ decodeTableWord 32 (wordA 0x1A 0 5 6 0) = some (.cwait 5 6) := by decide +kernel

/-- Opcodes 0x1B to 0x25 (R136, R181 to R188, R263, R274, R297). -/
theorem test_decode_engines :
    decodeTableWord 32 (wordA 0x1B 4 0 0 0) = some (.cpclose 4)
      ∧ decodeTableWord 32 (wordA 0x1C 0 5 0 0) = some (.cpwait 5)
      ∧ decodeTableWord 32 (wordA 0x1D 0 0 0 0) = some (.rfence)
      ∧ decodeTableWord 32 (wordA 0x1E 0 5 0 0) = some (.mxpost 5)
      ∧ decodeTableWord 32 (wordA 0x1F 4 5 0 3) = some (.own 3 4 5)
      ∧ decodeTableWord 32 (wordA 0x1F 4 5 0 4) = some (.ownQuery 4 5)
      ∧ decodeTableWord 32 (wordA 0x20 4 5 0 0) = some (.coll 4 5)
      ∧ decodeTableWord 32 (wordA 0x21 0 5 6 0) = some (.qpush 5 6)
      ∧ decodeTableWord 32 (wordA 0x22 4 5 0 0) = some (.qpop 4 5)
      ∧ decodeTableWord 32 (wordA 0x23 4 5 6 0) = some (.post 4 5 6)
      ∧ decodeTableWord 32 (wordA 0x24 0 0 0 0) = some (.gfence)
      ∧ decodeTableWord 32 (wordA 0x25 4 5 0 0) = some (.gseq 4 5) := by decide +kernel

/-- Opcodes 0x26 to 0x31 (R136, R189 to R197). -/
theorem test_decode_system :
    decodeTableWord 32 (wordA 0x26 0 5 0 0) = some (.crvld 5)
      ∧ decodeTableWord 32 (wordI 0x27 4 0 0x8E) = some (.csrr 4 0x08E)
      ∧ decodeTableWord 32 (wordI 0x28 0 5 0x81) = some (.csrw 5 0x081)
      ∧ decodeTableWord 32 (wordJ 0x29 0xFFFF) = some (.trap 0xFFFF)
      ∧ decodeTableWord 32 (wordA 0x2A 0 0 0 0) = some (.sretResume)
      ∧ decodeTableWord 32 (wordA 0x2A 0 0 0 1) = some (.sretReplay)
      ∧ decodeTableWord 32 (wordA 0x2A 0 0 0 2) = some (.sretAbandon)
      ∧ decodeTableWord 32 (wordA 0x2B 0 0 0 0) = some (.yield)
      ∧ decodeTableWord 32 (wordJ 0x2C 0x1234) = some (.brk 0x1234)
      ∧ decodeTableWord 32 (wordA 0x2D 0 5 6 0) = some (.cacheWb 5 6)
      ∧ decodeTableWord 32 (wordA 0x2D 0 5 6 1) = some (.cacheInv 5 6)
      ∧ decodeTableWord 32 (wordA 0x2D 0 5 6 2) = some (.cacheWbinv 5 6)
      ∧ decodeTableWord 32 (wordA 0x2D 0 5 6 3) = some (.cacheDiscard 5 6)
      ∧ decodeTableWord 32 (wordA 0x2D 4 5 6 4) = some (.cacheBind 4 5 6)
      ∧ decodeTableWord 32 (wordA 0x2D 0 5 0 5) = some (.cacheUnbind 5)
      ∧ decodeTableWord 32 (wordA 0x2E 0 5 0 3) = some (.cancel 3 5)
      ∧ decodeTableWord 32 (wordA 0x2F 4 127 0 1) = some (.ctr 1 4 127)
      ∧ decodeTableWord 32 (wordA 0x30 0 5 6 0) = some (.rptinv 5 6)
      ∧ decodeTableWord 32 (wordA 0x31 0 5 0 0) = some (.tstop 5) := by decide +kernel

/-- The integer class (R142, R148, R203) in unguarded words; constant 1 has code 1793 (R48). -/
theorem test_decode_lane_integer :
    decodeTableWord 96 (wordL 0x001 0 1 10 20 30 0 0) = some (.vadd (fieldsL 0 1 10 20 30 0 0))
      ∧ decodeTableWord 96 (wordL 0x002 12 0 10 20 30 0 0) = some (.vsub (fieldsL 12 0 10 20 30 0 0))
      ∧ decodeTableWord 96 (wordL 0x003 3 0 10 20 30 0 0) = some (.vmul (fieldsL 3 0 10 20 30 0 0))
      ∧ decodeTableWord 96 (wordL 0x004 1 0 10 20 1793 0 0) = some (.vmulh (fieldsL 1 0 10 20 1793 0 0))
      ∧ decodeTableWord 96 (wordL 0x005 0 0 10 20 30 40 0) = some (.vmad (fieldsL 0 0 10 20 30 40 0))
      ∧ decodeTableWord 96 (wordL 0x006 0 0 10 20 30 0 0) = some (.vdiv (fieldsL 0 0 10 20 30 0 0))
      ∧ decodeTableWord 96 (wordL 0x007 0 0 10 20 30 0 0) = some (.vrem (fieldsL 0 0 10 20 30 0 0))
      ∧ decodeTableWord 96 (wordL 0x008 13 1 10 20 0 0 0) = some (.vabs (fieldsL 13 1 10 20 0 0 0))
      ∧ decodeTableWord 96 (wordL 0x009 0 0 10 20 0 0 0) = some (.vneg (fieldsL 0 0 10 20 0 0 0))
      ∧ decodeTableWord 96 (wordL 0x00A 0 0 10 20 30 0 0) = some (.vmin (fieldsL 0 0 10 20 30 0 0))
      ∧ decodeTableWord 96 (wordL 0x00B 0 0 10 20 30 0 0) = some (.vmax (fieldsL 0 0 10 20 30 0 0))
      ∧ decodeTableWord 96 (wordL 0x00C 15 0 10 20 30 0 0) = some (.vand (fieldsL 15 0 10 20 30 0 0))
      ∧ decodeTableWord 96 (wordL 0x00D 15 0 10 20 30 0 0) = some (.vor (fieldsL 15 0 10 20 30 0 0))
      ∧ decodeTableWord 96 (wordL 0x00E 15 0 10 20 30 0 0) = some (.vxor (fieldsL 15 0 10 20 30 0 0))
      ∧ decodeTableWord 96 (wordL 0x00F 15 0 10 20 0 0 0) = some (.vnot (fieldsL 15 0 10 20 0 0 0))
      ∧ decodeTableWord 96 (wordL 0x010 0 0 10 20 30 0 0) = some (.vshl (fieldsL 0 0 10 20 30 0 0))
      ∧ decodeTableWord 96 (wordL 0x011 0 0 10 20 30 0 0) = some (.vshr (fieldsL 0 0 10 20 30 0 0))
      ∧ decodeTableWord 96 (wordL 0x012 0 0 10 20 30 0 0) = some (.vsra (fieldsL 0 0 10 20 30 0 0))
      ∧ decodeTableWord 96 (wordL 0x013 0 0 10 20 30 0 0) = some (.vrot (fieldsL 0 0 10 20 30 0 0))
      ∧ decodeTableWord 96 (wordL 0x014 0 0 10 20 0 0 0) = some (.vclz (fieldsL 0 0 10 20 0 0 0))
      ∧ decodeTableWord 96 (wordL 0x015 0 0 10 20 0 0 0) = some (.vpopc (fieldsL 0 0 10 20 0 0 0))
      ∧ decodeTableWord 96 (wordL 0x016 0 0 10 20 0 0 0) = some (.vbrev (fieldsL 0 0 10 20 0 0 0))
      ∧ decodeTableWord 96 (wordL 0x017 0 0 10 20 30 40 0) = some (.vbext (fieldsL 0 0 10 20 30 40 0))
      ∧ decodeTableWord 96 (wordL 0x018 1 0 10 20 30 40 0) = some (.vbins (fieldsL 1 0 10 20 30 40 0))
      ∧ decodeTableWord 96 (wordL 0x019 4 0 10 20 30 1635 0) = some (.vsel (fieldsL 4 0 10 20 30 1635 0))
      ∧ decodeTableWord 96 (wordL 0x01A 0 5 1634 20 30 0 0) = some (.vcmp (fieldsL 0 5 1634 20 30 0 0))
      ∧ decodeTableWord 96 (wordL 0x01B 9 0 10 20 0 0 0) = some (.vmov (fieldsL 9 0 10 20 0 0 0))
      ∧ decodeTableWord 96 (wordL 0x01C 0 0 10 2047 2047 1023 0) = some (.vli (fieldsL 0 0 10 2047 2047 1023 0))
      ∧ decodeTableWord 96 (wordL 0x01D 0 3 10 20 30 0 0) = some (.vlane (fieldsL 0 3 10 20 30 0 0))
      ∧ decodeTableWord 96 (wordL 0x01E 0 1 10 20 1539 0 0) = some (.vbcast (fieldsL 0 1 10 20 1539 0 0)) := by decide +kernel

/-- The float class (R148, R212). -/
theorem test_decode_lane_float :
    decodeTableWord 96 (wordL 0x081 4 1 10 20 30 0 0) = some (.vfadd (fieldsL 4 1 10 20 30 0 0))
      ∧ decodeTableWord 96 (wordL 0x082 5 0 10 20 30 0 0) = some (.vfsub (fieldsL 5 0 10 20 30 0 0))
      ∧ decodeTableWord 96 (wordL 0x083 6 0 10 20 30 0 0) = some (.vfmul (fieldsL 6 0 10 20 30 0 0))
      ∧ decodeTableWord 96 (wordL 0x084 4 0 10 20 30 40 0) = some (.vfma (fieldsL 4 0 10 20 30 40 0))
      ∧ decodeTableWord 96 (wordL 0x085 4 0 10 20 30 40 0) = some (.vfms (fieldsL 4 0 10 20 30 40 0))
      ∧ decodeTableWord 96 (wordL 0x086 4 0 10 20 30 40 0) = some (.vfnma (fieldsL 4 0 10 20 30 40 0))
      ∧ decodeTableWord 96 (wordL 0x087 4 0 10 20 30 0 0) = some (.vfmin (fieldsL 4 0 10 20 30 0 0))
      ∧ decodeTableWord 96 (wordL 0x088 4 0 10 20 30 0 0) = some (.vfmax (fieldsL 4 0 10 20 30 0 0))
      ∧ decodeTableWord 96 (wordL 0x089 4 0 10 20 0 0 0) = some (.vfabs (fieldsL 4 0 10 20 0 0 0))
      ∧ decodeTableWord 96 (wordL 0x08A 4 0 10 20 0 0 0) = some (.vfneg (fieldsL 4 0 10 20 0 0 0))
      ∧ decodeTableWord 96 (wordL 0x08B 7 7 1633 20 30 0 0) = some (.vfcmp (fieldsL 7 7 1633 20 30 0 0))
      ∧ decodeTableWord 96 (wordL 0x08C 8 0 10 20 0 0 0) = some (.vfclass (fieldsL 8 0 10 20 0 0 0))
      ∧ decodeTableWord 96 (wordL 0x08D 4 3 10 20 30 0 0) = some (.vfdiv (fieldsL 4 3 10 20 30 0 0))
      ∧ decodeTableWord 96 (wordL 0x08E 4 2 10 20 0 0 0) = some (.vfsqrt (fieldsL 4 2 10 20 0 0 0))
      ∧ decodeTableWord 96 (wordL 0x08F 5 0 10 20 30 40 0) = some (.vdot2 (fieldsL 5 0 10 20 30 40 0))
      ∧ decodeTableWord 96 (wordL 0x090 7 4 10 20 30 40 0) = some (.vdot4 (fieldsL 7 4 10 20 30 40 0))
      ∧ decodeTableWord 96 (wordL 0x091 9 0 10 20 30 40 0) = some (.vdot8 (fieldsL 9 0 10 20 30 40 0)) := by decide +kernel

/-- The conversion class and the curve unit (R148, R217). -/
theorem test_decode_lane_conversion :
    decodeTableWord 96 (wordL 0x101 4 0 10 20 5 0 0) = some (.vcvt (fieldsL 4 0 10 20 5 0 0))
      ∧ decodeTableWord 96 (wordL 0x102 7 4 10 20 1541 40 3) = some (.vcvts (fieldsL 7 4 10 20 1541 40 3))
      ∧ decodeTableWord 96 (wordL 0x103 9 0 10 20 1541 0 0) = some (.vscl (fieldsL 9 0 10 20 1541 0 0))
      ∧ decodeTableWord 96 (wordL 0x104 9 1 10 20 30 40 50) = some (.vpack (fieldsL 9 1 10 20 30 40 50))
      ∧ decodeTableWord 96 (wordL 0x105 9 15 10 20 30 1541 0) = some (.vunpk (fieldsL 9 15 10 20 30 1541 0))
      ∧ decodeTableWord 96 (wordL 0x106 5 1 10 20 0 0 0) = some (.vround (fieldsL 5 1 10 20 0 0 0))
      ∧ decodeTableWord 96 (wordL 0x107 4 0 10 20 0 0 0) = some (.vcrv (fieldsL 4 0 10 20 0 0 0))
      ∧ decodeTableWord 96 (wordL 0x108 4 4 0 20 0 0 2) = some (.vamax (fieldsL 4 4 0 20 0 0 2)) := by decide +kernel

/-- Cross-lane instructions (R148, R238). -/
theorem test_decode_lane_cross :
    decodeTableWord 96 (wordL 0x181 0 0 0 1800 0 0 0) = some (.vband (fieldsL 0 0 0 1800 0 0 0))
      ∧ decodeTableWord 96 (wordL 0x182 0 0 10 20 30 0 0) = some (.vshf (fieldsL 0 0 10 20 30 0 0))
      ∧ decodeTableWord 96 (wordL 0x183 4 0 10 20 30 0 0) = some (.vshfx (fieldsL 4 0 10 20 30 0 0))
      ∧ decodeTableWord 96 (wordL 0x184 15 0 10 20 30 0 0) = some (.vshfu (fieldsL 15 0 10 20 30 0 0))
      ∧ decodeTableWord 96 (wordL 0x185 2 0 10 20 30 0 0) = some (.vshfd (fieldsL 2 0 10 20 30 0 0))
      ∧ decodeTableWord 96 (wordL 0x186 0 1 1636 1637 0 0 0) = some (.vvote (fieldsL 0 1 1636 1637 0 0 0))
      ∧ decodeTableWord 96 (wordL 0x187 4 9 10 20 0 0 0) = some (.vscan (fieldsL 4 9 10 20 0 0 0))
      ∧ decodeTableWord 96 (wordL 0x188 0 2 1545 20 0 0 0) = some (.vred (fieldsL 0 2 1545 20 0 0 0))
      ∧ decodeTableWord 96 (wordL 0x189 0 0 10 20 0 0 0) = some (.vext (fieldsL 0 0 10 20 0 0 0)) := by decide +kernel

/-- Mask and predicate instructions (R148, R245, R250). -/
theorem test_decode_lane_masks :
    decodeTableWord 96 (wordL 0x18A 0 1 0 1634 0 0 0) = some (.mif (fieldsL 0 1 0 1634 0 0 0))
      ∧ decodeTableWord 96 (wordL 0x18B 0 0 0 0 0 0 0) = some (.melse (fieldsL 0 0 0 0 0 0 0))
      ∧ decodeTableWord 96 (wordL 0x18C 0 0 0 0 0 0 0) = some (.mend (fieldsL 0 0 0 0 0 0 0))
      ∧ decodeTableWord 96 (wordL 0x18D 0 0 0 1635 0 0 0) = some (.mbrk (fieldsL 0 0 0 1635 0 0 0))
      ∧ decodeTableWord 96 (wordL 0x18E 0 0 0 0 0 0 0) = some (.mloop (fieldsL 0 0 0 0 0 0 0))
      ∧ decodeTableWord 96 (wordL 0x18F 0 4 0 1633 0 0 0) = some (.msetPred (fieldsL 0 4 0 1633 0 0 0))
      ∧ decodeTableWord 96 (wordL 0x18F 0 1 0 1543 1793 0 0) = some (.msetWord (fieldsL 0 1 0 1543 1793 0 0))
      ∧ decodeTableWord 96 (wordL 0x18F 0 2 0 0 0 0 0) = some (.msetAll (fieldsL 0 2 0 0 0 0 0))
      ∧ decodeTableWord 96 (wordL 0x190 0 0 1638 0 0 0 0) = some (.mgetPred (fieldsL 0 0 1638 0 0 0 0))
      ∧ decodeTableWord 96 (wordL 0x190 0 1 1544 0 0 0 0) = some (.mgetSum (fieldsL 0 1 1544 0 0 0 0))
      ∧ decodeTableWord 96 (wordL 0x190 0 2 1544 0 1793 0 0) = some (.mgetWord (fieldsL 0 2 1544 0 1793 0 0))
      ∧ decodeTableWord 96 (wordL 0x191 0 3 1633 1634 1635 0 0) = some (.pand (fieldsL 0 3 1633 1634 1635 0 0))
      ∧ decodeTableWord 96 (wordL 0x192 0 0 1633 1634 1635 0 0) = some (.por (fieldsL 0 0 1633 1634 1635 0 0))
      ∧ decodeTableWord 96 (wordL 0x193 0 0 1633 1634 1635 0 0) = some (.pxor (fieldsL 0 0 1633 1634 1635 0 0))
      ∧ decodeTableWord 96 (wordL 0x194 0 0 1633 1634 0 0 0) = some (.pnot (fieldsL 0 0 1633 1634 0 0 0))
      ∧ decodeTableWord 96 (wordL 0x195 0 0 1633 20 0 0 0) = some (.pmov (fieldsL 0 0 1633 20 0 0 0)) := by decide +kernel

/-- The memory class (R148, R226) and `xiss` (R251). -/
theorem test_decode_lane_memory :
    decodeTableWord 96 (wordL 0x201 0 1 10 20 1792 0 0) = some (.vld (fieldsL 0 1 10 20 1792 0 0))
      ∧ decodeTableWord 96 (wordL 0x202 13 2 0 20 1792 30 0) = some (.vst (fieldsL 13 2 0 20 1792 30 0))
      ∧ decodeTableWord 96 (wordL 0x203 4 0 10 1540 1792 1796 0) = some (.vlds (fieldsL 4 0 10 1540 1792 1796 0))
      ∧ decodeTableWord 96 (wordL 0x204 4 3 0 1540 1792 1796 50) = some (.vsts (fieldsL 4 3 0 1540 1792 1796 50))
      ∧ decodeTableWord 96 (wordL 0x205 0 6 10 1540 1792 40 0) = some (.vldx (fieldsL 0 6 10 1540 1792 40 0))
      ∧ decodeTableWord 96 (wordL 0x206 2 1 0 1540 1792 40 50) = some (.vstx (fieldsL 2 1 0 1540 1792 40 50))
      ∧ decodeTableWord 96 (wordL 0x207 0 4 10 1540 1792 0 0) = some (.vldm (fieldsL 0 4 10 1540 1792 0 0))
      ∧ decodeTableWord 96 (wordL 0x208 0 0 0 20 1792 30 0) = some (.vstm (fieldsL 0 0 0 20 1792 30 0))
      ∧ decodeTableWord 96 (wordL 0x209 1 3 10 20 1792 30 7) = some (.vamo (fieldsL 1 3 10 20 1792 30 7))
      ∧ decodeTableWord 96 (wordL 0x20A 0 1 0 20 1792 0 0) = some (.vpref (fieldsL 0 1 0 20 1792 0 0))
      ∧ decodeTableWord 96 (wordL 0x280 0 0 0 12 0 0 0) = some (.xiss (fieldsL 0 0 0 12 0 0 0)) := by decide +kernel

/-- The worked S-words of chapter 7 (R158, worked encodings) and of chapters 8, 12, 18 and 20. -/
theorem test_worked_scalar_words :
    decodeTableWord 32 0x08183FF8 = some (.addi 3 3 0xFF8) ∧ decodeTableWord 32 0x4C29FFFD = some (.bc 1 5 0xFFFD)
      ∧ decodeTableWord 32 0x2C304810 = some (.ld 4 6 4 16) ∧ decodeTableWord 32 0x5400900B = some (.lrun 9 11)
      ∧ decodeTableWord 32 0x37F8805A = some (.amoS32 6 2 127 8 2) ∧ decodeTableWord 32 0x2022468A = some (.limm 4 0x2468A)
      ∧ decodeTableWord 32 0x24265E40 = some (.lsh 4 0x65E40) ∧ decodeTableWord 32 0x7CB14002 = some (.own 2 22 20)
      ∧ decodeTableWord 32 0x8C488140 = some (.post 9 8 10) ∧ decodeTableWord 32 0xC4005000 = some (.tstop 5)
      ∧ decodeTableWord 32 0xA8000000 = some .sretResume ∧ decodeTableWord 32 0xAC000000 = some .yield
      ∧ decodeTableWord 32 0x5C000000 = some .lsync := by decide +kernel

/-- The worked L-words of chapters 7, 10 and 11: the guarded `vfma`, a unit-stride load, `mif p2`, and `xiss v12`. -/
theorem test_worked_lane_words :
    decodeTableWord 96 0x2110004002008020000E8000 = some (.vfma {
        ty := 4, md := 0, d := 8, a := 2, b := 4, c := 8, e := 0, g1 := 3, g2 := 0x14, hint := 0, sched := 0 })
      ∧ decodeTableWord 96 0x80D0002604E01C10003DE000 = some (.vlds (fieldsL 4 0 4 0x604 0x700 0x704 0))
      ∧ decodeTableWord 96 0x6280000662000000003DE000 = some (.mif (fieldsL 0 0 0 0x662 0 0 0))
      ∧ decodeTableWord 96 0xA00000000C000000003DE000 = some (.xiss (fieldsL 0 0 0 12 0 0 0)) := by decide +kernel

/-- Words that R133 to R149 call illegal decode to nothing: the zero word, a register field 96, reserved opcodes, codes and modes, a
non-zero zero field, an odd store type, a negative shift kind, reserved lane opcodes, and a constant destination. -/
theorem test_illegal_words :
    [0, wordA 1 96 5 6 0, wordA 1 4 5 6 26, wordA 1 4 5 6 22, wordJ 0x32 0, wordI 6 4 5 0xC0, wordI 12 4 5 0x200, wordA 16 4 5 6 12,
      wordJ 0x13 (6 * 2 ^ 16), wordA 0x17 0 0 1 0, wordA 0x1F 4 5 1 0, wordA 0x1F 4 5 0 5, wordA 0x2A 0 0 0 3, wordA 0x2D 0 5 6 6,
      wordI 0x18 0 0 (4 * 8 + 1), wordJ 0x29 0x10000].all (fun w => decodeTableWord 32 w = none) = true
    ∧ [wordL 0 0 0 0 0 0 0 0, wordL 0x080 4 0 10 20 30 0 0, wordL 0x001 4 0 10 20 30 0 0, wordL 0x001 0 2 10 20 30 0 0,
      wordL 0x001 2 0 11 20 30 0 0, wordL 0x001 0 0 1793 20 30 0 0, wordL 0x001 0 0 10 20 30 1 0, wordL 0x01A 0 6 1632 20 30 0 0,
      wordL 0x001 0 0 10 20 30 0 0 + 1, wordL 0x001 0 0 10 20 30 0 0 + 1024].all (fun w => decodeTableWord 96 w = none) = true := by
  decide +kernel

/-- The digest of the message "abc" begins as the public standard's example has it (R291). -/
theorem test_sha256 : (sha256 [0x61, 0x62, 0x63]).take 8 = [0xba, 0x78, 0x16, 0xbf, 0x8f, 0x01, 0xcf, 0xea] := by decide +kernel

/-- The encoders give the spec's words back. -/
theorem test_encode_words :
    encodeS (.ld 4 6 4 16) = some 0x2C304810 ∧ encodeS (.amoS32 6 2 127 8 2) = some 0x37F8805A
      ∧ encodeL (.mif (fieldsL 0 0 0 0x662 0 0 0)) = some 0x6280000662000000003DE000 := by decide +kernel

/-- One ill-formed term for each check of `wellFormed`: a register field, a fence kind, scope and pair, an f32 operation code, a branch
condition, and a lane word that breaks its row, one whose constructor is not that of its form, and a register beyond the file. -/
theorem test_ill_formed :
    [Instr.add 96 5 6, .add 4 100 6, .add 4 5 126, .clz 96 5, .clz 4 97, .limm 98 0, .jr 99, .cwait 96 5, .cwait 4 126, .amoS32 0 0 96 5 6,
      .fence 5 0, .fence 0 6, .fence 4 1, .fence 4 5, .amoF32 3 0 4 5 6, .amoF32 5 0 4 5 6, .amoF32 0 0 4 5 96, .bc 6 5 0, .bc 0 101 0,
      .vadd (fieldsL 4 0 10 20 30 0 0), .vadd (fieldsL 2 0 11 20 30 0 0), .vadd (fieldsL 0 0 1600 20 30 0 0), .msetAll (fieldsL 0 0 0 1633 0 0 0),
      .vfma (fieldsL 4 4 8 2 4 8 0)].all (fun i => wellFormed i = false) = true
    ∧ [Instr.add 95 127 0, .fence 4 2, .amoF32 7 3 4 5 6, .bc 5 127 0xFFFF, .vadd (fieldsL 2 1 10 20 30 0 0)].all (fun i => wellFormed i = true) = true := by
  decide +kernel

/-- The handle of the tests' team, the VA of its context image. -/
def tHandle : Nat := 0x00F0000000000000

/-- A team of 32 lanes and 64 vector registers that stands at VA 0x200000 of ASID 1, on core 0 of cluster 0. -/
def tTeam : Team where
  pc := 0x200000
  card := { handle := tHandle, fault := 0x00F0000000100000, asid := 1, v := 64, w := 1, lcount := 64, tcount := 1 }
  place := { run := 1 }
  regs := { mask := 0xFFFFFFFF }
  sys := { tvec := 0x200800, slice := 0x100000 }

/-- A page of ASID 1 or of the global range at a frame of controller 0. -/
def tPage (asid vpage frame : Nat) : PageEntry := { ctrl := 0, asid := asid, vpage := vpage, frame := frame }

/-- A region entry with every right, of a kind (R344). -/
def tRegion (kind : Nat) : BitVec 64 := BitVec.ofNat 64 (0x1F + kind * 32)

/-- A module that is ready, with that team: regions 1 and 2 of ASID 1 ordinary and handoff, one page of each mapped, a page without
a frame above them, and the pages of the team's image and fault area. -/
def tState : State :=
  { State.reset with
    team := tTeam
    fw := { State.reset.fw with phase := 2 }
    xl := {
      regions := sset 0 (sset 0 (sset 0 [] (regionKey 0 (regionNo tHandle)) (tRegion 0)) (regionKey 1 1) (tRegion 0)) (regionKey 1 2) (tRegion 3)
      pages := [tPage 1 0x20 16, tPage 1 0x40 32, tPage 0 (tHandle / 65536) 48, tPage 0 (tHandle / 65536 + 1) 64, tPage 0 (tHandle / 65536 + 16) 80]
      asids := [(1, 0, 0)] } }

/-- A scalar register of the tests' team set. -/
def setS (s : State) (r x : Nat) : State :=
  { s with team := { s.team with regs := { s.team.regs with s := sset 0 s.team.regs.s r (BitVec.ofNat 64 x) } } }

/-- Some scalar registers set. -/
def setSs (s : State) (l : List (Nat × Nat)) : State := l.foldl (fun s x => setS s x.1 x.2) s

/-- A vector register set in lanes 0 up. -/
def setV (s : State) (r : Nat) (xs : List Nat) : State :=
  { s with team := { s.team with regs := { s.team.regs with
      v := ((List.range xs.length).zip xs).foldl (fun m x => sset 0 m (vkey r x.1) (BitVec.ofNat 32 x.2)) s.team.regs.v } } }

/-- The next state of an answer, the tests' state where there is none. -/
def got (o : Out) : State := match o with
  | .next t => t
  | _ => tState

/-- A reading that succeeded with a value of which something holds. -/
def isOk {α β : Type} (e : Except β α) (p : α → Bool) : Bool := match e with
  | .ok x => p x
  | .error _ => false

/-- An answer that is a next state of which something holds. -/
def isNext (o : Out) (p : State → Bool) : Bool := match o with
  | .next t => p t
  | _ => false

/-- What a lane of a vector register holds after an L-word. -/
def laneAfter (i : Instr) (s : State) (r l : Nat) : Nat := vreg (got (exec i s)).team r l

/-- What a scalar register holds after an instruction. -/
def regAfter (i : Instr) (s : State) (r : SReg) : Nat := (readReg (got (exec i s)) r).toNat

/-- `limm` and `lsh` build the VA of chapter 1's store, as R158's example works out. -/
theorem test_li : regAfter (.lsh 4 0x65E40) (got (exec (.limm 4 0x2468A) tState)) 4 = 0x0000001234565E40 := by decide +kernel
/-- `div.s` of −2^63 by −1 gives −2^63 and `rem.s` 0 (R166). -/
theorem test_div_corner :
    regAfter (.divS 4 5 6) (setSs tState [(5, 2 ^ 63), (6, 2 ^ 64 - 1)]) 4 = 2 ^ 63
      ∧ regAfter (.remS 4 5 6) (setSs tState [(5, 2 ^ 63), (6, 2 ^ 64 - 1)]) 4 = 0 := by decide +kernel
/-- `addi s3, s3, -8` of 0 wraps (R165, R167). -/
theorem test_addi_wraps : regAfter (.addi 3 3 0xFF8) tState 3 = 2 ^ 64 - 8 := by decide +kernel
/-- `mulh.s` of −1 by 1 is −1, `mulh.z` is 0 (R165). -/
theorem test_mulh :
    regAfter (.mulhS 4 5 6) (setSs tState [(5, 2 ^ 64 - 1), (6, 1)]) 4 = 2 ^ 64 - 1
      ∧ regAfter (.mulhZ 4 5 6) (setSs tState [(5, 2 ^ 64 - 1), (6, 1)]) 4 = 0 := by decide +kernel
/-- `clz` and `ctz` of 0 give 64; bits [63:6] of a shift amount are ignored (R165). -/
theorem test_counts_and_shifts :
    regAfter (.clz 4 5) tState 4 = 64 ∧ regAfter (.ctz 4 5) tState 4 = 64
      ∧ regAfter (.shl 4 5 6) (setSs tState [(5, 3), (6, 65)]) 4 = 6
      ∧ regAfter (.sra 4 5 6) (setSs tState [(5, 2 ^ 63), (6, 63)]) 4 = 2 ^ 64 - 1 := by decide +kernel
/-- A write to sz is discarded (R134). -/
theorem test_sz : got (exec (.limm 127 5) tState) = { tState with team := { tTeam with pc := 0x200004 } } := by decide +kernel
/-- `bc.ne0 s5, .-12` goes three words back (R139). -/
theorem test_bc : (got (exec (.bc 1 5 0xFFFD) (setS tState 5 7))).team.pc = 0x1FFFF4 := by decide +kernel
/-- `vadd.z8.sat` of 200 and 100 gives 255; `vneg.z32` of 1 gives 0xFFFF_FFFF (R204). -/
theorem test_lane_saturation :
    laneAfter (.vadd (fieldsL 14 1 10 20 30 0 0)) (setV (setV tState 20 [200]) 30 [100]) 10 0 = 255
      ∧ laneAfter (.vneg (fieldsL 1 0 10 20 0 0 0)) (setV tState 20 [1]) 10 0 = 0xFFFFFFFF := by decide +kernel
/-- `vabs.s32` of −2^31 gives −2^31, and with sat 2^31 − 1 (R204). -/
theorem test_lane_abs :
    laneAfter (.vabs (fieldsL 0 0 10 20 0 0 0)) (setV tState 20 [2 ^ 31]) 10 0 = 2 ^ 31
      ∧ laneAfter (.vabs (fieldsL 0 1 10 20 0 0 0)) (setV tState 20 [2 ^ 31]) 10 0 = 2 ^ 31 - 1 := by decide +kernel
/-- `vsra.z16` of 0x8000 by 1 gives 0x0000_C000 (R206). -/
theorem test_lane_sra :
    laneAfter (.vsra (fieldsL 12 0 10 20 30 0 0)) (setV (setV tState 20 [0x8000]) 30 [1]) 10 0 = 0xC000 := by decide +kernel
/-- `vmov.f4 v1, 255` writes 7, `vmov.f32 v1, 1` 0x3F80_0000, `vmov.f32 v1, s3` the bits of s3 (R210). -/
theorem test_lane_mov :
    laneAfter (.vmov (fieldsL 9 0 1 2047 0 0 0)) tState 1 0 = 7
      ∧ laneAfter (.vmov (fieldsL 4 0 1 1793 0 0 0)) tState 1 0 = 0x3F800000
      ∧ laneAfter (.vmov (fieldsL 4 0 1 1539 0 0 0)) (setS tState 3 0x12345678) 1 0 = 0x12345678 := by decide +kernel
/-- −0.0 counts as non-zero in `vsel.f32` (R208). -/
theorem test_lane_sel :
    laneAfter (.vsel (fieldsL 4 0 10 20 30 40 0)) (setV (setV (setV tState 20 [5]) 30 [6]) 40 [0x80000000]) 10 0 = 5 := by decide +kernel
/-- A lane that is not active keeps its destination (R199). -/
theorem test_lane_inactive :
    laneAfter (.vmov (fieldsL 0 0 1 1793 0 0 0)) { tState with team := { tTeam with regs := { tTeam.regs with mask := 2 } } } 1 0 = 0
      ∧ laneAfter (.vmov (fieldsL 0 0 1 1793 0 0 0)) { tState with team := { tTeam with regs := { tTeam.regs with mask := 2 } } } 1 1 = 1 := by
  decide +kernel
/-- `vfmin` treats −0 as less than +0, and 1.0 + 1.0 is 2.0 (R213, R214). -/
theorem test_lane_float :
    laneAfter (.vfmin (fieldsL 4 0 10 20 30 0 0)) (setV (setV tState 20 [0]) 30 [0x80000000]) 10 0 = 0x80000000
      ∧ laneAfter (.vfadd (fieldsL 4 0 10 20 30 0 0)) (setV (setV tState 20 [0x3F800000]) 30 [0x3F800000]) 10 0 = 0x40000000 := by
  decide +kernel
/-- `vshfd` by 1 in bands of 32: a lane takes the next lane's value, the last its own (R239). -/
theorem test_lane_shuffle :
    laneAfter (.vshfd (fieldsL 0 0 10 20 1793 0 0)) (setV tState 20 (List.range 32)) 10 4 = 5
      ∧ laneAfter (.vshfd (fieldsL 0 0 10 20 1793 0 0)) (setV tState 20 (List.range 32)) 10 31 = 31 := by decide +kernel
/-- The handler is entered by `trap` with the next word's address saved and the code in SCAUSE (R196, R362). -/
theorem test_trap :
    (got (exec (.trap 0x1234) tState)).team.pc = 0x200800 ∧ (got (exec (.trap 0x1234) tState)).team.sys.epc = 0x200004
      ∧ (got (exec (.trap 0x1234) tState)).team.sys.scause = 0x12340118 := by decide +kernel
/-- The step at a placed word runs it: `addi s3, s3, -8` placed after reset (R160; assumption log 4). -/
theorem test_step_runs_word :
    (readReg (got (step (State.reset.withFetchWord 32 0x08183FF8))) 3).toNat = 2 ^ 64 - 8
      ∧ (got (step (State.reset.withFetchWord 96 0x004000500AE02000003DE000))).team.lane.queue = [] := by decide +kernel

/-- What holds of every listed lane holds of every lane that takes part. -/
theorem of_takers {s : State} {f : LaneFields} {p : Nat → Prop} (h : ∀ l, l ∈ takerList s.team f → p l) :
    ∀ l, takes s f l = true → p l := fun l hl => h l (mem_takerList.2 hl)

/-- The levels of the tests' team: launch 1 of graph 2 of phase 3 of job 4, the launch in a state. -/
def withLevels (s : State) (state : Nat) : State :=
  { s with
    team := { s.team with card := { s.team.card with launch := 1, job := 4, queue := { cluster := 0, index := 1 } } }
    sched := { s.sched with nextId := 5, levels := [
      { kind := 3, id := 4, parent := 0, number := 0, total := 1, va := 0x200F00, asid := 1 },
      { kind := 2, id := 3, parent := 4, number := 0, total := 1 },
      { kind := 1, id := 2, parent := 3, number := 0, total := 1, opened := true },
      { kind := 0, id := 1, parent := 2, number := 0, total := 2, state := state, va := 0x200F40, asid := 1 }] } }

/-- The tests' module with the handler running. -/
def inHand (s : State) : State := { s with team := { s.team with sys := { s.team.sys with handler := true } } }

/-- The tests' team at level 1. -/
def atSup (s : State) : State := { s with team := { s.team with card := { s.team.card with level := 1 } } }

/-- The tests' module with the passes of the team's head L-word under way. -/
def inWord (s : State) : State := { s with team := { s.team with lane := { s.team.lane with busy := true } } }

/-- A store of the tests' team in its core's buffer. -/
def tStore : SbEntry where
  core := 0
  team := tHandle
  asid := 1
  sector := 0x200000
  bytes := [(4, 7)]
  seq := 1
  iva := 0x200000

theorem witness_ScalarRegisterResults :
    aluRegs (.sel 4 5 6) = some (4, 5, 6) ∧ aluNumber (.sel 4 5 6) (readReg tState 5) (readReg tState 6) (readReg tState 4) = some 0
      ∧ aluRegs (.add 127 5 6) = some (127, 5, 6) ∧ aluNumber (.add 127 5 6) 1 2 0 = some 3 := by decide +kernel
theorem witness_ScalarImmediateResults :
    immNumber (.shri 4 5 1) (setS tState 5 9) = some (4, 4) ∧ immNumber (.lpc 127 1) tState = some (127, 0x200001) := by decide +kernel
theorem witness_DivisionCorners :
    (4 : SReg).toNat < 96 ∧ readReg tState 6 = 0
      ∧ (readReg (setSs tState [(5, 2 ^ 63), (6, 2 ^ 64 - 1)]) 5).toInt = -2 ^ 63
      ∧ (readReg (setSs tState [(5, 2 ^ 63), (6, 2 ^ 64 - 1)]) 6).toInt = -1 := by decide +kernel
theorem witness_DirectBranches :
    0 ≤ (0 : BitVec 26).toInt ∧ cancelled tState = false ∧ branchTaken 1 (readReg tState 5).toInt = false
      ∧ branchTaken 0 (readReg tState 5).toInt = true ∧ (0xFFFD : BitVec 16).toInt < 0 := by decide +kernel
theorem witness_RegisterJumps :
    2 ^ 56 ≤ (readReg (setS tState 5 (2 ^ 56)) 5).toNat ∧ (readReg (setS tState 5 (2 ^ 56 - 2)) 5).toNat % 4 ≠ 0
      ∧ (readReg (setS tState 5 (2 ^ 56 - 4)) 5).toNat < 2 ^ 56 ∧ (readReg (setS tState 5 (2 ^ 56 - 4)) 5).toNat % 4 = 0
      ∧ readReg (setS tState 95 0x200010) 95 ≠ 0 ∧ readReg tState 95 = 0 := by decide +kernel
theorem witness_BackwardBranchesCancel :
    let s := setSs (withLevels tState 1) [(5, 0x1FFFFC), (95, 0x1FFFFC)]
    cancelled s = true ∧ midWord s s.team.card.handle = false ∧ (0x3FFFFFF : BitVec 26).toInt < 0 ∧ branchTaken 1 (readReg s 5).toInt = true
      ∧ (readReg s 5).toNat < s.team.pc.toNat ∧ (readReg s 5).toNat % 4 = 0 ∧ readReg s 95 ≠ 0
      ∧ cancelled (inWord s) = true ∧ midWord (inWord s) s.team.card.handle = true := by decide +kernel
theorem witness_AccessChecks :
    let a (x : Nat) : Nat := (readReg (setS tState 5 x) 5).toNat
    inAperture (a (2 ^ 56)) = false ∧ 2 ^ 56 ≤ a (2 ^ 56)
      ∧ a 0x600000 < 2 ^ 56 ∧ inAperture (a 0x600000) = false ∧ regionAt tState (focusWho tState) (a 0x600000) = none
      ∧ (∃ e, regionAt { tState with xl := { tState.xl with regions := [(2 ^ 35 + 1, 0x800000003)] } } (focusWho tState) 0x200000 = some e
          ∧ eSup e = true ∧ levelOf tState.team ≠ 1 ∧ hasRight e .w = false)
      ∧ ∃ e, regionAt tState (focusWho tState) (a 0x200002) = some e ∧ eSup e = false ∧ hasRight e .rw = true ∧ a 0x200002 % 4 ≠ 0 := by
  exact ⟨by decide +kernel, by decide +kernel, by decide +kernel, by decide +kernel, by decide +kernel, ⟨0x800000003, by decide +kernel⟩,
    ⟨0x1F, by decide +kernel⟩⟩
theorem witness_LoadResult :
    (0x200008 : Nat) = (readReg (setS tState 5 0x200000) 5 + BitVec.ofInt 64 ((2 : BitVec 9).toInt * (4 : Nat))).toNat
      ∧ mayAccess (setS tState 5 0x200000) 0x200008 4 .r = true ∧ noStores tState = true
      ∧ gateAt tState (focusWho tState) 0x200008 = .go := by decide +kernel
theorem witness_LoadTranslationFault :
    mayAccess tState 0x210000 4 .r = true ∧ noStores tState = true ∧ gateAt tState (focusWho tState) 0x210000 = .absent := by decide +kernel
theorem witness_StoreRetires :
    mayAccess tState 0x200008 4 .w = true ∧ kindAt tState (tagOf tState.team.card.asid 0x200008) 0x200008 ≠ 2
      ∧ teamShare tState tState.team.card.handle < 128 ∧ coreShare tState (coreOf tState.team) < 512
      ∧ (∀ e, e ∈ tState.sb → e.held = false) := by decide +kernel
theorem witness_StoreThenLoad :
    mayAccess (setS tState 5 0x200008) 0x200008 4 .rw = true
      ∧ isNext (exec (.st 2 4 5 0) (setS tState 5 0x200008)) (fun t => t.sb.length = 1) = true := by decide +kernel
theorem witness_ScalarAtomics :
    mayAccess tState 0x200008 4 .rw = true ∧ mayAccess tState 0x200008 8 .rw = true
      ∧ kindAt tState (tagOf tState.team.card.asid 0x200008) 0x200008 ≠ 2 ∧ noStores tState = true
      ∧ gateAt tState (focusWho tState) 0x200008 = .go ∧ tState.fw.lev.state = 0 := by decide +kernel
theorem witness_ScalarAtomics_memory : tState.memOk := memOk_congr memOk_reset rfl rfl rfl rfl
theorem witness_FencesComplete :
    noStores tState = true ∧ fenceOk 4 0 = true ∧ fenceOk 0 5 = true ∧ fenceOk 1 1 = true
      ∧ tState.team.sys.handler = false ∧ tState.team.lane.queue = [] ∧ tState.team.ord.passed = false
      ∧ (∀ x, x ∈ crewMates tState tState.team → x.ord.atBarrier = true) := by decide +kernel
theorem witness_HeldStoresStopFences :
    let s : State := { tState with sb := [{ tStore with held := true }] }
    (∀ e, e ∈ s.sb → e.team = s.team.card.handle → e.held = true) ∧ hasStores s s.team.card.handle = true
      ∧ (s.link.groups.all fun r => !groupOwes r s.team.card.handle) = true ∧ fenceOk 1 1 = true
      ∧ s.team.sys.handler = false ∧ s.team.ord.passed = false := by decide +kernel
theorem witness_CounterWaits :
    mayAccess tState 0x200008 8 .r = true ∧ noStores tState = true ∧ gateAt tState (focusWho tState) 0x200008 = .go
      ∧ (readReg tState 6).toNat ≤ ofBytes ((List.range 8).map fun i => readByte tState (focusWho tState) (0x200008 + i))
      ∧ ofBytes ((List.range 8).map fun i => readByte tState (focusWho tState) (0x200008 + i)) < (readReg (setS tState 6 1) 6).toNat
      ∧ cancelled tState = false := by decide +kernel

/-- A copy of the tests' team in a batch. -/
def tCopy (id batch : Nat) : CopyJob where
  id := id
  cluster := 0
  chan := 0
  core := 0
  team := tHandle
  asid := 1
  batch := batch
  tmplVa := 0x200400
  tmpl := []
  arg := 0
  src := []
  dst := []

/-- The tests' module with sixteen closed batches that have a copy left. -/
def manyBatches : State :=
  { tState with
    eng := { tState.eng with copies := (List.range 16).map fun k => tCopy k (k + 1) }
    team := { tTeam with ord := { batch := 17 } } }

theorem witness_CopyBatches :
    let closes (s : State) (b : Nat) : State := { s with team := { s.team with ord := { s.team.ord with closing := some b } } }
    (openBatches tState tState.team).length < 16 ∧ tState.team.ord.closing = none
      ∧ 9 ∉ openBatches (closes tState 9) (closes tState 9).team ∧ 3 ∈ openBatches (closes manyBatches 3) (closes manyBatches 3).team
      ∧ 16 ≤ (openBatches manyBatches manyBatches.team).length ∧ manyBatches.team.ord.closing = none
      ∧ (readReg tState 5).toNat = 0 ∧ manyBatches.team.ord.batch ≤ (readReg (setS manyBatches 5 17) 5).toNat
      ∧ (let s : State := setS { tState with team := { tTeam with ord := { batch := 3 } }, eng := { copies := [tCopy 0 1] } } 5 2
         0 < (readReg s 5).toNat ∧ (readReg s 5).toNat < s.team.ord.batch ∧ s.team.ord.stops = []
          ∧ ∀ c, c ∈ s.eng.copies → c.team = s.team.card.handle → c.batch ≠ (readReg s 5).toNat) := by decide +kernel

/-- The tests' module with a local queue of four entries at local address 0x1000, some entries pushed. -/
def withQueue (pushed : Nat) : State := lmWrite tState 0 0x1000 (toBytes 4 0 ++ toBytes 4 pushed ++ toBytes 8 2)

theorem witness_LocalQueues :
    let s := setS (withQueue 1) 5 0x1000
    s.team.sys.handler = false ∧ queueTrap s (readReg s 5).toNat = none ∧ noStores s = true
      ∧ (qheader s (coreOf s.team) (readReg s 5).toNat).used < 2 ^ (qheader s (coreOf s.team) (readReg s 5).toNat).lcap
      ∧ (qheader s (coreOf s.team) (readReg s 5).toNat).used ≠ 0 ∧ (qheader (withQueue 0) 0 0x1000).used = 0 ∧ cancelled s = false := by
  decide +kernel
theorem witness_TileOwnership :
    let s := setS tState 5 0x40000
    let u := setS tState 5 0x3FFFF
    s.team.sys.handler = false ∧ inWindow s.team (readReg s 5).toNat = false ∧ inWindow u.team (readReg u 5).toNat = true
      ∧ noStores u = true ∧ (tileRec u (coreOf u.team) 63).owner ≠ 1 ∧ u.eng.copies = [] := by decide +kernel

/-- Bytes placed in the page of the tests' code and data, by their VA. -/
def putMem (s : State) (va : Nat) (bs : List Byte) : State := { s with mem := setBytes s.mem (16 * 4096 + va % 65536) bs }

/-- A tile task record: one 64 by 64 block and one chunk of K, f4 operands with rows of 16 B, A in tile 0, B in tile 1 and C in tiles 4 to
7, C starting at zero (R268 to R271). -/
def tRecord : List Byte :=
  toBytes 8 (16 * 2 ^ 18) ++ toBytes 8 0 ++ toBytes 8 (0x1000 + 16 * 2 ^ 18) ++ toBytes 8 0 ++ toBytes 8 (0x4000 + 256 * 2 ^ 18)
    ++ toBytes 8 0 ++ toBytes 8 0x99 ++ toBytes 8 (31 + 2 ^ 32)

/-- The tests' module with that record at VA 0x200400 and the tiles it names owned by the engines. -/
def withTask : State :=
  { putMem (setS tState 5 0x200400) 0x200400 tRecord with
    tiles := [0, 1, 4, 5, 6, 7].foldl (fun m k => sset {} m k { owner := 2 }) [] }

theorem witness_TileTaskAccepted :
    withTask.team.sys.handler = false ∧ (readReg withTask 5).toNat = 0x200400 ∧ mayAccess withTask 0x200400 64 .rw = true
      ∧ isOk (teamRead withTask 0x200400 64) (· = tRecord) = true
      ∧ taskReason tRecord = none ∧ taskReason (tRecord.set 0x30 0x9B) = some 1
      ∧ (∀ x, x ∈ tilesOf (readRanges tRecord) → x ∉ tilesOf (rowRanges tRecord 2))
      ∧ (∀ x, x ∈ readRanges tRecord ++ rowRanges tRecord 2 →
          inWindow withTask.team x.1 = true ∧ inWindow withTask.team (x.1 + x.2 - 1) = true)
      ∧ (∀ x, x ∈ tilesOf (readRanges tRecord) ++ tilesOf (rowRanges tRecord 2) →
          (tileRec withTask 0 x).owner = 2 ∧ (tileRec withTask 0 x).flip = none ∧ (tileRec withTask 0 x).readers ≠ 255)
      ∧ (coreTaskList withTask 0).length < 64
      ∧ (∀ n, n < 2 → isScaled tRecord n = true → laneWrites withTask.team.lane.queue (baseReg tRecord n) = false) := by decide +kernel

/-- A shape record of one dimension (R99). -/
def shapeRec (fmt flags base count stride digest : Nat) : List Byte :=
  toBytes 1 1 ++ toBytes 1 fmt ++ toBytes 1 flags ++ toBytes 5 0 ++ toBytes 8 base ++ toBytes 4 count ++ toBytes 28 0 ++ toBytes 8 stride
    ++ toBytes 56 0 ++ toBytes 24 0 ++ toBytes 8 digest ++ toBytes 48 0

/-- A bound group of two ranks, its first one bound to the launch of the tests' team. -/
def tGroup : Group := { number := 3, root := 0, asid := 1, window := 0x600000, wlen := 65536, rankmap := [0, 7], locals := [(0, 0, 0x200F40)] }

/-- An all-gather descriptor for that group, with its records at 0x200600 and 0x2006C0 (R296). -/
def tColl : List Byte :=
  toBytes 4 0 ++ toBytes 4 3 ++ toBytes 8 0x200600 ++ toBytes 8 0 ++ toBytes 8 0x2006C0 ++ toBytes 32 0

/-- The tests' module with the descriptor at VA 0x200500. -/
def withColl : State :=
  let s := setS (withLevels tState 0) 5 0x200500
  let s1 := putMem (putMem (putMem s 0x200500 tColl) 0x200600 (shapeRec 0 0 0x200A00 4 1 0)) 0x2006C0 (shapeRec 0 0 0x200B00 8 1 0)
  { s1 with link := { s1.link with groups := [tGroup] } }

theorem witness_CollectiveAccepted :
    withColl.team.sys.handler = false
      ∧ isOk (collChecks withColl (readReg withColl 5).toNat) (fun x => x.1 = 1) = true := by decide +kernel

theorem witness_CsrReads :
    levelOf tState.team = 0 ∧ levelOf (atSup tState).team ≠ 0 ∧ csrHolds tState 3 = some 1 ∧ csrHolds (atSup tState) 0x081 = some 0x200800
      ∧ csrHolds tState 0x07F = none := by decide +kernel
theorem witness_CsrWrites :
    (csrStores tState.team 0x007 (readReg tState 5)).isSome = true ∧ (csrStores (atSup tState).team 0x082 (readReg tState 5)).isSome = true
      ∧ (csrStores (setS tState 5 1).team 0x005 1).isSome = true ∧ csrStores tState.team 0x002 0 = none ∧ levelOf tState.team = 0
      ∧ levelOf (atSup tState).team ≠ 0 := by decide +kernel

/-- A `vband` with its size in s5. -/
def tBand : LaneFields := fieldsL 0 0 0 1541 0 0 0
/-- The tests' module with that word at the head of the lane queue, its size captured. -/
def withBand (size : Nat) : State := { tState with team := { tTeam with lane := { queue := [{ word := 0, capA := BitVec.ofNat 64 size }] } } }

theorem witness_BandRegister :
    (readReg (setS tState 5 9) 5).toNat % 8 = 1 ∧ (readReg (setS tState 5 13) 5).toNat % 8 = 5 ∧ (readReg tState 5).toNat % 8 = 0
      ∧ 6 ≤ (readReg (setS tState 5 6) 5).toNat % 8 ∧ laneLegal tState.team.card.v 0x181 tBand = true
      ∧ readOp (withBand 32).team tBand 1 3 0 = 2 ^ 5 ∧ readOp (withBand 3).team tBand 1 3 0 = 3
      ∧ delivers tState { cause := 3 } = true := by decide +kernel
theorem witness_CurveTableLoad :
    let va := (readReg (setS tState 5 0x200000) 5).toNat
    va + 1280 ≤ 2 ^ 56 ∧ va % 64 = 0 ∧ rangeTrap tState (focusWho tState) va 1280 .r = none ∧ inAperture va = false
      ∧ inAperture (va + 1279) = false ∧ isOk (teamRead tState va 1280) (fun bs => bs.length = 1280) = true := by decide +kernel
theorem witness_HandlerEntered :
    delivers tState { cause := 0x07, va := 0x200002 } = true ∧ freeSlots tState tState.team 1 = some 0
      ∧ delivers tState { cause := 0x0F, four := true } = true ∧ freeSlots tState tState.team 4 = some 0 := by decide +kernel
theorem witness_NestedStopHalts :
    (inHand tState).team.sys.handler = true ∧ freeSlots (inHand tState) (inHand tState).team 1 = some 0 := by decide +kernel
theorem witness_TrapAndBreakpoint :
    let s : State := { tState with team := { tTeam with sys := { tTeam.sys with dbg := 1 } } }
    s.team.sys.dbg.getLsbD 0 = true ∧ s.team.sys.handler = false ∧ (freeSlots (advance s) (advance s).team 1).isSome = true := by decide +kernel
theorem witness_HandlerReturns :
    (inHand tState).team.sys.handler = true ∧ (∀ e, e ∈ (inHand tState).sb → e.held = false) ∧ (∀ e, e ∈ (inHand tState).sb → e.marked = false)
      ∧ (inHand tState).team.ord.replay = none
      ∧ (let s := inHand withColl
         tGroup ∈ s.link.groups ∧ tGroup.state = 0 ∧ (issuingRank s tGroup s.team).isSome = true ∧ groupOf s tGroup.number = some tGroup) := by
  decide +kernel
theorem witness_PrivilegeTraps :
    levelOf tState.team = 0 ∧ readReg (setS tState 5 1) 5 ≠ 0 ∧ levelOf (atSup tState).team ≠ 0 ∧ (atSup tState).team.sys.handler = false
      ∧ (inHand tState).team.sys.handler = true ∧ inAperture (2 ^ 56 - 4096) = true := by decide +kernel

/-- The tests' module with a second team beside the first, at level 1 as it is. -/
def withMate (h : Nat) : State := atSup { tState with others := [{ tTeam with card := { tTeam.card with handle := h } }] }

/-- The tests' module with a bound group at a window of replicated pages (R172). -/
def withGroup (g : Group) : State :=
  { tState with
    link := { tState.link with groups := [{ g with window := 0x600000 }] }
    xl := { tState.xl with regions := sset 0 tState.xl.regions (regionKey 1 3) (tRegion 2 ||| BitVec.ofNat 64 (g.number * 2 ^ 16)) } }

theorem witness_SupervisorWords :
    (let s := setSs (atSup tState) [(5, 0x200000), (6, 1)]
     levelOf s.team = 1 ∧ (readReg s 6).toNat = 1 ∧ (readReg s 5).toNat < 2 ^ 56 ∧ asidDomain s 1 = some (teamDomain s s.team)
        ∧ s.sb = [] ∧ s.others = [] ∧ s.team.sys.handler = false ∧ midWord s s.team.card.handle = false ∧ s.team.ord.load = none)
      ∧ (let s := withMate 0x00F0000000010000
         let x : Team := { tTeam with card := { tTeam.card with handle := 0x00F0000000010000 }, ord := { load := some 0x200000 } }
         let u : State := { s with others := [x] }
         x ∈ u.others ∧ x.place.run = 1 ∧ teamDomain u x = teamDomain u u.team ∧ x.sys.handler = false ∧ u.sb = []
          ∧ tagOf x.card.asid 0x200000 = 1 ∧ 0x200000 / 2 ^ 21 % 2 ^ 35 = 1)
      ∧ (let s := setS (withMate 0x00F0000000010000) 5 0x00F0000000010000
         levelOf s.team = 1 ∧ ∃ x, teamOf s (readReg s 5).toNat = some x ∧ x.place.run = 1 ∧ teamDomain s x = teamDomain s s.team
          ∧ x.card.handle ≠ s.team.card.handle)
      ∧ (let s := setS (withGroup tGroup) 5 0x600000
         mayAccess s (readReg s 5).toNat 1 .r = true ∧ kindAt s (tagOf s.team.card.asid 0x600000) 0x600000 = 2
          ∧ (groupOf s (groupAt s (tagOf s.team.card.asid 0x600000) 0x600000)).isSome = true)
      ∧ readReg tState 5 = 0 ∧ (ownLevel (withLevels tState 0) (withLevels tState 0).team 0).isSome = true
      ∧ (ownLevel (withLevels tState 0) (withLevels tState 0).team 3).isSome = true := by
  refine ⟨by decide +kernel, by decide +kernel, ⟨by decide +kernel, _, rfl, by decide +kernel, by decide +kernel, by decide +kernel⟩, ?_, ?_, ?_, ?_⟩ <;> decide +kernel
theorem witness_CancelAndYield :
    (ownLevel (withLevels tState 0) (withLevels tState 0).team 1).isSome = true ∧ cancelled tState = false
      ∧ waitedFor (advance tState) (advance tState).team = false ∧ cancelled (withLevels tState 1) = true
      ∧ midWord (withLevels tState 1) tHandle = false ∧ midWord (inWord (withLevels tState 1)) tHandle = true
      ∧ cancelled (inWord (withLevels tState 1)) = true := by decide +kernel

/-- The tests' module with a modified copy of a handoff sector in cluster 0 and a modified copy of an ordinary one. -/
def withCopies : State :=
  { tState with
    hand := [{ cluster := 0, dpa := 32 * 4096, bytes := List.replicate 64 5, dirty := true }]
    fab := { tState.fab with copies := [{ holder := 0, asid := 1, sec := 0x200000, st := .M }] } }

theorem witness_CacheMaintenance :
    let s := setSs withCopies [(5, 0x400000), (6, 128)]
    (readReg s 5).toNat = 0x400000 ∧ (readReg s 6).toNat = 128 ∧ readReg s 7 = 0 ∧ cacheTrap s 0x400000 128 .r false = none
      ∧ noStores s = true ∧ (s.hand.map fun c => (c.cluster, c.dpa)).Nodup ∧ (∀ c, c ∈ s.hand → c.dpa % 64 = 0 ∧ c.bytes.length = 64)
      ∧ (∀ c, c ∈ s.hand → (decide (c.cluster = (focusWho s).cluster) && handIn s (focusWho s) 0x400000 128 c && c.dirty) = true)
      ∧ cacheTrap s 0x200000 64 .r false = none := by decide +kernel
theorem witness_CacheDiscardFreesBytes :
    let s := setSs withCopies [(5, 0x400000), (6, 128)]
    cacheTrap s (readReg s 5).toNat (readReg s 6).toNat .w true = none ∧ noStores s = true ∧ (∀ e, e ∈ s.sb → e.held = false)
      ∧ (∀ x, x ∈ sectorsOf 0x400000 128 → gateAt s (focusWho s) x ≠ .wait) ∧ placeOf s (focusWho s) 0x40007F ≠ .absent := by decide +kernel
theorem witness_StashBindings :
    let s := setSs { tState with team := { tTeam with card := { tTeam.card with scount := 8 } } } [(5, 0x200000), (7, 4096)]
    let u : State := { s with team := { s.team with ord := { s.team.ord with bindings := [{ va := 0x200000, len := 4096, la := 0 }] } } }
    overlap 0x200000 4096 Config.aperture 131072 = false ∧ bindOk s 0x200000 0 4096 = true ∧ bindOk s 0x200000 4096 4100 = false
      ∧ inAperture 0x200000 = false ∧ noStores u = true ∧ u.team.ord.bindings.find? (·.va = 0x200000) ≠ none
      ∧ s.team.ord.bindings.find? (·.va = 0x200000) = none := by decide +kernel
theorem witness_StashBindings_lost :
    let c : SectorCopy := { holder := 64, asid := 1, sec := 0x220000, st := .M }
    let u : State := { tState with
      team := { tTeam with ord := { bindings := [{ va := 0x220000, len := 4096, la := 0 }] } }, fab := { tState.fab with copies := [c] } }
    inAperture 0x220000 = false ∧ noStores u = true ∧ u.team.ord.bindings.find? (·.va = 0x220000) ≠ none ∧ c ∈ u.fab.copies
      ∧ c.holder = 64 + coreOf u.team ∧ inRange u.team.card.asid 0x220000 4096 c.asid c.sec = true
      ∧ whereIs u (focusWho u).domain c.asid c.sec = .absent := by decide +kernel

/-- The tests' module with two L-words, `vadd v10, v10, c1` and an all-lane move, at VA 0x200C00 and a step record at 0x200D00 that
steps the destination of the first by 2 with a wrap of 60. -/
def withBody : State :=
  putMem (putMem (setSs tState [(4, 3), (5, 0x200C00), (6, 0x200D00)]) 0x200C00
    (toBytes 12 0x004000500AE02000003DE000 ++ toBytes 12 (wordL 0x01B 0 0 3 4 0 0 0)))
    0x200D00 (toBytes 4 (60 * 2 ^ 24 + 2 * 2 ^ 8 + 1 * 2 ^ 5))

theorem witness_WordsAppended :
    withBody.team.sys.handler = false ∧ withBody.team.lane.append = none ∧ fetchTrap withBody 0x200C00 24 4 .lx = none
      ∧ isOk (fetchRange withBody 0x200C00 24) (fun bs => bs.length = 24) = true
      ∧ isOk (readLoop withBody 3 0x200C00 0x200D00 2) (fun st => st.body.length = 2) = true := by decide +kernel
/-- The tests' module with an append already one word in. -/
def withAppend (loop : Bool) : State :=
  { withBody with team := { withBody.team with lane := { withBody.team.lane with
      append := some { isLoop := loop, count := 2, done := 1, base := 0x200C00, body := if loop then [0, 0] else [], steps := [] } } } }
theorem witness_WordsAppended_midway :
    ((withAppend false).team.lane.append.any fun p => !p.isLoop && p.count = 2 && p.done = 1 && p.base = 0x200C00) = true
      ∧ fetchTrap (withAppend false) (0x200C00 + 12) 12 4 .lx = none
      ∧ isOk (fetchRange (withAppend false) (0x200C00 + 12) 12) (fun bs => bs.length = 12) = true
      ∧ ((withAppend true).team.lane.append.any fun p => p.isLoop && p.body.length = 2 && p.done ≤ p.count * 2) = true := by decide +kernel
theorem witness_LoopSteps :
    let e : Half := BitVec.ofNat 32 (ofBytes (readBytes withBody (focusWho withBody) 0x200D00 4))
    let body : List LWord := [0x004000500AE02000003DE000]
    (stepFields e).2.2.2 = 0 ∧ (stepFields e).2.2.1 = 0 + 1 ∧ codeFor (laneFields (body.getD 0 0)) 0 < 1536 ∧ withBody.team.card.v ≤ 1536
      ∧ ([e].filter fun x => (stepFields x).2.2.1 ≠ 0 && (stepFields x).2.2.2 = 0) = [e] := by decide +kernel

/-- An open ordinary queue of cluster 0 whose ring of four slots lies in the tests' handoff page. -/
def tQueue : Queue := { id := { cluster := 0, index := 1 }, kind := 0, openPost := true, job := 4, asid := 1, prio := 0, ring := 0x400000, k := 2 }

/-- The tests' module with that queue, its ring's reserve at a value, and s6 naming it. -/
def withRing (reserve : Nat) : State :=
  let s := setSs tState [(5, 0x200400), (6, 1)]
  { s with mem := setBytes s.mem (32 * 4096) (toBytes 8 reserve), sched := { s.sched with queues := [tQueue] } }

theorem witness_CardPosted :
    (let s := withRing 3
     s.team.sys.handler = false ∧ isOk (postChecks s (readReg s 5).toNat (readReg s 6)) (· = tQueue) = true
      ∧ isOk (teamRead s (readReg s 5).toNat 128) (fun c => c.length = 128) = true
      ∧ present s (hwWho (queueDom s tQueue) 1) 0x400000 (256 + 128 * 4) = true ∧ noStores s = true
      ∧ ofBytes (hwRead s 0 1 0x400000 8) = 3 ∧ (3 + 2 ^ 64 - tQueue.head) % 2 ^ 64 < 2 ^ tQueue.k)
      ∧ ofBytes (hwRead (withRing 4) 0 1 0x400000 8) = 4 := by decide +kernel
theorem witness_CardPosted_places :
    ∀ i j, i < 256 + 128 * 2 ^ tQueue.k → j < 256 + 128 * 2 ^ tQueue.k →
      placeOf (withRing 3) (hwWho 0 1) (0x400000 + i) = placeOf (withRing 3) (hwWho 0 1) (0x400000 + j) → i = j := by
  have h : (List.range 768).all (fun i => placeOf (withRing 3) (hwWho 0 1) (0x400000 + i) = .dram (32 * 4096 + i)) = true := by decide +kernel
  rw [List.all_eq_true] at h
  intro i j hi hj he
  have hi' := h i (List.mem_range.2 hi)
  have hj' := h j (List.mem_range.2 hj)
  simp only [decide_eq_true_eq] at hi' hj'
  rw [hi', hj'] at he
  injection he with he
  omega
theorem witness_CardPosted_memory : (withRing 3).memOk := by
  refine ⟨?_, ?_⟩ <;> decide +kernel

theorem witness_ScalarRoundTrip : wellFormed (.add 1 2 127) = true ∧ encodeS (.add 1 2 127) = some 0x04082FE0 := by decide +kernel
theorem witness_ScalarWordsUnambiguous : isOk (decodeS 0x04082FE0) (· = .add 1 2 127) = true := by decide +kernel
theorem witness_LaneRoundTrip :
    wellFormed (.vadd (fieldsL 0 0 10 10 0x701 0 0)) = true
      ∧ encodeL (.vadd (fieldsL 0 0 10 10 0x701 0 0)) = some 0x004000500AE02000003DE000 := by decide +kernel
theorem witness_LaneWordsUnambiguous :
    isOk (decodeLFor 64 0x004000500AE02000003DE000) (· = .vadd (fieldsL 0 0 10 10 0x701 0 0)) = true := by decide +kernel

/-- The tests' module with an S-word at its scalar PC and its scalar stream next. -/
def atWord (s : State) (w : Nat) : State :=
  let s1 := putMem s 0x200000 (toBytes 4 w)
  { s1 with agenda := [.scalar tHandle] }
/-- The tests' team with a debug control. -/
def withDebug (s : State) (x : Nat) : State := { s with team := { s.team with sys := { s.team.sys with dbg := BitVec.ofNat 3 x } } }
/-- The tests' team with L-words in its queue. -/
def withWords (s : State) (ws : List LWord) : State :=
  { s with team := { s.team with lane := { s.team.lane with queue := ws.map fun w => captureEntry s.team w 0 0x200C00 } } }

/-- The tests' module with a change to the focus team's ordering state. -/
def standing (s : State) (f : Ord → Ord) : State := { s with team := { s.team with ord := f s.team.ord } }
/-- The tests' module with register lines of the focus team in its partition's register cache. -/
def withLines (s : State) (ls : List (Nat × Nat)) : State :=
  { s with cores := { s.cores with lines := ls.map fun l => { core := 0, part := 0, team := tHandle, v := l.1, w := l.2, dirty := false } } }
/-- The tests' module with the sector of its scalar PC in the scalar instruction cache. -/
def withCode (s : State) : State := fillCode s (focusWho s) false s.team.pc.toNat
/-- A state whose scalar stream is next and may issue: resident, clocked, with nothing due and no load awaited. -/
def scalarReady (s : State) : Bool :=
  s.team.place.run = 1 && clocked s (coreOf s.team) && !s.team.ord.ending && s.team.ord.load.isNone && s.team.ord.leave.isNone
    && !s.team.ord.stepped && !due s

theorem witness_ScalarWordRuns :
    let s := atWord tState 0x04082FE0
    let s1 := tick { s with agenda := [] }
    s.agenda = [.scalar s.team.card.handle] ∧ scalarReady s1 = true ∧ fetchScalar s1 = .word 0x04082FE0
      ∧ isOk (decodeS 0x04082FE0) (fun i => !streamWait s.team i) = true ∧ stepping s = false
      ∧ isNext (exec (.add 1 2 127) (fillCode s1 (focusWho s1) false s.team.pc.toNat)) (fun t => t.team.ord.leave.isNone) = true := by
  decide +kernel
theorem witness_ScalarWordRuns_stepping :
    let s := withDebug (atWord tState 0x04082FE0) 4
    let u := standing (withDebug (atWord (withMate 0x00F0000000010000) 0x04082FE0) 4) fun o => { o with leave := some .preempt }
    stepping s = true ∧ isNext (exec (.add 1 2 127) s) (fun t => t.team.card.handle = tHandle && t.team.place.run = 1
        && !t.team.sys.handler && t.team.pc ≠ s.team.pc && matesStepped t) = true
      ∧ u.team.ord.leave ≠ none
      ∧ (let m : State := { s with
          team := { s.team with card := { s.team.card with crew := 2, launch := 7 } }
          others := [{ tTeam with card := { tTeam.card with handle := 0x00F0000000010000, crew := 2, crk := 1, tix := 1, launch := 7 } }] }
         isNext (exec (.add 1 2 127) m) (fun t => t.team.pc ≠ m.team.pc && !matesStepped t) = true) := by decide +kernel
theorem witness_ScalarWordRuns_waits :
    let s := withWords (withLevels tState 1) [0x004000500AE02000003DE000]
    streamWait s.team (.csrr 1 5) = true ∧ waitCancels (.csrr 1 5) = false ∧ waitCancels .cbar = true ∧ cancelled s = true
      ∧ midWord s tHandle = false ∧ fetchScalar (tick (atWord tState 0)) = .word 0 ∧ isOk (decodeS 0) (fun _ => true) = false := by decide +kernel
theorem witness_InstructionFetch :
    let s (pc : Nat) : State := { tState with team := { tTeam with pc := BitVec.ofNat 64 pc } }
    mayAccess tState tState.team.pc.toNat 4 .sx = true ∧ codeLine tState (focusWho tState) false 0x200000 = none
      ∧ gateAt tState (focusWho tState) 0x200000 = .go ∧ (codeLine (withCode tState) (focusWho tState) false 0x200000).isSome = true
      ∧ scalarReady (s (2 ^ 56)) = true ∧ 2 ^ 56 ≤ (s (2 ^ 56)).team.pc.toNat
      ∧ inAperture (2 ^ 56 - 4096) = true ∧ scalarReady (s (2 ^ 56 - 4096)) = true ∧ (s (2 ^ 56 - 4096)).team.pc.toNat < 2 ^ 56
      ∧ inAperture 0x800000 = false ∧ regionAt (s 0x800000) (focusWho (s 0x800000)) 0x800000 = none
      ∧ mayAccess (s 0x210000) 0x210000 4 .sx = true ∧ codeLine (s 0x210000) (focusWho (s 0x210000)) false 0x210000 = none
      ∧ gateAt (s 0x210000) (focusWho (s 0x210000)) 0x210000 = .absent
      ∧ (let u : State := { tState with xl := { tState.xl with regions := sset 0 [] (regionKey 1 1) 0x17 } }
         regionAt u (focusWho u) 0x200000 = some 0x17 ∧ hasRight 0x17 .sx = false) := by decide +kernel
theorem witness_StepRunsLaneWord :
    let s (w : LWord) : State := { withWords tState [w] with agenda := [.lane tHandle] }
    let away := s 0x004000500AE02000003DE000
    let good := withLines away [(10, 0)]
    scalarReady (tick { good with agenda := [] }) = true ∧ good.team.sys.handler = false ∧ good.team.scalarAtom = false
      ∧ good.team.lane.passes = 0 ∧ good.team.lane.skip = 0 ∧ stepping good = false
      ∧ (good.team.lane.queue.map fun e => (overflowed e, linePlan good (runningWord good.team e.word))) = [(false, .run [])]
      ∧ isOk (decodeLFor good.team.card.v 0x004000500AE02000003DE000) (fun _ => true) = true
      ∧ (away.team.lane.queue.map fun e => (overflowed e, linePlan away (runningWord away.team e.word))) = [(false, .fetch (10, 0))]
      ∧ isOk (decodeLFor (s 0).team.card.v 0) (fun _ => true) = false ∧ midWord (inWord good) tHandle = true := by decide +kernel
theorem witness_RegisterLinesNeeded :
    let s (n : Nat) : State := { tState with team := { tTeam with card := { tTeam.card with w := 32 }, regs := { mask := 2 ^ (32 * n) - 1 } } }
    let w : LWord := 0x004000500AE02000003DE000
    (wordRegisters w).all (fun v => (pendingWords (s 2).team).all fun k => holdsLine (withLines (s 2) [(10, 0), (10, 1)]) (v, k)) = true
      ∧ pendingWords (s 0).team = [] ∧ linePlan (s 2) w = .fetch (10, 0) ∧ linePlan (withLines (s 2) [(10, 0)]) w = .run [1] := by decide +kernel
theorem witness_StepRunsHardwareStep :
    let s := withMate 0x00F0000000010000
    ({ s with agenda := [.event .bringUp] } : State).agenda = [.event .bringUp] ∧ 0x00F0000000010000 ≠ s.team.card.handle
      ∧ (s.others.find? fun t => t.card.handle = 0x00F0000000010000).isSome = true ∧ s.agenda = [] ∧ s.fw.phase ≠ 0 ∧ s.team.place.run = 1
      ∧ State.reset.fw.phase = 0 ∧ ({ State.reset with fw := { State.reset.fw with phase := 2 } } : State).team.place.run ≠ 1 := by decide +kernel
theorem witness_StopsAtBoundaries :
    let s : State := { withLevels tState 1 with agenda := [.scalar tHandle] }
    ({ tTeam with place := { run := 3 } } : Team).place.run ≠ 1 ∧ scalarReady s = true ∧ s.team.scalarAtom = false ∧ midWord s tHandle = false
      ∧ (standing s fun o => { o with leave := some .preempt }).team.ord.leave ≠ none
      ∧ (standing s fun o => { o with stepped := true }).team.ord.stepped = true
      ∧ s.team.ord.stops = [] ∧ s.team.ord.later = [] ∧ s.team.ord.load = none
      ∧ cancelled (standing s fun o => { o with ownCancel := true }) = true
      ∧ s.team.ord.ownCancel = false ∧ (standing s fun o => { o with stops := [{ cause := 0x0E }] }).team.ord.stops = [{ cause := 0x0E }]
      ∧ (standing s fun o => { o with haltReq := true }).team.ord.haltReq = true
      ∧ midWord (inWord s) tHandle = true ∧ due (standing (inWord s) fun o => { o with haltReq := true }) = true := by
  decide +kernel

/-- The tests' team with a band size code. -/
def withBandCode (c : Nat) : State := { tState with team := { tTeam with regs := { tTeam.regs with band := BitVec.ofNat 3 c } } }
/-- A word of the tests' team is legal. -/
def legal (op ty md d a b c e : Nat) : Bool := laneLegal tTeam.card.v op (fieldsL ty md d a b c e)

theorem witness_LaneOperands :
    isInt 11 = true ∧ codeFor (fieldsL 0 0 0 5 0x600 0x660 0) 1 < 1536 ∧ codeFor (fieldsL 0 0 0 5 0x600 0x660 0) 2 = 1536
      ∧ codeFor (fieldsL 0 0 0 5 0x600 0x660 0) 3 = 1632 ∧ codeFor (fieldsL 0 0 0 0x7FF 0 0 0) 1 = 2047
      ∧ codeFor (fieldsL 0 0 0 1659 0 0 0) 1 = 1659 ∧ (withWords tState [0]).team.lane.queue.length = 1 := by decide +kernel
theorem witness_LaneIntegerArithmetic :
    laneOf (.vadd (fieldsL 11 1 4 5 6 0 0)) = some (0x001, fieldsL 11 1 4 5 6 0 0) ∧ legal 0x001 11 1 4 5 6 0 0 = true
      ∧ (intNumber (.vadd (fieldsL 11 1 4 5 6 0 0)) (widthOf 11)).isSome = true := by decide +kernel
theorem witness_LaneDivision :
    legal 0x006 0 0 4 5 6 0 0 = true ∧ legal 0x007 0 0 4 5 6 0 0 = true
      ∧ (let s := setV (setV tState 5 [2 ^ 31]) 6 [2 ^ 32 - 1]
         takes s (fieldsL 0 0 4 5 6 0 0) 0 = true ∧ isSigned 0 = true ∧ intOf 0 (readOp s.team (fieldsL 0 0 4 5 6 0 0) 1 0 0) = leastOf 0
          ∧ intOf 0 (readOp s.team (fieldsL 0 0 4 5 6 0 0) 2 0 0) = -1) := by decide +kernel
theorem witness_LaneBitPatterns :
    laneOf (.vxor (fieldsL 15 0 4 5 6 0 0)) = some (0x00E, fieldsL 15 0 4 5 6 0 0) ∧ legal 0x00E 15 0 4 5 6 0 0 = true
      ∧ (bitPattern (.vxor (fieldsL 15 0 4 5 6 0 0)) 32 false).isSome = true ∧ widthOf 15 = 32 ∧ isSigned 15 = false := by decide +kernel
theorem witness_LaneSelect :
    legal 0x019 4 0 4 5 6 7 0 = true ∧ 1632 ≤ codeFor (fieldsL 4 0 4 5 6 1632 0) 3 ∧ legal 0x019 4 0 4 5 6 1632 0 = true
      ∧ takes tState (fieldsL 4 0 4 5 6 7 0) 31 = true ∧ vreg (setV tState 7 [0x80000000]).team 7 0 = 0x80000000 := by decide +kernel
theorem witness_LaneMovesAndCompares :
    legal 0x01B 0 0 4 5 0 0 0 = true ∧ legal 0x01C 2 0 4 2047 2047 1023 0 = true ∧ legal 0x01D 0 3 4 5 6 0 0 = true
      ∧ legal 0x01E 0 0 4 5 0 0 0 = true ∧ legal 0x01E 0 1 4 5 1800 0 0 = true ∧ legal 0x01A 0 5 1632 5 6 0 0 = true
      ∧ takes tState (fieldsL 0 0 4 5 0 0 0) 0 = true ∧ takes tState (fieldsL 0 0 4 5 0 0 0) 32 = false := by decide +kernel
theorem witness_LaneFloatResults :
    let f (ty md : Nat) : LaneFields := fieldsL ty md 4 5 6 7 0
    laneOf (.vfma (f 4 1)) = some (0x084, f 4 1) ∧ legal 0x084 4 1 4 5 6 7 0 = true
      ∧ laneOf (.vfmin (fieldsL 4 0 4 5 6 0 0)) = some (0x087, fieldsL 4 0 4 5 6 0 0) ∧ legal 0x087 4 0 4 5 6 0 0 = true
      ∧ legal 0x08D 6 0 4 5 6 0 0 = true ∧ legal 0x08E 5 3 4 5 0 0 0 = true ∧ legal 0x08C 8 0 4 5 0 0 0 = true
      ∧ legal 0x08B 7 6 1632 5 6 0 0 = true ∧ legal 0x08F 5 1 4 5 6 7 0 = true ∧ legal 0x090 7 15 4 5 6 7 0 = true
      ∧ legal 0x091 9 0 4 5 6 7 0 = true := by decide +kernel
theorem witness_LaneFloatResults_exact :
    (∀ x y z, (floatExact (.vfma (fieldsL 4 1 4 5 6 7 0)) x y z).isSome = true)
      ∧ ∀ x y, (floatPlain (.vfmin (fieldsL 4 0 4 5 6 0 0)) x y).isSome = true := ⟨fun _ _ _ => rfl, fun _ _ => rfl⟩
theorem witness_LaneConversions :
    legal 0x101 0 0 4 5 4 0 0 = true ∧ legal 0x102 7 4 4 5 1536 7 1 = true ∧ legal 0x103 7 0 4 5 1536 0 0 = true
      ∧ legal 0x104 9 1 4 5 6 7 8 = true ∧ legal 0x104 5 0 4 5 6 0 0 = true ∧ legal 0x105 9 7 4 5 6 1536 0 = true
      ∧ legal 0x106 4 0 4 5 0 0 0 = true ∧ legal 0x106 5 3 4 5 0 0 0 = true ∧ legal 0x107 4 0 4 5 0 0 0 = true
      ∧ legal 0x108 4 4 0 5 0 0 3 = true := by decide +kernel
theorem witness_CrossLane :
    1 ≤ (withBandCode 1).team.regs.band.toNat ∧ (withBandCode 5).team.regs.band.toNat ≤ 5 ∧ (withBandCode 5).team.card.v = 64
      ∧ laneOf (.vshfx (fieldsL 4 0 4 5 6 0 0)) = some (0x183, fieldsL 4 0 4 5 6 0 0) ∧ legal 0x183 4 0 4 5 6 0 0 = true
      ∧ legal 0x186 0 0 1632 5 0 0 0 = true ∧ legal 0x186 0 3 4 5 0 0 0 = true ∧ legal 0x187 0 8 4 5 0 0 0 = true
      ∧ legal 0x187 4 0 4 5 0 0 0 = true ∧ legal 0x188 4 2 4 5 0 0 0 = true ∧ legal 0x188 3 5 1540 6 0 0 0 = true
      ∧ legal 0x189 15 0 4 5 0 0 0 = true := by decide +kernel
theorem witness_CrossLane_shuffles : ∀ p y m, (shufflePos (.vshfx (fieldsL 4 0 4 5 6 0 0)) p y m).isSome = true := fun _ _ _ => rfl
theorem witness_MasksAndPredicates :
    let deep : List (Bool × Lanes) := List.replicate 256 (false, 0)
    legal 0x18A 0 1 0 1632 0 0 0 = true ∧ legal 0x18E 0 0 0 0 0 0 0 = true ∧ tState.team.regs.stack.length < 256 ∧ 256 ≤ deep.length
      ∧ legal 0x18B 0 0 0 0 0 0 0 = true ∧ legal 0x18C 0 0 0 0 0 0 0 = true ∧ tState.team.regs.stack = []
      ∧ legal 0x18D 0 1 0 1633 0 0 0 = true
      ∧ ([(false, 1), (true, 3), (false, 7)] : List (Bool × Lanes)) = [(false, 1)] ++ (true, 3) :: [(false, 7)]
      ∧ legal 0x18F 0 4 0 1632 0 0 0 = true ∧ legal 0x18F 0 2 0 0 0 0 0 = true ∧ legal 0x18F 0 1 0 1792 1792 0 0 = true
      ∧ readOp tState.team (fieldsL 0 1 0 1792 1792 0 0) 2 3 0 < tState.team.card.w ∧ tState.team.card.w ≤ 32
      ∧ tState.team.card.w ≤ readOp tState.team (fieldsL 0 1 0 1792 1793 0 0) 2 3 0
      ∧ legal 0x190 0 0 1632 0 0 0 0 = true ∧ legal 0x190 0 1 1540 0 0 0 0 = true ∧ legal 0x190 0 2 1540 0 1792 0 0 = true
      ∧ legal 0x191 0 3 1632 1633 1647 0 0 = true ∧ legal 0x192 0 0 1632 1633 1647 0 0 = true ∧ legal 0x193 0 0 1632 1633 1647 0 0 = true
      ∧ legal 0x194 0 0 1632 1633 0 0 0 = true ∧ legal 0x195 15 0 1632 5 0 0 0 = true := by decide +kernel
/-- The tests' module with a mask stack 33 entries deep. -/
def deepMasks : State := { tState with team := { tTeam with regs := { tTeam.regs with stack := List.replicate 33 (false, 5) } } }
theorem witness_DeepMaskEntries :
    let va := tHandle + 0x1000 + 128
    legal 0x18A 0 1 0 1632 0 0 0 = true ∧ legal 0x18E 0 0 0 0 0 0 0 = true ∧ deepMasks.team.regs.stack.length = 33
      ∧ present deepMasks (hwWho (teamDomain deepMasks deepMasks.team) 0) va 128 = true := by decide +kernel
theorem witness_DeepMaskEntries_places :
    let va := tHandle + 0x1000 + 128
    let w := hwWho (teamDomain deepMasks deepMasks.team) 0
    ∀ i j, i < 128 → j < 128 → placeOf deepMasks w (va + i) = placeOf deepMasks w (va + j) → i = j := by
  have h : (List.range 128).all (fun i => placeOf deepMasks (hwWho (teamDomain deepMasks deepMasks.team) 0) (tHandle + 0x1000 + 128 + i)
      = .dram (48 * 4096 + 0x1000 + 128 + i)) = true := by decide +kernel
  rw [List.all_eq_true] at h
  intro va w i j hi hj he
  have hi' := h i (List.mem_range.2 hi)
  have hj' := h j (List.mem_range.2 hj)
  simp only [decide_eq_true_eq] at hi' hj'
  rw [hi', hj'] at he
  injection he with he
  omega
theorem witness_DeepMaskEntries_memory : deepMasks.memOk := by
  refine ⟨?_, ?_⟩ <;> decide +kernel
theorem witness_LaneAddresses :
    legal 0x201 0 0 4 8 1792 0 0 = true ∧ legal 0x204 0 2 0 1536 1792 1793 4 = true ∧ legal 0x205 0 7 4 1536 1792 6 0 = true
      ∧ legal 0x208 0 5 0 1537 1792 4 0 = true := by decide +kernel

/-- The tests' team with the pair v8 : v9 of each lane at 0x200000 and its lane's multiple of a stride. -/
def atLanes (va stride : Nat) : State := setV tState 8 ((List.range 32).map fun l => va + stride * l)
/-- `vld`, `vst` and `vamo` in a 32-bit type through that pair. -/
def tMem (c e : Nat) (load : Bool) : LaneFields := fieldsL 0 0 (if load then 4 else 0) 8 1792 c e
/-- The first two lanes alone are active. -/
def twoLanes (s : State) : State := { s with team := { s.team with regs := { s.team.regs with mask := 3 } } }

theorem witness_LaneLoads :
    let s := atLanes 0x200000 4
    let u := twoLanes (atLanes 0x20FFFC 4)
    let v := twoLanes (atLanes 0x200002 0x600000)
    legal 0x201 0 0 4 8 1792 0 0 = true ∧ legal 0x203 0 0 4 1536 1792 1792 0 = true ∧ legal 0x205 0 0 4 1536 1792 6 0 = true
      ∧ s.team.lane.again = none ∧ s.team.lane.passes = 0 ∧ s.team.lane.busy = false ∧ s.team.lane.skip = 0 ∧ noStores s = true
      ∧ (∀ l, l ∈ takerList s.team (tMem 0 0 true) → mayAccess s (laneAddr s.team 0x201 (tMem 0 0 true) l) 4 .r = true
          ∧ gateAt s (focusWho s) (laneAddr s.team 0x201 (tMem 0 0 true) l) = .go)
      ∧ ((takerList u.team (tMem 0 0 true)).map fun l => gateAt u (focusWho u) (laneAddr u.team 0x201 (tMem 0 0 true) l)) = [.go, .absent]
      ∧ ((List.range (teamLanes s.team)).filter fun l => (allTakers s.team (tMem 0 0 true)).getLsbD l) = takerList s.team (tMem 0 0 true)
      ∧ (∀ l, l ∈ takerList u.team (tMem 0 0 true) → mayAccess u (laneAddr u.team 0x201 (tMem 0 0 true) l) 4 .r = true)
      ∧ ((takerList v.team (tMem 0 0 true)).map fun l => addrTrap v (focusWho v) (laneAddr v.team 0x201 (tMem 0 0 true) l) 4 .r)
          = [some 7, some 5] := by decide +kernel
theorem witness_LaneStores :
    let s := atLanes 0x200000 4
    legal 0x202 0 2 0 8 1792 4 0 = true ∧ legal 0x204 0 0 0 1536 1792 1792 4 = true ∧ legal 0x206 0 0 0 1536 1792 6 4 = true
      ∧ unbegun s.team ∧ (∀ e, e ∈ s.sb → e.held = false)
      ∧ (∀ l, l ∈ takerList s.team (tMem 4 0 false) →
          mayAccess s (laneAddr s.team 0x202 (tMem 4 0 false) l) 4 .w = true
            ∧ groupTrap s (laneAddr s.team 0x202 (tMem 4 0 false) l) = none)
      ∧ teamShare s s.team.card.handle + (takerList s.team (tMem 4 0 false)).length ≤ 128
      ∧ coreShare s (coreOf s.team) + (takerList s.team (tMem 4 0 false)).length ≤ 512 := by decide +kernel
theorem witness_LocalMemory :
    let s := setV { tState with team := { tTeam with card := { tTeam.card with scount := 8 } } } 5 ((List.range 32).map fun l => 4 * l)
    legal 0x207 0 0 4 5 1792 0 0 = true ∧ legal 0x208 0 0 0 5 1792 4 0 = true ∧ unbegun s.team ∧ s.team.card.crew ≤ 1 ∧ noStores s = true
      ∧ (∀ l, l ∈ takerList s.team (fieldsL 0 0 4 5 1792 0 0) → localTrap s 4 (laneAddr s.team 0x207 (fieldsL 0 0 4 5 1792 0 0) l) = none)
      ∧ ∀ l, l ∈ takerList s.team (fieldsL 0 0 0 5 1792 4 0) → localTrap s 4 (laneAddr s.team 0x208 (fieldsL 0 0 0 5 1792 4 0) l) = none := by
  decide +kernel
theorem witness_LocalMemory_crew :
    let s : State := { tState with
      team := { tTeam with card := { tTeam.card with crew := 2 }, ord := { seq := 1, cover := 1 } }, sb := [{ tStore with seq := 0 }] }
    takes s (fieldsL 0 0 0 5 1792 4 0) 0 = true ∧ 1 < s.team.card.crew ∧ (∀ e, e ∈ s.sb → e.held = false)
      ∧ (s.sb.any fun e => e.team = s.team.card.handle && e.seq < s.team.ord.cover) = true := by decide +kernel
theorem witness_LaneAtomicsAndPrefetch :
    let s := twoLanes (atLanes 0x200000 4)
    let f := tMem 6 0 true
    legal 0x209 0 0 4 8 1792 6 0 = true ∧ legal 0x20A 0 0 0 8 1792 0 0 = true ∧ unbegun s.team ∧ s.fw.lev.state = 0
      ∧ takerList s.team f = [0, 1] ∧ noStores s = true
      ∧ (∀ l, l ∈ takerList s.team f → mayAccess s (laneAddr s.team 0x209 f l) 4 .rw = true
          ∧ kindAt s (tagOf s.team.card.asid (laneAddr s.team 0x209 f l)) (laneAddr s.team 0x209 f l) ≠ 2
          ∧ gateAt s (focusWho s) (laneAddr s.team 0x209 f l) = .go)
      ∧ (∀ l m, l ∈ takerList s.team f → m ∈ takerList s.team f → l ≠ m → ∀ i, i < 4 → ∀ j, j < 4 →
          placeOf s (focusWho s) (laneAddr s.team 0x209 f l + i) ≠ placeOf s (focusWho s) (laneAddr s.team 0x209 f m + j)) := by
  refine ⟨by decide +kernel, by decide +kernel, by decide +kernel, rfl, by decide +kernel, by decide +kernel, by decide +kernel, ?_⟩
  have h : takerList (twoLanes (atLanes 0x200000 4)).team (tMem 6 0 true) = [0, 1] := by decide +kernel
  intro l m hl hm
  simp only [h, List.mem_cons, List.not_mem_nil, or_false] at hl hm
  rcases hl with rfl | rfl <;> rcases hm with rfl | rfl <;> intro hne <;> first | exact absurd rfl hne | decide +kernel

/-- The tests' module with a word supplied by every lane through v4 to v6. -/
def supplied (w : LWord) : State :=
  let part (k : Nat) : List Nat := (List.range 32).map fun _ => w.toNat / 2 ^ (32 * k) % 2 ^ 32
  setV (setV (setV tState 4 (part 0)) 5 (part 1)) 6 (part 2)
/-- The tests' module while an `xiss` runs a word, at one depth or at two. -/
def running (w : LWord) (two : Bool) : State :=
  let b : XissBlock := { words := [(w, 3)], next := 0 }
  { tState with team := { tTeam with lane := { tTeam.lane with xiss1 := some b, xiss2 := if two then some b else none } } }

theorem witness_IssueRegister :
    let f := fieldsL 0 0 0 4 0 0 0
    let w : LWord := 0x004000500AE02000003DE000
    laneLegal tState.team.card.v 0x280 f = true ∧ tState.team.lane.xiss1 = none
      ∧ (takerList ({ tTeam with regs := { tTeam.regs with mask := 0 } } : Team) f) = []
      ∧ takes (supplied w) f 0 = true ∧ supplyReason (supplied w).team 1 w = 0 ∧ supplyReason (supplied 0).team 1 0 ≠ 0
      ∧ ((running w false).team.lane.xiss1.map fun b => b.words[b.next]?) = some (some (w, 3)) ∧ (running w false).team.lane.xiss2 = none
      ∧ ((running w true).team.lane.xiss2.map fun b => b.words[b.next]?) = some (some (w, 3))
      ∧ isOk (decodeLFor 64 w) (fun _ => true) = true ∧ barredOp (laneOpcode w) = false ∧ laneOpcode w ≠ 0x280 := by decide +kernel

/-- The tests' team with what a change makes of its standing. -/
def withOrd (f : Ord → Ord) : State := { tState with team := { tTeam with ord := f tTeam.ord } }
/-- The tests' module with some stores in the late-fault store buffer. -/
def withStores (es : List SbEntry) : State := { tState with sb := es }
/-- A release over the sector above the tests' store, which it covers. -/
def tRelease : SbEntry := { tStore with sector := 0x200040, seq := 2, covers := 2 }

theorem witness_LoadReplies :
    let s (va : Nat) : State := withOrd fun o => { o with load := some va }
    (∀ va, va ∈ [0x200008, 0x210000] → ((teamOf (s va) tHandle).map (·.ord.load)) = some (some va))
      ∧ gateAt (s 0x200008) (whoOf (s 0x200008) (s 0x200008).team) 0x200008 = .go
      ∧ gateAt (s 0x210000) (whoOf (s 0x210000) (s 0x210000).team) 0x210000 = .absent := by decide +kernel
theorem witness_StoreBufferDrains :
    (let s := withStores [tStore]
     s.sb[0]? = some tStore ∧ tStore.held = false ∧ (∀ x, x ∈ s.sb → x.held = false) ∧ gateAt s (entryWho s tStore) tStore.sector = .go
      ∧ kindAt s tStore.asid tStore.sector ≠ 2 ∧ tStore.covers = 0 ∧ (∀ x, x ∈ s.sb → x.marked = false) ∧ tStore.sector % 64 = 0
      ∧ (∀ b, b ∈ tStore.bytes → b.1 < 64) ∧ (tStore.bytes.map (·.1)).Nodup)
    ∧ (let s := withStores [tRelease, tStore]
       s.sb[0]? = some tRelease ∧ (∀ x, x ∈ s.sb → x.held = false) ∧ gateAt s (entryWho s tRelease) tRelease.sector = .go
        ∧ kindAt s tRelease.asid tRelease.sector ≠ 2 ∧ tRelease.marked = false
        ∧ ¬ (tRelease.covers = 0 ∨ ((∀ x, x ∈ s.sb → x.team = tRelease.team → tRelease.covers ≤ x.seq) ∧ owedBy s tRelease.team = false)))
    ∧ (let e : SbEntry := { tStore with sector := 0x210000 }
       (withStores [e]).sb[0]? = some e ∧ e.held = false ∧ gateAt (withStores [e]) (entryWho (withStores [e]) e) e.sector = .absent)
    ∧ tStore.sent = false ∧ tRelease.sent = false ∧ tStore.bytes ≠ [] ∧ (withStores [tStore]).team.ord.kept = []
    ∧ (withStores [tStore]).others = [] := by
  decide +kernel
theorem witness_StoreBufferDrains_window :
    let e : SbEntry := { tStore with sector := 0x600000 }
    let g := withGroup tGroup
    let s : State := { g with sb := [e], xl := { g.xl with pages := g.xl.pages ++ [tPage 1 0x60 96] } }
    s.sb[0]? = some e ∧ (∀ x, x ∈ s.sb → x.held = false) ∧ e.sent = false ∧ s.team.ord.kept = [] ∧ s.others = [] ∧ e.bytes ≠ []
      ∧ gateAt s (entryWho s e) e.sector = .go ∧ kindAt s e.asid e.sector = 2 ∧ sendReady s e = true
      ∧ ((groupOf s (groupAt s e.asid e.sector)).map (·.state)) = some 0 := by decide +kernel
theorem witness_StoreBufferDrainCompletes : (withStores [tStore]).sb[0]? = some tStore ∧ tState.sb[0]? = none := by decide +kernel
theorem witness_ControlWordsInOrder :
    let k : Task := { id := 1, core := 0, team := tHandle, asid := 1, recVa := 0x200000, desc := [], expA := 0, expB := 0, reads := [], writes := [] }
    teamOf (withStores [tStore]) k.team = some (withStores [tStore]).team ∧ k.recVa % 64 = 0
      ∧ (∀ e, e ∈ (withStores [tStore]).sb → e.held = false) ∧ tStore.team = k.team ∧ tStore.asid = tagOf k.asid k.recVa
      ∧ tStore.sector = k.recVa ∧ tStore.sent = false := by decide +kernel
theorem witness_StoreBufferDrains_memory : (withStores [tStore]).memOk := by unfold State.memOk; decide +kernel

/-- The tests' module with an L-word queued, with register lines in its partition's register cache, and a byte at the place of v10 among
the image's format bytes (R337). -/
def withMiss (fmt : Nat) (ls : List HeldLine) : State :=
  let s := withWords tState [0x004000500AE02000003DE000]
  { s with mem := setBytes tState.mem (64 * 4096 + 0x300A) [BitVec.ofNat 8 fmt], cores := { s.cores with lines := ls } }
/-- A register line of the tests' team in a partition. -/
def tLine (part v w : Nat) : HeldLine := { core := 0, part := part, team := tHandle, v := v, w := w }
theorem witness_RegisterMisses :
    let f (s : State) : Nat := (readByte s (hwWho (teamDomain s s.team) 0) (tHandle + 0x1300A)).toNat
    let slot (s : State) : List Byte := readBytes s (hwWho (teamDomain s s.team) 0) (tHandle + 0x13000 + padF 64 1 + 128 * 10) 128
    (∀ n, n ∈ [0, 0xFF] → ((teamOf (withMiss n []) tHandle).map fun x => (x.place.run, x.card.v, x.card.w, x.lane.queue.length)) = some (1, 64, 1, 1)
        ∧ present (withMiss n []) (hwWho (teamDomain (withMiss n []) (withMiss n []).team) 0) (tHandle + 0x1300A) 1 = true
        ∧ present (withMiss n []) (hwWho (teamDomain (withMiss n []) (withMiss n []).team) 0) (tHandle + 0x13000 + padF 64 1 + 128 * 10) 128 = true)
      ∧ (lineOf (f (withMiss 0 [])) (slot (withMiss 0 []))).isSome = true ∧ lineOf (f (withMiss 0xFF [])) (slot (withMiss 0xFF [])) = none
      ∧ (∀ p, p ∈ [0, 2] → (withMiss 0 [tLine p 10 0]).cores.lines.find? (fun y => y.core = 0 && y.team = tHandle && y.v = 10 && y.w = 0)
          = some (tLine p 10 0))
      ∧ (tLine 0 10 0).part = tState.team.place.part ∧ (tLine 2 10 0).part ≠ tState.team.place.part := by
  decide +kernel
theorem witness_RegisterMisses_full :
    let ls := (List.replicate 3071 (tLine 0 5 1)) ++ [{ tLine 0 5 1 with team := 1, dirty := true }]
    ((withMiss 0 ls).cores.lines.filter fun y => y.core = 0 && y.part = 0).length = 3072
      ∧ (ls.all fun y => y.v ≠ 10) = true ∧ (ls.any fun y => !y.dirty) = true
      ∧ (ls.any fun y => (teamOf (withMiss 0 ls) y.team).isNone) = true := by decide +kernel
theorem witness_BoundaryEvents :
    let a := withOrd fun o => { o with stops := [{ cause := 0x12 }] }
    let b := withOrd fun o => { o with haltReq := true }
    (∀ s, s ∈ [a, b] → (teamOf s tHandle).isSome = true ∧ s.team.place.run = 1 ∧ midWord s tHandle = false ∧ s.team.ord.leave = none
        ∧ s.team.ord.ownCancel = false ∧ s.team.ord.kept = [] ∧ s.others = [])
      ∧ a.team.ord.stops = [{ cause := 0x12 }] ∧ b.team.ord.stops = [] ∧ b.team.ord.haltReq = true
      ∧ crewOf (focus b tHandle) b.team = [tHandle] ∧ b.eng.tasks = [] := by decide +kernel

/-- The tests' team and a saved team of its core that can be resumed. -/
def withSaved : State :=
  { tState with others := [{ tTeam with
      card := { tTeam.card with handle := tHandle + 0x100000, lcount := 0, launch := 9 }, place := { run := 2 } }] }
theorem witness_SliceExpiry :
    let c := withLevels tState 1
    let v := withLevels (withOrd fun o => { o with haltReq := true }) 0
    let u := withLevels tState 0
    let w := withLevels withSaved 0
    let far := withOrd fun o => { o with load := some 0x210000 }
    (teamOf c tHandle).isSome = true ∧ c.team.place.run = 1 ∧ midWord c tHandle = false ∧ midWord (inWord c) tHandle = true
      ∧ c.team.ord.leave = none ∧ cancelling c c.team = true
      ∧ far.team.ord.load = some 0x210000 ∧ gateAt far (whoOf far far.team) 0x210000 = .absent ∧ cancelling far far.team = false
      ∧ (teamOf v tHandle).isSome = true ∧ v.team.place.run = 1 ∧ cancelling v v.team = false ∧ v.team.ord.haltReq = true
      ∧ (teamOf u tHandle).isSome = true ∧ cancelling u u.team = false ∧ u.team.ord.haltReq = false ∧ u.team.ord.load = none
      ∧ waitedFor (focus u tHandle) u.team = false
      ∧ (teamOf w tHandle).isSome = true ∧ cancelling w w.team = false ∧ w.team.ord.stops = [] ∧ w.team.ord.load = none
      ∧ waitedFor (focus w tHandle) w.team = true ∧ crewOf (focus w tHandle) w.team = [tHandle] ∧ w.eng.tasks = [] := by decide +kernel
theorem witness_CancelAndYield_waited : waitedFor (advance withSaved) (advance withSaved).team = true ∧ cancelled withSaved = false := by decide +kernel
theorem witness_CrewsLeaveTogether :
    let crew (l : Option Leave) : State := { tState with
      team := { tTeam with card := { tTeam.card with crew := 2, launch := 7 }, ord := { leave := some .preempt } }
      others := [{ tTeam with card := { tTeam.card with handle := tHandle + 0x10000, crew := 2, crk := 1, tix := 1, launch := 7 }, ord := { leave := l } }] }
    let s := crew (some (.halt 0x1D))
    (∀ k, k ∈ crewOf s s.team → midWord s k = false ∧ ((teamOf s k).map fun y => y.ord.leave.isSome) = some true)
      ∧ (crewOf s s.team).Nodup ∧ (crewOf s s.team).length = 2
      ∧ (crewOf (inWord s) (inWord s).team).any (fun k => midWord (inWord s) k) = true := by decide +kernel
theorem witness_TeamsAreResumed :
    let x := (withSaved.others.head?).getD {}
    teamOf withSaved x.card.handle = some x ∧ x.place.run = 2 ∧ partLoad (liveTeams withSaved) 0 0 2 < 8
      ∧ crewResumes withSaved x = true ∧ savedBefore withSaved x = false ∧ newBefore withSaved x = false
      ∧ (∀ y, y ∈ withSaved.team :: withSaved.others → y.ord.kept = []) := by decide +kernel
/-- The tests' module with the levels of its team's launch numbered as they are created, each one part short of its total. -/
def inOrder (s : State) : State :=
  { s with
    team := { s.team with card := { s.team.card with launch := 4, job := 1 } }
    sched := { s.sched with levels := s.sched.levels.map fun l =>
      { l with id := 5 - l.id, parent := if l.parent = 0 then 0 else 5 - l.parent, done := l.total - 1 } } }
theorem witness_TeamsRetire :
    let s := withLevels (withOrd fun o => { o with ending := true }) 0
    let u := inOrder s
    (∀ z, z ∈ [s, u] → teamOf z tHandle = some z.team ∧ z.team.place.run = 1 ∧ z.team.ord.ending = true ∧ z.team.ord.stops = []
        ∧ z.team.ord.leave = none ∧ z.fab.copies = [] ∧ z.team.lane.queue = [] ∧ z.eng.copies = [] ∧ z.eng.tasks = [] ∧ z.sb = []
        ∧ z.link.groups.all (fun r => !groupOwes r tHandle) = true)
      ∧ ((levelRec s s.team.card.launch).map fun l => (l.state, l.done, l.total)) = some (0, 0, 2)
      ∧ ((levelRec u u.team.card.launch).map fun l => (l.kind, l.state, l.done, l.total)) = some (0, 0, 1, 2) ∧ levelsRise u = true := by
  decide +kernel

/-- A record of 128 bytes with fields, each a byte offset, a number of bytes and a value. -/
def cardBytes (fs : List (Nat × Nat × Nat)) : List Byte :=
  fs.foldl (fun b f => b.take f.1 ++ toBytes f.2.1 f.2.2 ++ b.drop (f.1 + f.2.1)) (List.replicate 128 0)
/-- A launch card of one team in ASID 1, whose image is the tests' handle (R377), as the first lap of a queue's slot. -/
def launchBytes (node : Nat) : List Byte := cardBytes
  [(2, 2, 1), (6, 2, node), (0x18, 8, 0x200F40), (0x20, 8, 0x400000), (0x30, 4, 256), (0x38, 8, 0x200000), (0x40, 8, tHandle), (0x4C, 4, 1),
    (0x50, 8, tHandle + 0x100000), (0x58, 8, 0x200800), (0x6A, 2, 64), (0x70, 1, 64), (0x7C, 4, 1)]
/-- A card of the tests' job from the tests' queue. -/
def tCard (slot standing level : Nat) (bs : List Byte) : Card :=
  { id := { queue := tQueue.id, slot := slot }, job := 4, bytes := bs, standing := standing, level := level }
/-- The tests' job with its queue and some cards. -/
def withCards (cs : List Card) : State :=
  let s := withLevels tState 0
  { s with sched := { s.sched with queues := [tQueue], cards := cs } }
/-- The module with no team, and the image's region for supervisor accesses alone. -/
def noTeam (s : State) : State :=
  { s with
    team := {}
    xl := { s.xl with regions := sset 0 s.xl.regions (regionKey 0 (regionNo tHandle)) (tRegion 0 ||| BitVec.ofNat 64 (2 ^ 35)) } }

/-- The header of the tests' context image (R335): version 1, W, V, ASID 1, and the fault area. -/
def withHeader (s : State) : State :=
  { s with mem := setBytes s.mem (48 * 4096) (toBytes 4 1 ++ toBytes 2 (2 ^ 8) ++ toBytes 2 64 ++ toBytes 8 1 ++ toBytes 8 (tHandle + 0x100000)) }

theorem witness_TeamsArePlaced :
    let c := tCard 0 1 1 (launchBytes 0)
    let s := withHeader (noTeam (withCards [c]))
    (readyPool s).find? (fun c => c.level = 1) = some c ∧ queueOf s c.id.queue = some tQueue ∧ 0 ∈ unplaced c
      ∧ clusterAllowed s c 0 0 = true ∧ [5].length = c.crewCores ∧ (∀ x, x ∈ [5] → x < 16)
      ∧ (∀ j, j < c.crewCores → coreFits s (liveTeams s) c 0 0 ([5].getD j 0) (crewShare c j) = true)
      ∧ earlierFits s c 0 = false ∧ savedFirst s tQueue.prio 0 [5] = false ∧ c.crewSize = 1
      ∧ headerOk s (clusterRec s 0).domain tQueue c 0 = true ∧ imageOk s (clusterRec s 0).domain (c.image 0) (imageSize c.regs c.words) = true
      ∧ placeOf s (hwWho (clusterRec s 0).domain 0) (c.image 0 + 4) ≠ .absent := by decide +kernel
theorem witness_TeamsArePlaced_memory : (withHeader (noTeam (withCards [tCard 0 1 1 (launchBytes 0)]))).memOk := by unfold State.memOk; decide +kernel

/-- The tests' queue with a card in its first slot. -/
def withSlot (bs : List Byte) : State := { withCards [] with mem := setBytes [] (32 * 4096 + 256) bs }
theorem witness_CardsAreFetched :
    let go (s : State) : Bool := (rangeTrap s (queueWho s tQueue) 0x400100 256 .r).isNone && present s (queueWho s tQueue) 0x400100 256
      && gateRange s (queueWho s tQueue) 0x400100 256 = .go
    let card (s : State) : Card := tCard 0 0 0 (readBytes s (queueWho s tQueue) 0x400100 128)
    let s (node : Nat) := withSlot (launchBytes node)
    let far : Queue := { tQueue with ring := 0x600000 }
    let u : State := { withCards [] with sched := { (withCards []).sched with queues := [far] } }
    queueOf (s 0) tQueue.id = some tQueue ∧ tQueue.status < 2 ∧ tQueue.kind ≠ 2 ∧ tQueue.sealat = none ∧ openCards (s 0) tQueue.id < 1024
      ∧ (s 0).fw.lev.state = 0 ∧ slotVa tQueue 0 = 0x400100
      ∧ queueOf u tQueue.id = some far ∧ (rangeTrap u (queueWho u far) (slotVa far 0 / 256 * 256) 256 .r).isSome = true
      ∧ go (withSlot []) = true ∧ field (card (withSlot [])).bytes 0x7C 4 ≠ 1
      ∧ (∀ n, n ∈ [0, 1] → go (s n) = true ∧ field (card (s n)).bytes 0x7C 4 = (0 / 2 ^ 2 + 1) % 2 ^ 32
          ∧ ((levelRec (s n) 4).map (·.state)) = some 0 ∧ cardDropped (s n) (card (s n)) = false)
      ∧ cardRefusal (s 0) tQueue (card (s 0)) = none ∧ (card (s 0)).kind < 2 ∧ cardRefusal (s 1) tQueue (card (s 1)) = some 3 := by
  decide +kernel
theorem witness_CardsAreFetched_drops :
    let card (s : State) : Card := tCard 0 0 0 (readBytes s (queueWho s tQueue) 0x400100 128)
    let s := withSlot (launchBytes 0)
    let d : State := { s with sched := { s.sched with levels := s.sched.levels.map fun l => if l.kind = 1 then { l with state := 2 } else l } }
    let k := withSlot (cardBytes [(0, 1, 2), (2, 2, 1), (0x7C, 4, 1)])
    cardRefusal d tQueue (card d) = none ∧ cardDropped d (card d) = true ∧ lateRefusal d tQueue (card d) = none
      ∧ ((levelRec d 4).map (·.state)) = some 0 ∧ cardRefusal k tQueue (card k) = none ∧ cardDropped k (card k) = false
      ∧ lateRefusal k tQueue (card k) = some 9 := by decide +kernel
theorem witness_GraphsOpen :
    let s := withLevels tState 0
    let shut : State := { s with sched := { s.sched with levels := s.sched.levels.map fun l => { l with opened := false } } }
    let mate : Level := { kind := 1, id := 9, parent := 3, number := 1, total := 1, opened := true }
    let two : State := { shut with sched := { shut.sched with levels := shut.sched.levels ++ [mate] } }
    (∀ u, u ∈ [shut, two] → ((graphLevel u 4 0).map fun g => (g.id, g.parent, g.state, g.opened)) = some (2, 3, 0, false)
        ∧ ((levelRec u 3).map fun p => (p.number, p.parent, p.state)) = some (0, 4, 0) ∧ ((levelRec u 4).map (·.state)) = some 0)
      ∧ (∀ l, l ∈ shut.sched.levels → ¬ (l.kind = 1 ∧ l.parent = 3 ∧ l.id ≠ 2))
      ∧ mate ∈ two.sched.levels ∧ mate.kind = 1 ∧ mate.parent = 3 ∧ mate.id ≠ 2 ∧ 0 ≤ mate.number ∧ mate.opened = true ∧ mate.state < 2
      ∧ earlierGraphDue shut 4 0 = false := by
  decide +kernel
theorem witness_GraphsOpen_order :
    let s := withCards [tCard 0 0 0 (launchBytes 0)]
    let u : State := { s with sched := { s.sched with
      levels := s.sched.levels.map fun l =>
        if l.kind = 1 then { l with number := 1, opened := false } else if l.kind = 2 then { l with total := 2 } else l } }
    ((graphLevel u 4 1).map fun g => (g.id, g.parent, g.state, g.opened)) = some (2, 3, 0, false) ∧ earlierGraphDue u 4 1 = true
      ∧ ((levelRec u 3).map fun p => (p.number, p.parent, p.state)) = some (0, 4, 0) ∧ ((levelRec u 4).map (·.state)) = some 0
      ∧ (s.sched.cards.all fun c => c.job = 4 && c.graph = 0 && c.standing = 0 && c.kind ≠ 3 && c.preds = []) = true
      ∧ levelsRise (inOrder s) = true := by decide +kernel
theorem witness_NodesStart :
    let n : NodeId := { job := 4, graph := 0, node := 1 }
    let c (kind : Nat) : Card := tCard 1 0 0 ((launchBytes 1).set 0 (BitVec.ofNat 8 kind) |>.set 9 0x80)
    let s (kind : Nat) : State := withCards [tCard 0 2 0 (launchBytes 0), c kind]
    (∀ k, k ∈ [0, 1] → nodeCard (s k) n = some (c k) ∧ ((graphLevel (s k) 4 0).map fun g => (g.state, g.opened)) = some (0, true)
        ∧ queueOf (s k) (c k).id.queue = some tQueue ∧ (c k).standing = 0 ∧ (c k).preds = [0] ∧ (c k).kind = k
        ∧ ((nodeCard (s k) { n with node := 0 }).map (·.standing)) = some 2 ∧ (c k).handoffs = [(0x400000, 256)]
        ∧ handoffOk (s k) (queueWho (s k) tQueue) (0x400000, 256) = true ∧ ∀ x, x ∈ (s k).sched.cards → x.kind ≠ 2)
      ∧ (c 0).teams ≠ 0 ∧ ∀ i, i < 8 → kindAt (s 0) (tagOf 1 (0x200F40 + i)) (0x200F40 + i) ≠ 3 := by decide +kernel

/-- The tests' job with a started tile-task node that names the tests' team and its record. -/
def withNode (run : Nat) (r : List Byte) : State :=
  let s := withLevels (putMem withTask 0x200400 r) 0
  { s with
    team := { s.team with place := { s.team.place with run := run } }
    sched := { s.sched with
      queues := [tQueue], cards := [tCard 0 1 0 (cardBytes [(0, 1, 1), (2, 2, 1), (0x38, 8, 0x200400), (0x40, 8, tHandle)])] } }
theorem witness_TileTaskNodes :
    let n : NodeId := { job := 4, graph := 0, node := 0 }
    let ok (s : State) : Bool := (nodeCard s n).any fun c => c.kind = 1 && c.standing = 1 && decide (queueOf s c.id.queue = some tQueue)
      && (field c.bytes 0x38 8 = 0x200400) && (teamOf s (field c.bytes 0x40 8) = some s.team) && s.team.card.job = c.job
    let a := withNode 1 tRecord
    let b := withNode 1 (tRecord.set 0x30 0x9B)
    (∀ run, run ∈ [2, 3] → ok (withNode run tRecord) = true ∧ cancelling (withNode run tRecord) (withNode run tRecord).team = false)
      ∧ ok a = true ∧ a.eng.tasks = [] ∧ cancelling a a.team = false ∧ a.team.place.run = 1
      ∧ mayAccess (focus a tHandle) 0x200400 64 .rw = true ∧ isOk (teamRead (focus a tHandle) 0x200400 64) (· = tRecord) = true
      ∧ taskReason tRecord = none
      ∧ (∀ x, x ∈ tilesOf (readRanges tRecord) → x ∉ tilesOf (rowRanges tRecord 2))
      ∧ (∀ y, y ∈ readRanges tRecord ++ rowRanges tRecord 2 → inWindow a.team y.1 = true ∧ inWindow a.team (y.1 + y.2 - 1) = true)
      ∧ (∀ y, y ∈ tilesOf (readRanges tRecord) ++ tilesOf (rowRanges tRecord 2) →
          (tileRec a 0 y).owner = 2 ∧ (tileRec a 0 y).flip = none ∧ (tileRec a 0 y).readers ≠ 255)
      ∧ (coreTaskList a 0).length < 64
      ∧ ok b = true ∧ isOk (teamRead (focus b tHandle) 0x200400 64) (fun r => taskReason r ≠ none) = true := by decide +kernel
theorem witness_QueuesEnd :
    let q : Queue := { tQueue with dropping := true, sealat := some 0, status := 1 }
    let s := withCards []
    let u : State := { s with sched := { s.sched with queues := [q], levels := s.sched.levels.map fun l => { l with state := 2 } } }
    queueOf u tQueue.id = some q ∧ q.dropping = true ∧ q.status ≠ 3 ∧ ((levelRec u q.job).map (·.state)) = some 2
      ∧ openCards u tQueue.id = 0 ∧ q.sealat = some 0 ∧ 0 ≤ q.head := by decide +kernel

/-- An accepted task of the tests' team over a record. -/
def tTask (id : Nat) (running : Bool) (r : List Byte) : Task where
  id := id
  core := 0
  team := tHandle
  asid := 1
  recVa := 0x200400
  desc := r
  expA := 0
  expB := 0
  reads := [0, 1]
  writes := [4, 5, 6, 7]
  running := running
/-- The tests' module with some accepted tasks. -/
def withTasks (ks : List Task) : State := { withTask with eng := { withTask.eng with tasks := ks } }
/-- The record with a control word of redundant mode (R268). -/
def tRedundant : List Byte := tRecord.take 0x38 ++ toBytes 8 (31 + 3 * 2 ^ 32)
/-- The record with two chunks of K. -/
def tTwoChunks : List Byte := tRecord.take 0x38 ++ toBytes 8 (63 + 2 ^ 32)

theorem witness_MatrixEngines :
    let s (ks : List Task) : State := withTasks ks
    let w : Who := { core := 0, domain := 0, asid := 1, sup := true, team := tHandle }
    taskOf (s [tTask 0 false tRecord]) 0 = some (tTask 0 false tRecord) ∧ clocked (s []) 0 = true
      ∧ teamRuns (s [tTask 0 false tRecord]) tHandle = true
      ∧ busyEngines (s [tTask 0 false tRecord]) 0 + (if redundant tRecord then 2 else 1) ≤ 4
      ∧ ((coreTaskList (s [tTask 0 false tRecord]) 0).takeWhile fun y => y.id ≠ 0) = []
      ∧ ((coreTaskList (s [tTask 0 true tRecord, tTask 1 false tRecord]) 0).takeWhile fun y => y.id ≠ 1) = [tTask 0 true tRecord]
      ∧ 4 ∈ (tTask 0 true tRecord).writes ∧ 4 ∈ (tTask 1 false tRecord).writes
      ∧ taskOf (s [tTask 0 true tTwoChunks]) 0 = some (tTask 0 true tTwoChunks) ∧ redundant tTwoChunks = false
      ∧ (tTask 0 true tTwoChunks).progress + 1 ≠ taskSteps tTwoChunks
      ∧ taskOf (s [tTask 0 true tRecord]) 0 = some (tTask 0 true tRecord) ∧ redundant tRecord = false
      ∧ (tTask 0 true tRecord).progress + 1 = taskSteps tRecord ∧ (tTask 0 true tRecord).node = none
      ∧ (tTask 0 true tRecord).reads.Nodup ∧ 0x200400 % 64 = 0 ∧ (clusterRec (s []) 0).domain = 0
      ∧ gateAt (s [tTask 0 true tRecord]) w 0x200400 = .go ∧ kindAt (s [tTask 0 true tRecord]) (tagOf 1 0x200400) 0x200400 ≠ 2
      ∧ (s []).sb = [] ∧ owedBy (s []) tHandle = false
      ∧ taskOf (s [tTask 0 true tRedundant]) 0 = some (tTask 0 true tRedundant) ∧ redundant tRedundant = true
      ∧ teamOf (s [tTask 0 true tRedundant]) tHandle = some withTask.team ∧ withTask.team.place.run = 1 := by decide +kernel
theorem witness_MatrixEngines_memory : (withTasks [tTask 0 true tRecord]).memOk := by unfold State.memOk; decide +kernel
/-- The elements of C of those records lie apart: at 0x4000, in rows of 256 B. -/
theorem witness_MatrixEngines_places : ∀ r, r = tRecord ∨ r = tTwoChunks ∨ r = tRedundant →
    let la (m n : Nat) : Nat := lmAddr 0 (operandLa (operandOf r 2 0) (64 * (0 / chunks r / outCols r) + m) 0
      (4 * (64 * (0 / chunks r % outCols r) + n)))
    ∀ m n m' n', m < 64 → n < 64 → m' < 64 → n' < 64 → ¬ (m = m' ∧ n = n') → la m n + 4 ≤ la m' n' ∨ la m' n' + 4 ≤ la m n := by
  have h : ∀ r, r ∈ [tRecord, tTwoChunks, tRedundant] → ∀ m, m < 64 → ∀ n, n < 64 →
      lmAddr 0 (operandLa (operandOf r 2 0) (64 * (0 / chunks r / outCols r) + m) 0 (4 * (64 * (0 / chunks r % outCols r) + n)))
        = 0x4000 + 256 * m + 4 * n := by decide +kernel
  intro r hr la m n m' n' hm hn hm' hn' hne
  have hr' : r ∈ [tRecord, tTwoChunks, tRedundant] := by simpa using hr
  have h1 : la m n = _ := h r hr' m hm n hn
  have h2 : la m' n' = _ := h r hr' m' hm' n' hn'
  rw [h1, h2]; omega

/-- A copy template (R287) with its fields as offset, bytes and value. -/
def tmplBytes (fs : List (Nat × Nat × Nat)) : List Byte := cardBytes fs
/-- Whether every access meets nothing. -/
def allGo (ms : List Met) : Bool := ms.all (· = .go)
/-- A copy of four words from 0x200A00, by its template and the base of its source. -/
def tJob (tmpl : List Byte) (src : Nat) (f : CopyJob → CopyJob) : CopyJob :=
  f { tCopy 0 1 with tmpl := tmpl, src := shapeRec 0 4 src 4 1 0x200D00, dst := shapeRec 0 0 0x200B00 4 1 0 }
/-- The tests' module with that copy and tile 2 owned by the copy engine. -/
def withJob (c : CopyJob) : State :=
  { tState with eng := { tState.eng with copies := [c] }, tiles := sset {} [] 2 { owner := 1 } }

/-- A group request that stores a byte in the window of group 3. -/
def tReq (src number : Nat) : GroupReq where
  group := 3
  src := src
  number := number
  team := tHandle
  asid := 1
  op := .store [(0x600010, 7), (0x600011, 8)]
/-- The tests' module as a member of a group, with a page of its window mapped and module 7 reached on port 1. -/
def asMember (g : Group) (f : Link → Link) : State :=
  let s := withGroup g
  { s with
    xl := { s.xl with pages := s.xl.pages ++ [tPage 1 0x60 96] }
    link := f { s.link with routes := sset 0 [] 7 0x8001, ports := sset {} [] 1 { role := 1, up := true } } }

theorem witness_CopyRows :
    let gather := tmplBytes [(0, 1, 1), (0x1C, 4, 4), (0x20, 8, 0x200C00)]
    let near := tmplBytes [(2, 1, 2), (0x18, 4, 0x2000)]
    let far := tmplBytes []
    let a := tJob gather 0x200A00 id
    let b := tJob near 0x200A00 id
    let c := tJob far 0x200A00 id
    let d := tJob far 0x210000 id
    let els (j : CopyJob) : List (Int × Int) := rowOffsets (templateOf j.tmpl) j.arg j.index (shapeOf j.src) (shapeOf j.dst) j.row
    let src0 (e : Int × Int) : Nat := toBits 56 (elemByte 32 0x200A00 e.1)
    let dst0 (e : Int × Int) : Nat := toBits 56 (elemByte 32 0x200B00 e.2)
    let la (e : Int × Int) : Nat := (elemByte 32 0x2000 e.2).toNat
    (∀ j, j ∈ [a, b, c, d] → copyOf (withJob j) 0 = some j ∧ copyMayRun (withJob j) j = true ∧ j.row = 0 ∧ j.index = []
        ∧ (shapeOf j.src).bits = 32 ∧ (shapeOf j.dst).bits = 32 ∧ (shapeOf j.src).scaled = false)
      ∧ (templateOf gather).kind ≠ 0 ∧ 0 < (templateOf gather).icount ∧ engineMeets (withJob a) (copyWho (withJob a) a) 0x200C00 16 .r = .go
      ∧ (∀ j, j ∈ [b, c, d] → (templateOf j.tmpl).kind = 0 ∧ 0 < rowsOf (templateOf j.tmpl) (shapeOf j.dst)
          ∧ rowInRange (templateOf j.tmpl) j.index (shapeOf j.src) (shapeOf j.dst) j.row = true ∧ (els j).length = 4)
      ∧ (templateOf near).isLocal = true ∧ (shapeOf b.src).base = 0x200A00 ∧ (templateOf near).dla = 0x2000
      ∧ (∀ e, e ∈ els b → engineMeets (withJob b) (copyWho (withJob b) b) (src0 e) 4 .r = .go
          ∧ sectorOpen (withJob b) 0 (la e / 64) = true)
      ∧ ((els b).all fun e => !skips b (templateOf near) (shapeOf b.dst) e) = true
      ∧ (els b).Pairwise (fun e f => la e + 4 ≤ la f ∨ la f + 4 ≤ la e)
      ∧ (templateOf far).isLocal = false ∧ (shapeOf c.dst).base = 0x200B00
      ∧ (∀ e, e ∈ els c → engineMeets (withJob c) (copyWho (withJob c) c) (src0 e) 4 .r = .go
          ∧ engineMeets (withJob c) (copyWho (withJob c) c) (dst0 e) 4 .w = .go ∧ kindAt (withJob c) (tagOf 1 (dst0 e)) (dst0 e) ≠ 2)
      ∧ rowMeets (withJob d) d (templateOf far) (shapeOf d.src) (shapeOf d.dst) (els d) [] = .fault 0x210000 1
      ∧ rowBlocks (templateOf far) d.arg d.index (shapeOf d.src) (shapeOf d.dst) d.row = []
      ∧ ((teamOf (withJob d) d.team).map (·.place.run)) = some 1 := by decide +kernel
theorem witness_CopyRows_index :
    let gather := tmplBytes [(0, 1, 1), (0x1C, 4, 4), (0x20, 8, 0x200C00)]
    let a := tJob gather 0x200A00 fun c => { c with index := [100, 100, 100, 100] }
    copyOf (withJob a) 0 = some a ∧ copyMayRun (withJob a) a = true ∧ (templateOf gather).icount ≤ a.index.length
      ∧ a.row < rowsOf (templateOf gather) (shapeOf a.dst)
      ∧ rowInRange (templateOf gather) a.index (shapeOf a.src) (shapeOf a.dst) a.row = false
      ∧ ((teamOf (withJob a) a.team).map (·.place.run)) = some 1 := by decide +kernel
/-- The places of the source and of the destination of the third of those copies. -/
theorem witness_CopyRows_places :
    let c := tJob (tmplBytes []) 0x200A00 id
    let s := withJob c
    let els := rowOffsets (templateOf c.tmpl) c.arg c.index (shapeOf c.src) (shapeOf c.dst) c.row
    let place (va : Nat) : Where := placeOf s (copyWho s c) va
    let src0 (e : Int × Int) : Nat := toBits 56 (elemByte 32 0x200A00 e.1)
    let dst0 (e : Int × Int) : Nat := toBits 56 (elemByte 32 0x200B00 e.2)
    els.Pairwise (fun e f => ∀ i, i < 4 → ∀ j, j < 4 → place (dst0 e + i) ≠ place (dst0 f + j))
      ∧ (∀ e, e ∈ els → ∀ i, i < 4 → ∀ j, j < 4 → i ≠ j → place (dst0 e + i) ≠ place (dst0 e + j))
      ∧ (∀ e, e ∈ els → ∀ f, f ∈ els → ∀ i, i < 4 → ∀ j, j < 4 → place (src0 e + i) ≠ place (dst0 f + j)) := by decide +kernel
theorem witness_CopyRows_memory :
    (withJob (tJob (tmplBytes []) 0x200A00 id)).memOk ∧ (withJob (tJob (tmplBytes [(2, 1, 2), (0x18, 4, 0x2000)]) 0x200A00 id)).memOk := by
  unfold State.memOk; decide +kernel
theorem witness_CopyCompletion :
    let tm := tmplBytes [(2, 1, 5), (0x30, 8, 0x200E00), (0x38, 8, 3)]
    let c := tJob tm 0x200A00 fun c => { c with moved := true }
    let plain := tJob (tmplBytes []) 0x200A00 fun c => { c with moved := true }
    let s (digest : List Byte) : State := putMem (withJob c) 0x200D00 digest
    (∀ b, b ∈ [sha256 [], List.replicate 32 1] → copyOf (s b) 0 = some c ∧ c.moved = true ∧ c.paused = false
        ∧ tagOwed (s b) 0 = false ∧ c.added = false ∧ c.unread = false ∧ ((teamOf (s b) c.team).map (·.place.run)) = some 1 ∧ (shapeOf c.src).digest = 0x200D00
        ∧ (templateOf tm).digested = true ∧ engineMeets (s b) (copyWho (s b) c) 0x200D00 32 .r = .go
        ∧ (templateOf tm).counted = true ∧ (templateOf tm).counter = 0x200E00
        ∧ engineMeets (s b) (copyWho (s b) c) 0x200E00 8 .rw = .go ∧ readBytes (s b) (copyWho (s b) c) 0x200D00 32 = b
        ∧ (s b).fw.lev.state = 0 ∧ kindAt (s b) (tagOf 1 0x200E00) 0x200E00 ≠ 2 ∧ (teamOf (s b) c.team).isSome = true)
      ∧ sha256 c.hashed = sha256 [] ∧ sha256 [] ≠ List.replicate 32 1
      ∧ copyOf (withJob plain) 0 = some plain ∧ (templateOf plain.tmpl).digested = false ∧ (templateOf plain.tmpl).counted = false := by
  decide +kernel
theorem witness_CopyCompletion_window :
    let tm := tmplBytes [(2, 1, 4), (0x30, 8, 0x600000), (0x38, 8, 3)]
    let c := tJob tm 0x200A00 fun c => { c with moved := true, unread := true }
    let d := tJob tm 0x200A00 fun c => { c with moved := true, added := true }
    let s : State := { asMember tGroup id with eng := { tState.eng with copies := [c] } }
    copyOf s 0 = some c ∧ c.paused = false ∧ tagOwed s 0 = false ∧ c.unread = true ∧ (templateOf tm).counted = true
      ∧ (templateOf tm).digested = false ∧ engineMeets s (copyWho s c) 0x600000 8 .rw = .go
      ∧ kindAt s (tagOf 1 0x600000) 0x600000 = 2 ∧ (groupOf s (groupAt s (tagOf 1 0x600000) 0x600000)).isSome = true
      ∧ copyOf (withJob d) 0 = some d ∧ d.added = true ∧ tagOwed (withJob d) 0 = false ∧ (withJob d).fw.lev.state = 0 := by decide +kernel

/-- A rank's collective outstanding: an all-gather of four words over two ranks, into local memory from tile 3 on. -/
def tGather (f : Coll → Coll) : Coll :=
  f { id := 0, cluster := 0, core := 0, team := tHandle, asid := 1, group := 3, issue := 1, rank := 0, ranks := [0, 1], descVa := 0x200500
      desc := toBytes 8 (2 ^ 24 + 3 * 2 ^ 32) ++ toBytes 8 0x200600 ++ toBytes 8 0 ++ toBytes 8 0x3000 ++ toBytes 8 4096 ++ toBytes 24 0
      src := shapeRec 0 0 0x200A00 4 1 0, dst := [], hash := { kind := 0, op := 0, fmt := 0, elems := 4, root := 0, ranks := [0, 1] } }
/-- The tests' module with that collective and its group. -/
def withGather (c : Coll) : State :=
  let s := withLevels tState 0
  { lmWrite s 0 0x1000 (toBytes 8 0 ++ toBytes 8 2) with
    eng := { s.eng with colls := [c] }
    link := { s.link with groups := [tGroup] }
    tiles := [3, 4].foldl (fun m k => sset {} m k { owner := 3 }) [] }
/-- The tile of rank 1 that arrives for it. -/
def tTile (elems : Nat) : CollTile where
  group := 3
  issue := 1
  rank := 0
  slot := 1
  tile := 0
  data := List.replicate 16 9
  hash := { kind := 0, op := 0, fmt := 0, elems := elems, root := 0, ranks := [0, 1] }

theorem witness_CollectiveEngine :
    let a := tGather id
    let b := tGather fun c => { c with sent := 1, inbox := [(0, 0, List.replicate 16 1)], written := [(0, 0)], slotDone := [0] }
    let d := tGather fun c => { c with
      desc := toBytes 8 (3 * 2 ^ 24 + 3 * 2 ^ 32) ++ c.desc.drop 8 |>.set 0x25 0x10, written := [(1, 0)] }
    (collOf (withGather a) 0 = some a ∧ a.paused = false ∧ a.sent < a.reads ∧ sealed (withGather a) = false
        ∧ ∀ i, i < 4 → engineMeets (withGather a) (collWho (withGather a) a)
            (toBits 56 (elemByte 32 0x200A00 (offsetAt (shapeOf a.src).strides (tupleOf (shapeOf a.src).dims i)))) 4 .r = .go)
      ∧ ((withGather a).eng.colls.find? (fun c => c.group = 3 && c.issue = 1 && c.rank = 0)) = some a
      ∧ (tTile 5).hash ≠ a.hash ∧ a ∈ (withGather a).eng.colls ∧ a.group = 3 ∧ a.issue = 1 ∧ groupOf (withGather a) 3 = some tGroup ∧ tGroup.state ≠ 1 ∧ (teamOf (withGather a) a.team).isSome = true
      ∧ (tTile 4).hash = b.hash ∧ (tTile 4).data ≠ [] ∧ ((withGather b).eng.colls.find? (fun c => c.group = 3 && c.issue = 1 && c.rank = 0))
          = some b ∧ collOf (withGather b) 0 = some b
      ∧ (∀ e, e ∈ b.inbox → ¬ (e.1 = 1 ∧ e.2.1 = 0)) ∧ b.hash.kind = 0 ∧ b.writes = true ∧ (collDesc b.desc).isLocal = true
      ∧ b.done = false ∧ b.closed = [] ∧ (withGather b).eng.colls = [b] ∧ slotReady (withGather b) b = none ∧ 1 ≠ b.slot ∧ tilesWritten b b.slot = b.slotTiles ∧ 0 = tilesWritten b 1 ∧ 0 < min b.perTile (b.slotSize - 0)
      ∧ (∀ e, e ∈ b.inbox → e.1 = b.slot) ∧ (collDesc b.desc).dst + 1 * (collDesc b.desc).dstride = 0x4000
      ∧ (∀ k, k ∈ rangeTiles [(0x4000, packedBytes 32 4)] → (tileRec (withGather b) 0 k).owner = 3 ∧ (tileRec (withGather b) 0 k).readers = 0)
      ∧ collOf (withGather d) 0 = some d ∧ d.paused = false ∧ (collDesc d.desc).queued = true ∧ (collDesc d.desc).queue = 0x1000
      ∧ d.written[d.appended.length]? = some (1, 0) ∧ (withGather d).fw.lev.state = 0 ∧ nextOut d = none
      ∧ (qheader (withGather d) 0 0x1000).ok = true ∧ (qheader (withGather d) 0 0x1000).used < 2 ^ (qheader (withGather d) 0 0x1000).lcap
      ∧ (tileRec (withGather d) 0 1).owner = 0 ∧ (0x1000 + 16 + 8 * ((qheader (withGather d) 0 0x1000).tail % 4)) / 4096 = 1 := by
  decide +kernel
theorem witness_CollectiveEngine_memory : (withGather (tGather id)).memOk := by unfold State.memOk; decide +kernel

theorem witness_GroupStamps :
    let far := asMember { tGroup with root := 5 } id
    let near (x : DedupSource) : State := asMember { tGroup with sources := [x] } id
    let g (s : State) : Group := (groupOf s 3).getD tGroup
    (g far).root ≠ far.link.moduleId ∧ 7 ≠ far.link.moduleId ∧ (groupOf far 3).isSome = true
      ∧ (∀ x, x ∈ [({ src := 7 } : DedupSource), { src := 7, high := 1, window := [(1, 9)] }] →
          (groupOf (near x) 3).isSome = true ∧ (g (near x)).root = (near x).link.moduleId ∧ sourceOf (g (near x)) 7 = x
            ∧ (g (near x)).state = 0 ∧ (g (near x)).kept.length < 65536 ∧ (near x).fw.lev.state = 0 ∧ x.held = [])
      ∧ (tReq 7 1).number = 0 + 1 ∧ 0 + 1 < (tReq 7 3).number ∧ (tReq 7 3).number ≤ 0 + 4096 ∧ (tReq 7 1).number ≤ 1
      ∧ ([(1, 9)] : List (Nat × Nat)).find? (·.1 = (tReq 7 1).number) = some ((tReq 7 1).number, 9) := by decide +kernel
theorem witness_GroupRecovery :
    let reply (l : Link) : Link := { l with replies := [(0, 3, 1, 5)] }
    let a := asMember tGroup reply
    let b := asMember { tGroup with waiting := [tReq 0 0] } reply
    let out (k : Nat) : State := asMember { tGroup with outstanding := [(tReq 0 2, k)] } id
    let c := asMember { tGroup with kept := [(1, tReq 7 1)], nextStamp := 2 } id
    let g (s : State) : Group := (groupOf s 3).getD tGroup
    (∀ s, s ∈ [a, b, out 3, out 16, c] → (groupOf s 3).isSome = true ∧ (g s).state = 0 ∧ (g s).root = s.link.moduleId ∧ sealed s = false)
      ∧ (0, 3, 1, 5) ∈ a.link.replies ∧ (g a).waiting = [] ∧ (0, 3, 1, 5) ∈ b.link.replies ∧ (g b).waiting = [tReq 0 0]
      ∧ ((g b).outstanding.filter fun x => x.1.number ≠ 1).length < 4096
      ∧ (∀ k, k ∈ [3, 16] → (g (out k)).outstanding.find? (fun x => x.1.number = 2) = some (tReq 0 2, k))
      ∧ 7 ≠ c.link.moduleId ∧ reachable c 7 = true ∧ max 0 (reportOf (g c) 7).1 < 1 ∧ 7 ∈ groupMembers c (g c)
      ∧ (1, tReq 7 1) ∈ (g c).kept ∧ (reportOf (g c) 7).1 < 1 ∧ (reportOf (g c) 7).2 < 16 := by decide +kernel
theorem witness_StampedRequests :
    let sent (n : Nat) (q : GroupReq) : State := asMember tGroup fun l => { l with stamped := [(0, n, q)] }
    let store := tReq 7 1
    let atomic : GroupReq := { tReq 0 1 with op := .atomic 0x600010 0 1 3 0 }
    let s := sent 1 store
    let u : State := { sent 1 atomic with team := { tTeam with ord := { atoms := [{ key := 1024, group := 3 }] } } }
    let g (s : State) : Group := (groupOf s 3).getD tGroup
    (∀ z, z ∈ [s, u, sent 2 store, sent 0 store] → (groupOf z 3).isSome = true ∧ (g z).root = z.link.moduleId ∧ (g z).applied = 0
        ∧ (g z).early = [] ∧ z.sb = [] ∧ z.fw.lev.state = 0)
      ∧ (0, 1, store) ∈ s.link.stamped ∧ (0, 1, atomic) ∈ u.link.stamped ∧ (0, 2, store) ∈ (sent 2 store).link.stamped
      ∧ (0, 0, store) ∈ (sent 0 store).link.stamped
      ∧ (∀ b, b ∈ [0x600010, 0x600011] → placeOf s (windowWho s (g s) b) b ≠ .absent)
      ∧ placeOf s (windowWho s (g s) 0x600010) 0x600010 ≠ placeOf s (windowWho s (g s) 0x600011) 0x600011
      ∧ 0x600010 % (kindOfCode 1).bytes = 0 ∧ 3 < 256 ^ (kindOfCode 1).bytes ∧ 0 < 256 ^ (kindOfCode 1).bytes
      ∧ placeOf u (windowWho u (g u) 0x600010) 0x600010 ≠ .absent ∧ atomic.src = u.link.moduleId
      ∧ ((teamOf u atomic.team).map (·.ord.atoms)) = some ([] ++ { key := 1024, group := 3 } :: []) := by decide +kernel
theorem witness_StampedRequests_own :
    let own := tReq 0 1
    let o : State := { asMember tGroup fun l => { l with stamped := [(0, 1, own)] } with
      sb := [{ tStore with sector := 0x600000, bytes := [(0x10, 7), (0x11, 8)], sent := true }] }
    (groupOf o 3).isSome = true ∧ (0, 1, own) ∈ o.link.stamped ∧ own.src = o.link.moduleId ∧ (∀ e, e ∈ o.sb → e.marked = false)
      ∧ (o.sb.map fun e => (e.sent, e.team, e.asid, e.bytes.map fun b => (e.sector + b.1, b.2)))
          = [(true, own.team, own.asid, [(0x600010, 7), (0x600011, 8)])] := by decide +kernel
theorem witness_StampedRequests_memory : (asMember tGroup id).memOk := by unfold State.memOk; decide +kernel

/-- A message of cluster 0 about a sector of ASID 1. -/
def tMsg (va : Nat) : BusMsg := { cluster := 0, asid := 1, va := va }
/-- The tests' module with copies of the sector at 0x200000 as (holder, state) and its home bits. -/
def withHolders (cs : List (Nat × Moesi)) (owner shared : Bool) : State :=
  { tState with fab := { tState.fab with
      copies := cs.map fun c => { holder := c.1, asid := 1, sec := 0x200000, st := c.2 }
      homes := [{ asid := 1, sec := 0x200000, owner := owner, shared := shared }] } }

theorem witness_CoherenceMessages :
    let m := tMsg 0x200010
    let ss : List (State × Moesi × Bool × Bool) := [(tState, .I, false, false), (withHolders [(1, .E)] true false, .I, true, false),
      (withHolders [(0, .S), (1, .S)] false true, .S, false, true), (withHolders [(0, .E)] true false, .E, true, false),
      (withHolders [(0, .O), (1, .S)] true true, .O, true, true), (withHolders [(0, .M)] true false, .M, true, false)]
    ∀ x, x ∈ ss → msgTaken x.1 m = true ∧ snooped (kindAt x.1 1 m.va) = true ∧ m.cluster < 64
      ∧ (x.1.fab.copies.map fun c => (c.holder, c.asid, c.sec)).Nodup ∧ copyState x.1 0 1 0x200000 = x.2.1
      ∧ homeBits x.1 1 0x200000 = (x.2.2.1, x.2.2.2) ∧ slotVictim x.1 0 (1, 0x2000) = none ∧ markedSector x.1 1 0x200000 = false := by
  decide +kernel
theorem witness_CoherenceMessages_stash :
    let m : BusMsg := { tMsg 0x200010 with stash := some 0 }
    let s := withHolders [(0, .E)] true false
    let k : State := { tState with sb := [{ tStore with marked := true }] }
    msgTaken s m = true ∧ snooped (kindAt s 1 m.va) = true ∧ copyState s 64 1 0x200000 = .I ∧ homeBits s 1 0x200000 = (true, false)
      ∧ msgTaken k m = true ∧ markedSector k 1 0x200000 = true := by decide +kernel

theorem length_filter_split {α : Type} (p : α → Bool) : ∀ l : List α, l.length = (l.filter p).length + (l.filter fun x => !p x).length
  | [] => rfl
  | a :: l => by
    have := length_filter_split p l
    cases h : p a <;> simp [h] <;> omega
/-- Among more than K × N numbers that a function sends below K, more than N are sent to one of them. -/
theorem crowded (f : Nat → Nat) (n : Nat) : ∀ (k : Nat) (l : List Nat), (∀ x, x ∈ l → f x < k) → k * n < l.length →
    ∃ j, n < (l.filter fun x => f x = j).length := by
  intro k
  induction k with
  | zero =>
    intro l h hl
    cases l with
    | nil => simp at hl
    | cons x xs => exact absurd (h x (by simp)) (by omega)
  | succ k ih =>
    intro l h hl
    by_cases hk : n < (l.filter fun x => f x = k).length
    · exact ⟨k, hk⟩
    · have hs := length_filter_split (fun x => decide (f x = k)) l
      obtain ⟨j, hj⟩ := ih (l.filter fun x => !decide (f x = k))
        (fun x hx => by
          have hx' := List.mem_filter.1 hx
          have := h x hx'.1
          simp at hx'; omega)
        (by rw [Nat.succ_mul] at hl; omega)
      exact ⟨j, Nat.lt_of_lt_of_le hj (List.Sublist.length_le (List.filter_sublist.filter _))⟩

theorem eraseDups_of_nodup {α : Type} [BEq α] [LawfulBEq α] : ∀ l : List α, l.Nodup → l.eraseDups = l
  | [], _ => rfl
  | a :: l, h => by
    have h' := List.nodup_cons.1 h
    rw [List.eraseDups_cons, List.filter_eq_self.2 fun b hb => by
      simp only [Bool.not_eq_true', beq_eq_false_iff_ne]; exact fun e => h'.1 (e ▸ hb), eraseDups_of_nodup l h'.2]

/-- The tests' module with some lines of ASID 1 in cluster 0's cache and an ordinary region about another line. -/
def withCacheLines (i : Nat) (js : List Nat) : State :=
  { tState with
    fab := { tState.fab with copies := js.map fun j => { holder := 0, asid := 1, sec := 256 * j, st := .E } }
    xl := { tState.xl with regions := sset 0 tState.xl.regions (regionKey 1 (regionNo (256 * i))) (tRegion 0) } }
/-- A slice of a cluster cache that is full, whichever slice the free choice gives its lines, and a message about a line that it does
not hold. -/
theorem witness_CoherenceMessages_full : ∃ (s : State) (m : BusMsg) (v : Nat × Nat), msgTaken s m = true
    ∧ snooped (kindAt s m.asid m.va) = true ∧ m.cluster < 64 ∧ (s.fab.copies.map fun c => (c.holder, c.asid, c.sec)).Nodup
    ∧ m.stash = none ∧ copyState s m.cluster m.asid (m.va / 64 * 64) = .I ∧ slotVictim s m.cluster (m.asid, m.va / 256) = some v := by
  obtain ⟨top, ht⟩ : ∃ top, 12 * Config.sliceLines < top := ⟨_, Nat.lt_succ_self _⟩
  obtain ⟨k, hk⟩ := crowded (fun i => sliceOf (1, i)) Config.sliceLines 12 (List.range top)
    (fun x _ => Nat.mod_lt _ (by decide)) (by simpa using ht)
  generalize hl : (List.range top).filter (fun i => sliceOf (1, i) = k) = l at hk
  have hn : l.Nodup := hl ▸ List.nodup_range.filter _
  have hm : ∀ j, j ∈ l → sliceOf (1, j) = k := fun j hj => by rw [← hl] at hj; simpa using (List.mem_filter.1 hj).2
  match l, hk, hn, hm with
  | i :: j :: js, hk, hn, hm =>
    have hi : i ∉ j :: js := (List.nodup_cons.1 hn).1
    have hn' : (j :: js).Nodup := (List.nodup_cons.1 hn).2
    have h1 : 256 * i / 64 * 64 = 256 * i := by omega
    have h2 : 256 * i / 256 = i := by omega
    refine ⟨withCacheLines i (j :: js), tMsg (256 * i), (1, j), rfl, ?_, Nat.zero_lt_succ _, ?_, rfl, ?_, ?_⟩
    · simp [withCacheLines, tMsg, kindAt, tableEntry]; decide
    · rw [withCacheLines, List.map_map]
      exact List.Pairwise.map _ (fun a b hab he => hab (by simp [Function.comp] at he; omega)) hn'
    · rw [copyState, show (tMsg (256 * i)).va = 256 * i from rfl, h1, List.find?_eq_none.2]
      intro c hc
      obtain ⟨x, hx, rfl⟩ := List.mem_map.1 hc
      have : x ≠ i := fun e => hi (e ▸ hx)
      simp [tMsg]; omega
    · have hc : cacheLines (withCacheLines i (j :: js)) 0 = (j :: js).map fun x => (1, x) := by
        rw [cacheLines, show (withCacheLines i (j :: js)).hand = [] from rfl]
        simp only [withCacheLines, List.filter_map, List.map_map, List.filter_nil, List.map_nil, List.append_nil]
        have he : ∀ x : Nat, 256 * x / 256 = x := fun x => by omega
        have hp : ((j :: js).map fun x => (1, x)).Nodup := List.Pairwise.map _ (fun a b hab he => hab (Prod.mk.inj he).2) hn'
        simp only [Function.comp_def, he, decide_true, List.filter_eq_self.2 fun _ _ => rfl]
        exact eraseDups_of_nodup _ hp
      have hf : ((j :: js).map fun x => (1, x)).filter (fun x => sliceOf x = sliceOf (1, i)) = (j :: js).map fun x => (1, x) := by
        refine List.filter_eq_self.2 fun x hx => ?_
        obtain ⟨y, hy, rfl⟩ := List.mem_map.1 hx
        simp [hm y (List.mem_cons_of_mem _ hy), hm i (List.mem_cons_self ..)]
      have hlen : ¬ (withCacheLines i (j :: js)).fab.copies.length + (withCacheLines i (j :: js)).hand.length
          + 8192 * (windowRegions (withCacheLines i (j :: js))).length < Config.sliceLines := by
        refine Nat.not_lt.2 (Nat.le_trans ?_ (Nat.le_add_right _ _))
        simp only [withCacheLines, List.length_map, show tState.hand.length = 0 from rfl]
        simp only [List.length_cons] at hk ⊢; omega
      have hno : ((j :: js).map fun x => (1, x)).contains (1, i) = false := by
        rw [List.contains_eq_mem, decide_eq_false_iff_not, List.mem_map]
        rintro ⟨x, hx, he⟩
        exact hi ((Prod.mk.inj he).2 ▸ hx)
      have hfull : ¬ ((j :: js).map fun x => (1, x)).length + replicaLines (withCacheLines i (j :: js)) (1, i) < Config.sliceLines := by
        refine Nat.not_lt.2 (Nat.le_trans ?_ (Nat.le_add_right _ _))
        simp only [List.length_map, List.length_cons] at hk ⊢; omega
      have hloose : ((j :: js).map fun x => (1, x)).filter (fun x : Nat × Nat => x.1 ≠ 2 ^ 14) = (j :: js).map fun x => (1, x) := by
        refine List.filter_eq_self.2 fun x hx => ?_
        obtain ⟨y, _, rfl⟩ := List.mem_map.1 hx
        simp
      rw [show (tMsg (256 * i)).va = 256 * i from rfl, h2, slotVictim, if_neg hlen,
        show (tMsg (256 * i)).cluster = 0 from rfl, show (tMsg (256 * i)).asid = 1 from rfl, hc]
      dsimp only
      rw [hf, hno, Bool.false_or, if_neg (by simpa using hfull), hloose, show (withCacheLines i (j :: js)).fab.strm = [] from rfl]
      rw [List.find?_eq_none.2 fun _ _ => by simp]
      rfl

/-- The tests' module with a broadcast window at 0x800000 (R89). -/
def withWindow : State :=
  { tState with xl := { tState.xl with
      regions := sset 0 tState.xl.regions (regionKey 1 4) (tRegion 1), pages := tState.xl.pages ++ [tPage 1 0x80 112] } }
theorem witness_DataMessages :
    let m := tMsg 0x200000
    let u := tMsg 0x800000
    let w : Who := { hwWho (clusterRec withWindow 0).domain 1 with core := 0 * 16 }
    let a : UpdAtomic := { aop := 0, wide := false, f32 := false, off := 16, operand := 3, compare := 0 }
    let late : State := { tState with fab := { tState.fab with evicts := [(1, 0x200000)] } }
    msgTaken tState m = true ∧ snooped (kindAt tState 1 m.va) = true ∧ markedSector tState 1 0x200000 = false ∧ tState.sb = [] ∧ tagOf 1 0x200000 = 1
      ∧ placeOf tState (hwWho (clusterRec tState 0).domain 1) 0x200000 ≠ .absent
      ∧ msgTaken withWindow u = true ∧ kindAt withWindow 1 u.va = 1
      ∧ (∀ b, b ∈ [(3 : Nat), 255] → b < 256 ∧ placeOf withWindow w (0x800000 + b) ≠ .absent) ∧ [(3 : Nat), 255].Nodup
      ∧ a.off % 4 = 0 ∧ a.off < 256 ∧ a.operand.toNat < 256 ^ 4 ∧ a.compare.toNat < 256 ^ 4
      ∧ placeOf withWindow w (0x800000 + a.off) ≠ .absent
      ∧ (1, 0x200000) ∉ tState.fab.evicts ∧ (1, 0x200000) ∈ late.fab.evicts ∧ late.hostp.flips = []
      ∧ kindAt withCopies 1 0x400000 = 3 ∧ whereIs withCopies (clusterRec withCopies 0).domain 1 0x400000 = .dram (32 * 4096)
      ∧ ((handCopy withCopies 0 (32 * 4096)).map (·.dirty)) = some true := by decide +kernel
theorem witness_DataMessages_memory : withWindow.memOk := by unfold State.memOk; decide +kernel
theorem witness_RegionWalks :
    let c (e : BitVec 64) : CachedRegion := { core := 0, asid := 1, rn := 1, entry := e }
    let s (e : BitVec 64) : State := { tState with xl := { tState.xl with walks := [c e] } }
    (s (tRegion 0)).xl.walks = c (tRegion 0) :: [] ∧ eValid (c (tRegion 0)).entry.toNat = true
      ∧ (s 0).xl.walks = c 0 :: [] ∧ eValid (c 0).entry.toNat = false := by decide +kernel

/-- A packet for a module. -/
def tPacket (dst : Nat) : Packet := { dst := dst, src := 9, gen := 0, number := 4, kind := 1, body := [] }
/-- A flit with a hop sequence and an acknowledgement, the only one of a packet for a module, and the same with its CRC. -/
def tFlit (hseq hack : Nat) (dst : Nat) : Flit where
  hseq := hseq
  hack := hack
  chan := 0
  first := true
  last := true
  payload := packetBytes (tPacket dst)
  crc := 0
def sealFlit (f : Flit) : Flit := { f with crc := flitCrc f }
/-- The tests' module with a record of port 1, port 2 up, a route to module 7 on port 2 and one to module 6 on port 3, which is down. -/
def withPort (p : Port) (f : Link → Link) : State :=
  { tState with link := f { tState.link with
      ports := sset {} (sset {} (sset {} [] 1 p) 2 { role := 1, up := true }) 3 { role := 1 }
      routes := sset 0 (sset 0 [] 7 0x8002) 6 0x8003 } }
/-- A module port that is up and keeps two flits. -/
def tPort : Port := { role := 1, up := true, expect := 5, buffer := [tFlit 8 0 7, tFlit 9 0 7] }

theorem witness_LinkTraffic :
    let s := withPort tPort id
    let host := withPort { tPort with role := 2 } id
    let full : State := { s with link := { s.link with ports := sset {} s.link.ports 2 { role := 1, up := true, waiting := [(0, tPacket 7)] } } }
    let train (fails : Nat) : State := withPort { role := 1, training := true, fails := fails } id
    let x (dst : Nat) : Packet := packetOf (fit 64 (tFlit 5 8 dst).payload)
    portRec s 1 = tPort ∧ tPort.role ≠ 0 ∧ tPort.up = true ∧ tPort.waiting = [] ∧ (portRec host 1).role = 2
      ∧ (tFlit 5 8 0).hseq = tPort.expect ∧ (tFlit 5 8 0).last = true ∧ (tFlit 5 8 0).chan ≤ 4 ∧ (x 0).dst = s.link.moduleId
      ∧ ({ tFlit 5 8 7 with last := false } : Flit).last = false
      ∧ tPort.buffer = [tFlit 8 0 7] ++ [tFlit 9 0 7] ∧ ([tFlit 8 0 7].getLast?).map (·.hseq) = some (tFlit 5 8 0).hack
      ∧ (∀ x, x ∈ tPort.buffer → x.hseq ≠ (tFlit 5 3 0).hack) ∧ (x 7).dst = 7 ∧ 7 ≠ s.link.moduleId
      ∧ routePort s 7 = some 2 ∧ (portRec s 2).up = true ∧ (portRec s 2).waiting = []
      ∧ (portRec s 2).buffer.length + (16 + (x 7).body.length + 63) / 64 ≤ 2048 ∧ (portRec s 2).nextSend < 4096
      ∧ routePort full 7 = some 2 ∧ (portRec full 2).up = true ∧ (portRec full 2).waiting ≠ [] ∧ portRec full 1 = tPort
      ∧ (x 4).dst = 4 ∧ routePort s 4 = none ∧ (x 6).dst = 6 ∧ routePort s 6 = some 3 ∧ (portRec s 3).up = false
      ∧ (tFlit 6 8 0).hseq ≠ tPort.expect ∧ tPort.asked < 15 ∧ 15 ≤ ({ tPort with asked := 15 } : Port).asked
      ∧ (portRec (withPort { tPort with replays := 15 } id) 1).replays = 15 ∧ (portRec s 1).replays < 15
      ∧ (∀ k, k ∈ [0, 3] → (portRec (train k) 1).training = true ∧ (train k).link.change = none ∧ (portRec (train k) 1).fails = k
          ∧ (portRec (train k) 1).waiting = []) := by
  decide +kernel
/-- Flits with their CRC, and one without: sealing changes nothing else of a flit. -/
theorem witness_LinkTraffic_crc : ∀ f : Flit,
    (sealFlit f).crc = flitCrc (sealFlit f) ∧ ({ f with crc := 2 ^ 64 } : Flit).crc ≠ flitCrc { f with crc := 2 ^ 64 }
      ∧ sealFlit f = { f with crc := (sealFlit f).crc } := by
  intro f
  refine ⟨rfl, fun h => ?_, rfl⟩
  have : flitCrc { f with crc := 2 ^ 64 } < 2 ^ 64 := Nat.mod_lt _ (by decide)
  exact absurd h (Nat.ne_of_gt this)
/-- A topology change at a step. -/
def tChange (step : Nat) : Topology where
  step := step
  limit := 9
  card := { queue := { cluster := 0, index := 0 }, slot := 0 }
  msg := [1]
  table := []
theorem witness_TopologyChanges :
    let quiet (n : Nat) : State := withPort { role := 1, up := true } fun l => { l with change := some (tChange n) }
    let full := withPort tPort fun l => { l with change := some (tChange 1) }
    let last := withPort { role := 1, training := true } fun l => { l with change := some (tChange 4) }
    let released := withPort tPort fun l => { l with change := some (tChange 5) }
    (∀ n, n ∈ [1, 3] → (quiet n).link.change = some (tChange n))
      ∧ (∀ n, n ∈ modulePorts (quiet 1) → (portRec (quiet 1) n).buffer = [] ∧ (portRec (quiet 1) n).waiting = [])
      ∧ released.link.change = some (tChange 5)
      ∧ (quiet 1).link.groups = [] ∧ 1 ∈ modulePorts full ∧ (portRec full 1).buffer ≠ [] ∧ full.link.change = some (tChange 1)
      ∧ modulePorts (quiet 3) ≠ [] ∧ last.link.change = some (tChange 4) ∧ (portRec last 1).role ≠ 0 ∧ (portRec last 1).training = true
      ∧ (∀ n, n ∈ modulePorts last → n ≠ 1 → (portRec last n).training = false) := by decide +kernel

/-- The tests' module with a biased page of a host-coherent region at 0xC00000 and an adapter attached. -/
def withHost (f : HostPorts → HostPorts) : State :=
  { tState with
    xl := { tState.xl with
      regions := sset 0 tState.xl.regions (regionKey 1 6) (tRegion 4)
      pages := tState.xl.pages ++ [{ tPage 1 0xC0 128 with biased := true }] }
    hostp := f { tState.hostp with adapters := [(4, 1)] } }
/-- A host request of that adapter in that page. -/
def tHost : HostReq := { adapter := 1, dpa := 128 * 4096 + 64 }
/-- A flip of that page's first granule. -/
def tFlip (toHost : Bool) : Flip :=
  { granule := 128, toHost := toHost, card := { queue := { cluster := 0, index := 0 }, slot := 0 }, waiting := if toHost then [] else [1] }
theorem witness_HostRequests :
    let s := withHost id
    let known : State := { s with fab := { s.fab with homes := [{ asid := 1, sec := 0xC00040, owner := true, shared := false }],
                                                       copies := [{ holder := 0, asid := 1, sec := 0xC00040, st := .M }] } }
    let flip : State := { withHost (fun h => { h with flips := [tFlip true] }) with
      fab := { s.fab with evicts := [(1, 0xC00040)] } }
    let p : PageEntry := { tPage 1 0xC0 128 with biased := true }
    hostTarget s { tHost with adapter := 0 } = none ∧ hostTarget s { tHost with dpa := 16 * 4096 } = none
      ∧ (∀ z, z ∈ [s, known, flip] → hostTarget z tHost = some (p, 0xC00040)) ∧ s.hostp.flips = []
      ∧ homeBits known 1 0xC00040 ≠ (false, false) ∧ homeBits s 1 0xC00040 = (false, false)
      ∧ (known.fab.copies.map fun c => (c.holder, c.asid, c.sec)).Nodup ∧ (List.replicate 64 (3 : Byte)).length = 64 ∧ tHost.dpa % 64 = 0
      ∧ flip.hostp.flips.find? (fun f => f.granule = tHost.dpa / 4096) = some (tFlip true) ∧ (tFlip true).toHost = true
      ∧ (1, 0xC00040) ∈ flip.fab.evicts ∧ (∀ z, z ∈ [s, known, flip] → markedSector z 1 0xC00040 = false)
      ∧ (let back := withHost fun h => { h with flips := [tFlip false] }
         hostTarget back tHost = some (p, 0xC00040) ∧ markedSector back 1 0xC00040 = false
           ∧ back.hostp.flips.find? (fun f => f.granule = tHost.dpa / 4096) = some (tFlip false) ∧ (tFlip false).toHost = false
           ∧ ({ tHost with adapter := 0 } : HostReq).adapter ∉ (tFlip false).waiting)
      ∧ (let m : State := { s with sb := [{ tStore with sector := 0xC00040, marked := true }] }
         hostTarget m tHost = some (p, 0xC00040) ∧ markedSector m 1 0xC00040 = true) := by decide +kernel
/-- The tests' module with a far page at 0x210000 in adapter 1's memory (R419). -/
def withFar (f : HostPorts → HostPorts) : State :=
  let s := withHost f
  { s with xl := { s.xl with pages := s.xl.pages ++ [{ tPage 1 0x21 0 with far := some (1, 0x50000, 0, 0) }] } }
theorem witness_HostAnswers :
    let s := withFar id
    let r : HostReq := { adapter := 1, dpa := 0x50080 }
    let fill := withFar fun h => { h with farFills := [(1, 0x210080)] }
    let line : Snoop := { adapter := 1, blk := false, place := 2049 }
    let none_ : State := let s := withHost fun h => { h with snoops := [line] }
      { s with xl := { s.xl with hostBias := [128] } }
    let back := withHost fun h => { h with snoops := [{ adapter := 1, blk := true, place := 128 }], flips := [tFlip false] }
    let out := withHost fun h => { h with flips := [{ tFlip true with held := [{ kind := 0, req := tHost, data := [] }] }] }
    attached s 0 = false ∧ attached s 1 = true ∧ farTarget s { r with dpa := 0 } = none ∧ ((farTarget s r).map fun x => markedSector s x.1.asid (x.2 / 64 * 64)) = some false
      ∧ (s.fab.copies.map fun c => (c.holder, c.asid, c.sec)).Nodup
      ∧ ((pageOf fill 1 0x210090).map (·.far)) = some (some (1, 0x50000, 0, 0)) ∧ (1, 0x210090 / 64 * 64) ∈ fill.hostp.farFills
      ∧ fill.posted = [] ∧ none_.posted = [] ∧ none_.hostp.flips = [] ∧ line ∈ none_.hostp.snoops
      ∧ none_.hostp.snoops.filter (· ≠ line) = [] ∧ line.place / 16 ∈ none_.xl.hostBias ∧ back.posted = []
      ∧ (let m : State := { s with sb := [{ tStore with sector := 0x210080, marked := true }] }
         ((farTarget m r).map fun x => (x.1.asid, x.2 / 64 * 64)) = some (1, 0x210080) ∧ markedSector m 1 0x210080 = true)
      ∧ tFlip false ∈ back.hostp.flips ∧ (tFlip false).granule = 128 ∧ (tFlip false).toHost = false ∧ (∀ a, a ∈ (tFlip false).waiting → a = 1)
      ∧ s.hostp.flips.find? (fun f => f.toHost && !granuleBusy s f.granule) = none
      ∧ out.hostp.flips.find? (fun f => f.toHost && !granuleBusy out f.granule)
          = some { tFlip true with held := [{ kind := 0, req := tHost, data := [] }] }
      ∧ tHost.dpa / 4096 = (tFlip true).granule ∧ hostTarget out tHost ≠ none := by decide +kernel

/-- The device queue, with a region of its own for the tests' commands. -/
def tDevice : Queue where
  id := { cluster := 0, index := 0 }
  kind := 2
  openPost := false
  job := 0
  asid := 0
  prio := 7
  ring := tHandle + 0x8000
  k := 2
/-- The first card of the device queue. -/
def tId : CardId := { queue := tDevice.id, slot := 0 }
/-- A command card with its opcode and operands; its result word is at the tests' handle + 0x7000. -/
def cmdBytes (op : Nat) (fs : List (Nat × Nat × Nat)) : List Byte :=
  cardBytes ([(0, 1, 2), (1, 1, 7), (0x38, 2, op), (0x40, 8, tHandle + 0x7000)] ++ fs)
/-- A state whose device queue holds one command. -/
def asked (s : State) (op : Nat) (fs : List (Nat × Nat × Nat)) : State :=
  { s with sched := { s.sched with
      queues := s.sched.queues ++ [tDevice], cards := [{ id := tId, job := 0, bytes := cmdBytes op fs }] } }
/-- The command of such a state has its turn, and its reserved bits are zero. -/
def asks (s : State) (op : Nat) : Bool :=
  match cmdOf s tId op with
  | some (c, q) => operandsOk c && decide (q.id = tDevice.id) && q.kind = 2
  | none => false
/-- The card of such a state. -/
def theCard (s : State) : Card := (cardOf s tId).getD { id := tId, job := 0, bytes := [] }

theorem witness_CommandResults :
    let s := asked tState 0x0A [(0x50, 8, 0x123000)]
    let bad := asked tState 0x0A [(0x50, 8, 0x123000), (0x70, 1, 1)]
    let busy : State := { asked tState 0x23 [] with link := { tState.link with state := 2 } }
    let node : Card := tCard 0 1 0 (cardBytes [(0, 1, 2), (2, 2, 1), (0x38, 2, 0x0A), (0x40, 8, 0x200F50)])
    let g := withCards [node]
    cmdOf tState tId 0x0A = none ∧ asks s 0x0A = true ∧ (cmdOf bad tId 0x0A).isSome = true ∧ operandsOk (theCard bad) = false
      ∧ asks busy 0x23 = true ∧ 1 ≤ busy.link.state.toNat ∧ busy.link.state.toNat ≤ 3
      ∧ queueOf s tId.queue = some tDevice ∧ (∀ x, x ∈ s.sched.cards → operandTable x.opcode ≠ none)
      ∧ cmdWritable s tDevice (theCard s).resultVa = true
      ∧ queueOf g node.id.queue = some tQueue ∧ tQueue.kind ≠ 2 ∧ node.level = 0 ∧ nodeCard g node.nodeId = some node
      ∧ (∀ x, x ∈ g.sched.cards → operandTable x.opcode ≠ none) := by decide +kernel
theorem witness_CommandResults_memory : (asked tState 0x0A [(0x50, 8, 0x123000)]).memOk := by unfold State.memOk; decide +kernel

/-- The tests' job and a queue of it. -/
def withOne (q : Queue) : State :=
  let s := withLevels tState 0
  { s with sched := { s.sched with queues := [q] } }
theorem witness_QueueCommands_none :
    let create := asked (withOne tQueue) 0x01 [(0x4A, 2, 5), (0x4C, 1, 4), (0x4D, 1, 1), (0x4E, 2, 1), (0x50, 8, 0x400000), (0x58, 8, 0x200F48),
      (0x64, 1, 2)]
    asks create 0x01 = true ∧ (theCard create).arg 0x60 4 = 0 ∧ levelRec create 0 = none ∧ 0 < create.sched.nextId
      ∧ (∀ x, x ∈ create.sched.levels → x.state ≠ 1) := by decide +kernel
theorem witness_QueueCommands :
    let create := asked (withOne tQueue) 0x01 [(0x4A, 2, 5), (0x4C, 1, 4), (0x4D, 1, 1), (0x4E, 2, 1), (0x50, 8, 0x400000), (0x58, 8, 0x200F48),
      (0x60, 4, 3), (0x64, 1, 2)]
    let on (q : Queue) (op : Nat) (fs : List (Nat × Nat × Nat)) : State := asked (withOne q) op ([(0x4A, 2, 1)] ++ fs)
    let sealed_ : Queue := { tQueue with sealat := some 3, status := 1 }
    let stopped : Queue := { tQueue with status := 2 }
    let c := theCard create
    asks create 0x01 = true ∧ c.arg 0x49 1 ≤ 1 ∧ 1 ≤ c.arg 0x4C 1 ∧ c.arg 0x4C 1 ≤ 16 ∧ c.arg 0x50 8 % 256 = 0 ∧ c.arg 0x58 8 % 8 = 0
      ∧ (clusterRec create (c.arg 0x48 1)).lost = false
      ∧ asidDomain create (c.arg 0x4E 2) = some (clusterRec create (c.arg 0x48 1)).domain
      ∧ queueOf create { cluster := c.arg 0x48 1, index := c.arg 0x4A 2 } = none
      ∧ (∀ q, q ∈ [tQueue, sealed_, stopped] → (∀ op, op ∈ [0x02, 0x03, 0x04] → asks (on q op []) op = true
          ∧ queueOf (on q op []) { cluster := (theCard (on q op [])).arg 0x48 1, index := (theCard (on q op [])).arg 0x4A 2 } = some q)
          ∧ q.status ≠ 3 ∧ q.kind ≠ 2)
      ∧ (∀ k, k ∈ [0, 1] → asks (on tQueue 0x03 [(0x4C, 1, k)]) 0x03 = true ∧ (theCard (on tQueue 0x03 [(0x4C, 1, k)])).arg 0x4C 1 = k)
      ∧ ((levelRec (on tQueue 0x03 []) tQueue.job).map (·.state)) = some 0 ∧ tQueue.sealat = none ∧ sealed_.sealat ≠ none
      ∧ stopped.status = 2 ∧ tQueue.status ≠ 2
      ∧ (∀ op, op ∈ [0x02, 0x03, 0x04] → asks (asked (withOne tQueue) op [(0x4A, 2, 9)]) op = true
          ∧ queueOf (asked (withOne tQueue) op [(0x4A, 2, 9)]) { cluster := 0, index := 9 } = none
          ∧ asks (on { tQueue with status := 3 } op []) op = true
          ∧ asks (asked (withOne tQueue) op []) op = true
          ∧ queueOf (asked (withOne tQueue) op []) { cluster := 0, index := 0 } = some tDevice ∧ tDevice.status ≠ 3) := by decide +kernel

/-- A region command for ASID 1: region 1 or 5 gets an entry. -/
def regionSet (s : State) (rn e : Nat) (deferred : Nat) : State := asked s 0x06 [(0x48, 2, 1), (0x4A, 1, deferred), (0x50, 8, rn), (0x58, 8, e)]
/-- The tests' module with every page of region 5 of ASID 1 mapped. -/
def withRegionPages : State :=
  { tState with xl := { tState.xl with pages := tState.xl.pages ++ (List.range 32).map fun i => tPage 1 (0xA0 + i) (1024 + 16 * i) } }
theorem witness_RegionCommands :
    let gone := regionSet tState 1 3 0
    let kept := regionSet tState 1 3 1
    let more := regionSet tState 5 3 0
    let window := regionSet withRegionPages 5 0x23 0
    (∀ s, s ∈ [gone, kept, more, window] → asks s 0x06 = true ∧ entryReserved 1 ((theCard s).arg 0x58 8) = false
        ∧ entryMisplaced s 1 ((theCard s).arg 0x50 8) ((theCard s).arg 0x58 8) = false ∧ asidExists s 1 = true
        ∧ entryForbidden s 1 ((theCard s).arg 0x50 8) ((theCard s).arg 0x58 8) = false)
      ∧ regionShrinks (tRegion 0).toNat 3 = true ∧ regionShrinks 0 3 = false ∧ eKind 3 ≠ 1
      ∧ bit ((theCard gone).arg 0x4A 1) 0 = false ∧ bit ((theCard kept).arg 0x4A 1) 0 = true ∧ eKind 0x23 = 1 ∧ eValid 0x23 = true
      ∧ (setRegion window 1 5 (BitVec.ofNat 64 0x23) false).isSome = true := by decide +kernel

theorem witness_RegionCommands_waits :
    let quiet := regionSet tState 1 3 0
    let kept := regionSet tState 1 3 1
    let s : State := { quiet with team := { quiet.team with ord := { quiet.team.ord with load := some 0x200008 } } }
    bit ((theCard kept).arg 0x4A 1) 0 = true ∧ quiet.sb = [] ∧ quiet.others = [] ∧ quiet.team.ord.load = none ∧ quiet.team.scalarAtom = false
      ∧ quiet.team.lane.busy = false ∧ quiet.team.ord.atoms = []
      ∧ asks s 0x06 = true ∧ entryForbidden s 1 1 3 = false ∧ eKind 3 ≠ 1 ∧ bit ((theCard s).arg 0x4A 1) 0 = false ∧ s.team.place.run = 1
      ∧ teamDomain s s.team = regionDom s 1 (sget 0 s.xl.regions (1 * 2 ^ 35 + 1)).toNat ∧ s.team.ord.load = some 0x200008
      ∧ tagOf s.team.card.asid 0x200008 = 1 ∧ 0x200008 / 2 ^ 21 % 2 ^ 35 = 1 := by decide +kernel
/-- A `page-map` command. -/
def pageMap (s : State) (va frame : Nat) : State := asked s 0x07 [(0x48, 2, 1), (0x50, 8, va), (0x58, 8, frame)]
/-- The tests' module with region 5 of ASID 1 interleaved. -/
def interleaved : State :=
  { tState with xl := { tState.xl with regions := sset 0 tState.xl.regions (regionKey 1 5) (BitVec.ofNat 64 (2 ^ 8 + 3)) } }
theorem witness_PageCommands :
    let named := pageMap tState 0x210000 256
    let any := pageMap tState 0x210000 (2 ^ 64 - 1)
    let many := pageMap interleaved 0xA10000 (2 ^ 64 - 1)
    let unmap := asked tState 0x08 [(0x48, 2, 1), (0x50, 8, 0x200000)]
    let query (va : Nat) : State := asked tState 0x09 [(0x48, 2, 1), (0x4A, 1, 1), (0x50, 8, va)]
    let create := asked tState 0x05 [(0x48, 2, 2)]
    let far := asked (withHost id) 0x25 [(0x48, 2, 1), (0x4A, 1, 1), (0x4B, 1, 1), (0x4C, 2, 2), (0x50, 8, 0x210000), (0x58, 8, 0x10000)]
    (asks create 0x05 = true ∧ clustersOf create ((theCard create).arg 0x4A 1) ≠ [] ∧ asidExists create 2 = false)
      ∧ (∀ s, s ∈ [named, any, many] → asks s 0x07 = true ∧ asidExists s 1 = true ∧ bit ((theCard s).arg 0x4A 1) 0 = false)
      ∧ (∀ s, s ∈ [named, any] → pagePresent s 1 0x210000 = false ∧ eValid (tableEntry s 1 0x210000) = true
          ∧ eKind (tableEntry s 1 0x210000) = 0 ∧ eInter (tableEntry s 1 0x210000) = false)
      ∧ pagePresent many 1 0xA10000 = false ∧ eValid (tableEntry many 1 0xA10000) = true ∧ eKind (tableEntry many 1 0xA10000) = 0
      ∧ eInter (tableEntry many 1 0xA10000) = true
      ∧ (theCard named).arg 0x58 8 = 256 ∧ (theCard any).arg 0x58 8 = 2 ^ 64 - 1
      ∧ framesFree named (homeOf named 1 (tableEntry named 1 0x210000) 0x210000) 256 16 = true
      ∧ asks unmap 0x08 = true ∧ asidExists unmap 1 = true ∧ pagePresent unmap 1 0x200000 = true ∧ eKind (tableEntry unmap 1 0x200000) = 0
      ∧ (∀ va, va ∈ [0x200000, 0x210000] → asks (query va) 0x09 = true ∧ cmdWritable (query va) tDevice ((theCard (query va)).resultVa + 8) = true)
      ∧ pageOf (query 0x210000) 1 0x210000 = none ∧ pageOf (query 0x200000) 1 0x200000 = some (tPage 1 0x20 16)
      ∧ pageOf (query 0x200000) 0 ((theCard (query 0x200000)).resultVa + 8) ≠ some (tPage 1 0x20 16)
      ∧ asks far 0x25 = true ∧ far.link.state = 0 ∧ (theCard far).arg 0x4A 1 ≤ 3 ∧ (theCard far).arg 0x4B 1 ≤ 1
      ∧ (theCard far).arg 0x58 8 % 65536 = 0 ∧ pagePresent far 1 0x210000 = false ∧ eValid (tableEntry far 1 0x210000) = true
      ∧ eKind (tableEntry far 1 0x210000) = 0 ∧ attached far 1 = true := by decide +kernel
theorem witness_PageCommands_marked :
    let unmap := asked tState 0x08 [(0x48, 2, 1), (0x50, 8, 0x200000)]
    markedPage unmap 1 0x20 = false ∧ markedPage { unmap with sb := [{ tStore with marked := true }] } 1 0x20 = true := by decide +kernel
theorem witness_PageCommands_memory : (asked tState 0x09 [(0x48, 2, 1), (0x50, 8, 0x200000)]).memOk := by unfold State.memOk; decide +kernel
/-- Some frame is free for the second of those maps, whichever frame the free choice names. -/
theorem witness_PageCommands_frame : (mapPage (pageMap tState 0x210000 (2 ^ 64 - 1)) 1 0x210000 none false 0).isSome = true := by
  have h : ∀ s k, s.xl.pages = tState.xl.pages → (anyFrame s 0 16 k).isSome = true := by
    intro s k hs
    unfold anyFrame
    dsimp only
    split
    · rfl
    · simp only [framesFree, hs]; decide +kernel
  have hh : homeOf (pageMap tState 0x210000 (2 ^ 64 - 1)) 1 (tableEntry (pageMap tState 0x210000 (2 ^ 64 - 1)) 1 0x210000) 0x210000 = 0 := by
    decide +kernel
  have hi : eInter (tableEntry (pageMap tState 0x210000 (2 ^ 64 - 1)) 1 0x210000) = false := by decide +kernel
  obtain ⟨f, hf⟩ := Option.isSome_iff_exists.mp (h (pageMap tState 0x210000 (2 ^ 64 - 1)) 0 rfl)
  simp only [mapPage, hi, hh, hf, Bool.false_eq_true, if_false, Option.isSome_some]

/-- Sixteen granules get frames when their homes are controllers apart from each other that hold no page. -/
theorem map_granules (u : State) (home : Nat → Nat) (page : PageEntry) (e base : Nat) (gs : List Nat) :
    ∀ s : State, (∀ s : State, s.fw = u.fw → s.xl.asids = u.xl.asids → ∀ g, g ∈ gs → homeOf s 1 e (base + 4096 * g) = home g) →
      s.fw = u.fw → s.xl.asids = u.xl.asids → (gs.map home).Nodup → (∀ p, p ∈ s.xl.pages → ∀ g, g ∈ gs → p.ctrl ≠ home g) →
      (gs.foldl (fun (r : Option State) g =>
        match r with
        | none => none
        | some s =>
          let ctrl := homeOf s 1 e (base + 4096 * g)
          (anyFrame s ctrl 1 (0 + g)).map fun f => addPage s { page with ctrl := ctrl, gidx := some g, frame := f }) (some s)).isSome = true := by
  have free : ∀ (s : State) ctrl k, (∀ p, p ∈ s.xl.pages → p.ctrl ≠ ctrl) → (anyFrame s ctrl 1 k).isSome = true := by
    intro s ctrl k hs
    have h : ∀ f, framesFree s ctrl f 1 = true := by
      intro f
      simp only [framesFree, List.all_eq_true]
      intro p hp
      simp [hs p hp]
    simp [anyFrame, h]
  induction gs with
  | nil => intros; rfl
  | cons g gs ih =>
    intro s hh hfw has hnd hp
    have hg := hh s hfw has g (by simp)
    obtain ⟨f, hf⟩ := Option.isSome_iff_exists.mp (free s (home g) (0 + g) fun p h => hp p h g (by simp))
    simp only [List.foldl_cons, hg, hf, Option.map_some]
    simp only [List.map_cons, List.nodup_cons, List.mem_map, not_exists, not_and] at hnd
    refine ih _ (fun s h h' x hx => hh s h h' x (by simp [hx])) hfw has hnd.2 ?_
    intro p hpm x hx
    simp only [addPage, List.mem_append, List.mem_singleton] at hpm
    rcases hpm with hpm | rfl
    · exact hp p hpm x (by simp [hx])
    · exact fun e => hnd.1 x hx e.symm
/-- Frames are free for the third of those maps: its granules' homes are sixteen controllers that hold no page. -/
theorem witness_PageCommands_frames : (mapPage (pageMap interleaved 0xA10000 (2 ^ 64 - 1)) 1 0xA10000 none false 0).isSome = true := by
  have hi : eInter (tableEntry (pageMap interleaved 0xA10000 (2 ^ 64 - 1)) 1 0xA10000) = true := by decide +kernel
  have hn : ((List.range 16).map fun g => homeOf (pageMap interleaved 0xA10000 (2 ^ 64 - 1)) 1
      (tableEntry (pageMap interleaved 0xA10000 (2 ^ 64 - 1)) 1 0xA10000) (0xA10000 / 65536 * 65536 + 4096 * g)).Nodup := by decide +kernel
  have hp : ∀ p, p ∈ (pageMap interleaved 0xA10000 (2 ^ 64 - 1)).xl.pages → ∀ g, g ∈ List.range 16 →
      p.ctrl ≠ homeOf (pageMap interleaved 0xA10000 (2 ^ 64 - 1)) 1
        (tableEntry (pageMap interleaved 0xA10000 (2 ^ 64 - 1)) 1 0xA10000) (0xA10000 / 65536 * 65536 + 4096 * g) := by decide +kernel
  generalize pageMap interleaved 0xA10000 (2 ^ 64 - 1) = u at hi hn hp ⊢
  simp only [mapPage, hi, if_true]
  exact map_granules u (fun g => homeOf u 1 (tableEntry u 1 0xA10000) (0xA10000 / 65536 * 65536 + 4096 * g))
    { ctrl := 0, asid := 1, vpage := 0xA10000 / 65536, gdom := if 1 = 0 then eGdom (tableEntry u 1 0xA10000) else 0 }
    (tableEntry u 1 0xA10000) (0xA10000 / 65536 * 65536) (List.range 16) u (fun s h h' g _ => by
      have hc : ∀ c, clusterRec s c = clusterRec u c := fun c => by unfold clusterRec; rw [h]
      have ha : asidDom s 1 = asidDom u 1 := by unfold asidDom asidDomain zoneOf; simp only [h', hc]
      have hl : ∀ d, homeOf.clustersIn s d = homeOf.clustersIn u d := fun d => List.filter_congr fun c _ => by rw [hc]
      simp only [homeOf, hl, regionDom, ha]) rfl rfl hn hp

/-- The tests' team halted, with a byte of the halt cause in its image (R335). -/
def withHalted (b : Nat) : State :=
  { tState with
    team := { tTeam with place := { run := 3 } }
    mem := setBytes [] (48 * 4096 + 0x19) [BitVec.ofNat 8 b] }
theorem witness_TeamCommands :
    let resume (s : State) (h : Nat) : State := asked s 0x0A [(0x50, 8, h)]
    let ran (b : Nat) : State := resume (withHalted b) tHandle
    let gone : State := let s := resume tState 0x123000; { s with sched := { s.sched with ended := [0x123000] } }
    let assign (mask : Nat) : State := asked tState 0x0B [(0x48, 1, 2), (0x50, 8, mask)]
    asks (resume tState 0x123000) 0x0A = true ∧ teamOf (resume tState 0x123000) 0x123000 = none ∧ asks gone 0x0A = true
      ∧ 0x123000 ∈ gone.sched.ended ∧ asks (resume tState tHandle) 0x0A = true ∧ tTeam.place.run ≠ 3
      ∧ (∀ b, b ∈ [0, 1] → asks (ran b) 0x0A = true ∧ teamOf (ran b) tHandle = some (ran b).team ∧ (ran b).team.place.run = 3
          ∧ crewOf (ran b) (ran b).team = [tHandle]
          ∧ present (ran b) (hwWho (teamDomain (ran b) (ran b).team) 0) tHandle 0x13000 = true ∧ (ran b).team.ord.kept = [] ∧ (ran b).others = []
          ∧ (BitVec.ofNat 64 (imageWord (ran b) (ran b).team 0x18)).getLsbD 8 = decide (b = 1))
      ∧ (∀ m, m ∈ [1, 2] → asks (assign m) 0x0B = true ∧ (theCard (assign m)).arg 0x50 8 = m
          ∧ ∀ k, k < 64 → bit m k = true → (clusterRec (assign m) k).lost = false)
      ∧ bit 1 0 = true ∧ clusterBusy (assign 1) 0 = true ∧ (∀ k, k < 64 → bit 2 k = true → clusterBusy (assign 2) k = false) := by
  decide +kernel

/-- A group descriptor (R413): group 3 of two ranks and two members at the window 0x600000, with one child and one local rank. -/
def tDesc : List Byte := cardBytes
  [(0, 2, 3), (2, 2, 2), (4, 2, 2), (8, 2, 1), (0x10, 8, 0x600000), (0x18, 8, 0x200000), (0x20, 8, tHandle + 0x5000), (0x28, 2, 0xFFFF),
    (0x2A, 2, 1), (0x30, 2, 7), (0x50, 8, tHandle + 0x5100), (0x58, 2, 1)]
/-- The tests' module with region 3 a group's window and that descriptor at the tests' handle + 0x4000, and no group. -/
def withDesc : State :=
  let s := withGroup tGroup
  { s with link := { s.link with groups := [] }, mem := setBytes [] (48 * 4096 + 0x4000) tDesc }
/-- A `bias-set` command for the biased page of the tests' host module. -/
def biasSet (host : Nat) (bias : List Nat) (f : HostPorts → HostPorts) : State :=
  let s := asked (withHost f) 0x24 [(0x48, 2, 1), (0x4A, 1, host), (0x50, 8, 0xC00000)]
  { s with xl := { s.xl with hostBias := bias } }
theorem witness_LinkCommands :
    let conf := asked tState 0x20 [(0x48, 2, 9), (0x4C, 4, 9), (0x50, 8, tHandle)]
    let change := asked tState 0x21 [(0x48, 2, 16), (0x4C, 4, 100), (0x50, 8, tHandle), (0x58, 8, tHandle + 0x2000)]
    let bind := asked withDesc 0x22 [(0x50, 8, tHandle + 0x4000)]
    let d := cmdRead bind tDevice (tHandle + 0x4000) 128
    let ends (s : State) : State := asked s 0x23 [(0x48, 2, 3)]
    let role (n : Nat) : Nat := (theCard conf).arg 0x4C 4 / 4 ^ n % 4
    asks conf 0x20 = true ∧ conf.link.state = 0 ∧ conf.link.groups = [] ∧ (∀ n, n < 16 → role n ≠ 3) ∧ role 0 = 1 ∧ role 1 = 2
      ∧ ((List.range 16).filter fun n => role n = 2).length ≤ 4 ∧ cmdReadable conf tDevice tHandle 8192 = true
      ∧ asks change 0x21 = true ∧ 1 ≤ (theCard change).arg 0x48 2 ∧ (theCard change).arg 0x48 2 ≤ 4096
      ∧ cmdReadable change tDevice tHandle 16 = true ∧ cmdReadable change tDevice (tHandle + 0x2000) 8192 = true
      ∧ asks bind 0x22 = true ∧ d = tDesc ∧ cmdReadable bind tDevice (tHandle + 0x4000) 128 = true
      ∧ groupMisformed d = false ∧ groupTaken bind (field d 0 2) = false
      ∧ (∀ x, x ∈ windowStarts d → eValid (tableEntry bind (tagOf 1 x) x) = true ∧ eKind (tableEntry bind (tagOf 1 x) x) = 2
          ∧ eGroup (tableEntry bind (tagOf 1 x) x) = field d 0 2)
      ∧ gateWaits conf (queueWho conf tDevice) tHandle 8192 = false
      ∧ gateWaits change (queueWho change tDevice) tHandle 16 = false ∧ gateWaits change (queueWho change tDevice) (tHandle + 0x2000) 8192 = false
      ∧ gateWaits bind (queueWho bind tDevice) (tHandle + 0x4000) 128 = false
      ∧ gateWaits bind (queueWho bind tDevice) (field d 0x20 8) (2 * field d 2 2) = false
      ∧ gateWaits bind (queueWho bind tDevice) (field d 0x50 8) (16 * field d 0x58 2) = false
      ∧ (let late (s : State) (va : Nat) : State := { s with sb := [{ tStore with asid := 0, sector := va, marked := true }] }
         asks (late conf tHandle) 0x20 = true ∧ gateWaits (late conf tHandle) (queueWho (late conf tHandle) tDevice) tHandle 8192 = true
           ∧ gateWaits (late change tHandle) (queueWho (late change tHandle) tDevice) tHandle 16 = true
           ∧ gateWaits (late bind (tHandle + 0x4000)) (queueWho (late bind (tHandle + 0x4000)) tDevice) (tHandle + 0x4000) 128 = true)
      ∧ windowStarts d = [0x600000] ∧ cmdReadable bind tDevice (field d 0x20 8) (2 * field d 2 2) = true
      ∧ cmdReadable bind tDevice (field d 0x50 8) (16 * field d 0x58 2) = true
      ∧ asks (ends tState) 0x23 = true ∧ groupOf (ends tState) 3 = none ∧ asks (ends (asMember tGroup id)) 0x23 = true
      ∧ ((groupOf (ends (asMember tGroup id)) 3).map (·.card)) = some none
      ∧ (let again := ends (asMember { tGroup with card := some { tId with slot := 7 } } id)
         asks again 0x23 = true ∧ ((groupOf again 3).map (·.card.isSome)) = some true) := by decide +kernel
theorem witness_BiasCommands :
    let p : PageEntry := { tPage 1 0xC0 128 with biased := true }
    let attach (port adapter : Nat) : State :=
      let s := asked (withHost id) 0x26 [(0x48, 1, port), (0x49, 1, adapter)]
      { s with link := { s.link with ports := sset {} s.link.ports 5 { role := 2 } } }
    let none_ := asked (withHost id) 0x24 [(0x48, 2, 1), (0x50, 8, 0x210000)]
    (∀ s, s ∈ [biasSet 1 [] id, biasSet 1 [128] id, biasSet 0 [128] id, biasSet 0 [] id, biasSet 1 [] fun h => { h with flips := [{ tFlip true with card := { tId with slot := 7 } }] }] →
        asks s 0x24 = true ∧ (theCard s).arg 0x4A 1 ≤ 1 ∧ 0xC00000 % 4096 = 0 ∧ asidExists s 1 = true ∧ pageOf s 1 0xC00000 = some p
          ∧ (s.fab.copies.map fun x => (x.holder, x.asid, x.sec)).Nodup ∧ s.hostp.adapters ≠ [])
      ∧ (p.ctrl * 2 ^ 35 + p.frame * 4096 + 0xC00000 % 65536) / 4096 = 128 ∧ (tFlip true).granule = 128
      ∧ (let m : State := { biasSet 1 [] id with sb := [{ tStore with sector := 0xC00000, marked := true }] }
         asks m 0x24 = true ∧ (m.sb.any fun e => e.marked && e.asid = 1 && e.sector / 4096 = 0xC00000 / 4096) = true)
      ∧ (∀ b, b ∈ [(1 : Nat), 0] → (biasSet b [] id).sb = []) ∧ granuleBusy (biasSet 1 [] id) 128 = false
      ∧ (∀ x, x ∈ (biasSet 1 [] id).fab.copies → x.st ≠ .M ∧ x.st ≠ .O) ∧ p.far = none
      ∧ (let held : State := { biasSet 1 [] id with fab := { tState.fab with copies := [{ holder := 0, asid := 1, sec := 0xC00040, st := .M }] } }
         asks held 0x24 = true ∧ copyState held 0 1 (0xC00000 + 64 * 1) = .M ∧ pageOf held 1 0xC00000 = some p ∧ held.sb = []
           ∧ held.hostp.flips = [] ∧ 128 ∉ held.xl.hostBias ∧ (held.fab.copies.map fun x => (x.holder, x.asid, x.sec)).Nodup)
      ∧ asks none_ 0x24 = true ∧ pageOf none_ 1 0x210000 = none
      ∧ (∀ x, x ∈ [(5, 1), (5, 2)] → asks (attach x.1 x.2) 0x26 = true ∧ (theCard (attach x.1 x.2)).arg 0x48 1 = x.1
          ∧ (theCard (attach x.1 x.2)).arg 0x49 1 = x.2 ∧ (portRec (attach x.1 x.2) 5).role = 2 ∧ (attach x.1 x.2).hostp.adapters = [(4, 1)])
      := by decide +kernel
/-- The tests' module with a group that waits for its announcement, or for its end, and the page of its window mapped. -/
def announced (g : Group) (f : Link → Link) : State := asked (asMember { g with card := some tId } f) 0x22 []
theorem witness_Announcements :
    let w : Group := { tGroup with state := 2, members := 2 }
    let down : Group := { w with children := [7], hash := [5] }
    let below (root : Nat) : Group := { down with root := root, parent := 6 }
    let has (h : Option (List Byte)) (l : Link) : Link := { l with hashesIn := [{ group := 3, module := 7, hash := h }] }
    let went (l : Link) : Link := { l with hashesOut := [{ group := 3, module := 6, hash := some [5] }] }
    let find (s : State) : Option Group := s.link.groups.find? fun r => r.number = 3 && r.state = 2
    let got (s : State) : Option (Option (List Byte)) := (s.link.hashesIn.find? fun h => h.group = 3 && h.module = 7).map (·.hash)
    (((find (announced w id)).map fun r => (r.card, r.children, r.root, r.wlen)) = some (some tId, [], 0, 65536)
        ∧ groupOf (announced w id) 3 = none ∧ (announced w id).link.moduleId = 0 ∧ (cardOf (announced w id) tId).isSome = true)
      ∧ (find (announced down id)).map (·.children) = some [7] ∧ got (announced down id) = none
      ∧ (∀ h, h ∈ [some [5], none, some [6]] → got (announced (below 5) (has h)) = some h ∧ got (announced down (has h)) = some h
          ∧ ((find (announced (below 5) (has h))).map fun r => (r.root, r.parent, r.hash)) = some (5, 6, [5])
          ∧ (announced (below 5) (has h)).link.hashesOut = [] ∧ groupOf (announced down (has h)) 3 = none
          ∧ got (announced (below 5) fun l => went (has h l)) = some h
          ∧ ((announced (below 5) fun l => went (has h l)).link.hashesOut.any fun h => h.group = 3) = true)
      ∧ (∀ s, s ∈ [announced w id, announced down (has (some [5])), announced (below 5) fun l => went (has (some [5]) l)] →
          ∀ r, find s = some r → (cardOf s tId).isSome = true
            ∧ let told := r.children.foldl (fun s m => transmit s m (.announce 3 true))
                { s with link := { s.link with
                  hashesIn := s.link.hashesIn.filter (·.group ≠ 3), hashesOut := s.link.hashesOut.filter (·.group ≠ 3) } }
              (mapAll told (tagOf r.asid r.window) ((List.range (r.wlen / 65536)).map fun i => r.window + i * 65536)).isSome = true) := by
  decide +kernel
theorem witness_Announcements_window :
    let w : Group := { tGroup with state := 2, members := 2 }
    let s := announced w id
    let u : State := { s with xl := { s.xl with pages := [{ tPage 1 0x60 0 with far := some (1, 0, 0, 0) }] } }
    (mapAll s (tagOf 1 0x600000) [0x600000]).isSome = true ∧ (mapAll u (tagOf 1 0x600000) [0x600000]).isSome = true
      ∧ 0x600000 % 65536 = 0 ∧ 65536 % 65536 = 0 ∧ ((pageOf s 1 0x600000).map (·.far)) = some none
      ∧ ((pageOf u 1 0x600000).map (·.far)) = some (some (1, 0, 0, 0)) := by decide +kernel
/-- That module with every frame of controller 0, of which there are 16 times `n`, taken by pages of another ASID. -/
def noFrames (n : Nat) : State :=
  let s := announced { tGroup with state := 2, members := 2 } id
  { s with xl := { s.xl with pages := (List.range n).map fun i => tPage 2 i (16 * i) } }
/-- No frame is free there for the window's page, whichever frame the free choice names. -/
theorem witness_Announcements_full : ∃ n, mapAll (noFrames n) (tagOf 1 0x600000) [0x600000] = none := by
  obtain ⟨n, hn⟩ : ∃ n, n = 2 ^ 19 := ⟨_, rfl⟩
  have hx : (noFrames n).xl.pages = (List.range n).map fun i => tPage 2 i (16 * i) := rfl
  have full : ∀ f, f % 16 = 0 → f + 16 ≤ 2 ^ 23 → framesFree (noFrames n) 0 f 16 = false := by
    intro f h h'
    rw [framesFree, hx, List.all_eq_false]
    refine ⟨tPage 2 (f / 16) (16 * (f / 16)), List.mem_map.2 ⟨f / 16, List.mem_range.2 (by omega), rfl⟩, ?_⟩
    have hf : 16 * (f / 16) = f := by omega
    simp [tPage, overlap, hf]
  have any : ∀ k, anyFrame (noFrames n) 0 16 k = none := by
    intro k
    have h : Config.freePick (draw (noFrames n) k) % (2 ^ 23 / 16) < 2 ^ 19 := Nat.mod_lt _ (by decide)
    rw [anyFrame, if_neg (by rw [full _ (by omega) (by omega)]; decide), List.find?_eq_none]
    intro f hf
    obtain ⟨x, _, rfl⟩ := List.mem_map.1 hf
    by_cases h : x * 16 + 16 ≤ 2 ^ 23
    · simp [full (x * 16) (by omega) h]
    · intro hc; rw [Bool.and_eq_true, decide_eq_true_eq] at hc; exact h hc.1
  have hp : pagePresent (noFrames n) (tagOf 1 0x600000) 0x600000 = false := by
    rw [pagePresent, hx, List.any_eq_false]
    intro p hp
    obtain ⟨i, _, rfl⟩ := List.mem_map.1 hp
    have ht : tagOf 1 0x600000 = 1 := by decide +kernel
    simp [tPage, ht]
  have he : eInter (tableEntry (noFrames n) (tagOf 1 0x600000) 0x600000) = false := by
    rw [show tableEntry (noFrames n) (tagOf 1 0x600000) 0x600000 = tableEntry (announced tGroup id) (tagOf 1 0x600000) 0x600000 from rfl]
    decide +kernel
  have hh : homeOf (noFrames n) (tagOf 1 0x600000) (tableEntry (noFrames n) (tagOf 1 0x600000) 0x600000) 0x600000 = 0 := by
    rw [homeOf, if_neg (by rw [he]; decide),
      show tableEntry (noFrames n) (tagOf 1 0x600000) 0x600000 = tableEntry (announced tGroup id) (tagOf 1 0x600000) 0x600000 from rfl]
    decide +kernel
  refine ⟨n, ?_⟩
  simp only [mapAll, List.foldl_cons, List.foldl_nil, hp, mapPage, he, hh, any, Bool.false_eq_true, if_false]
theorem witness_Announcements_ends :
    let u := announced tGroup id
    let v := announced { tGroup with outstanding := [(tReq 0 2, 1)] } id
    (u.link.groups.find? fun r => r.number = 3 && r.state = 2) = none
      ∧ (groupOf u 3).any (fun r => r.card = some tId && mayUnbind u r && r.also.isEmpty) = true ∧ (cardOf u tId).isSome = true
      ∧ (v.link.groups.find? fun r => r.number = 3 && r.state = 2) = none
      ∧ (groupOf v 3).any (fun r => r.card = some tId && !mayUnbind v r) = true
      ∧ (let e := asMember { tGroup with members := 2 } id
         (e.link.groups.find? fun r => r.number = 3 && r.state = 2) = none
          ∧ (groupOf e 3).any (fun r => r.card.isNone && r.members ≠ 1 && r.state ≠ 1) = true) := by decide +kernel

/-- A mailbox request in a phase: fields as offset, bytes and value in its 256 bytes. -/
def withMail (phase : Nat) (fs : List (Nat × Nat × Nat)) (f : Firmware → Firmware) : State :=
  let s := withLevels tState 0
  { s with fw := f { s.fw with
      phase := phase, busy := true
      request := fs.foldl (fun b f => b.take f.1 ++ toBytes f.2.1 f.2.2 ++ b.drop (f.1 + f.2.1)) (List.replicate 256 0) } }
/-- The opcode of such a request. -/
def mailOp (s : State) : Nat := field s.fw.request 0 2
/-- A configuration record in range (R441). -/
def tConfig (cap : Nat) : List (Nat × Nat × Nat) :=
  [(8, 4, 1), (12, 4, 1), (16, 4, cap), (0x14, 1, 4), (0x15, 1, 85), (0x16, 1, 20), (0x18, 2, 15), (0x1A, 2, 20), (0x1C, 4, 100)]

/-- Mailbox writes with busy 1 and with busy 0, of a request's bytes, of busy itself, and of a byte that is neither. -/
theorem witness_MailboxArea :
    let b := withMail 2 [] id
    let n := withMail 2 [] fun f => { f with busy := false }
    b.fw.busy = true ∧ n.fw.busy = false ∧ n.fw.request.length = 0x100 ∧ 0x100 ≤ 0x1F8 ∧ 0x1F8 + (List.replicate 8 (5 : Byte)).length ≤ 0x200
      ∧ 128 ≤ (0x80 : Byte).toNat ∧ ¬ 128 ≤ (1 : Byte).toNat
      ∧ (∀ i, i < (List.replicate 8 (5 : Byte)).length → 0x200 + i ≠ 3 ∧ ¬ (0x100 ≤ 0x200 + i ∧ 0x200 + i < 0x200)) := by decide +kernel

theorem witness_MailboxOperations :
    let m (op : Nat) (fs : List (Nat × Nat × Nat)) : State := withMail 2 ([(0, 2, op)] ++ fs) id
    let lev (op n : Nat) : State := withMail 2 [(0, 2, op)] fun f => { f with lev := { state := n, job := 4 } }
    let start (op va : Nat) : State := m op [(8, 8, va), (0x10, 8, tHandle), (0x18, 8, 4)]
    let shape : State := putMem (m 5 [(8, 2, 1), (0x10, 8, 0x200600)]) 0x200600 (shapeRec 0 4 0x200A00 4 1 0x200D00)
    let entry : ScrubEntry := { entry := 0, asid := 1, recVa := 0x200600 }
    let have_ : State := withMail 2 [(0, 2, 6)] fun f => { f with scrubs := [entry] }
    let log (n : Nat) : LogEntry := { seq := n, kind := 1, cluster := 0, asid := 0, detail := 0, addr := 0, aux := 0 }
    let read (k : Nat) : State := withMail 3 [(0, 2, 11), (8, 8, k)] fun f => { f with log := [log 1, log 2], logSeq := 3 }
    (m 8 []).fw.busy = true ∧ (withMail 2 [(0, 2, 8)] fun f => { f with busy := false }).fw.busy = false ∧ mailOp (m 8 []) ≠ 5
      ∧ (∀ op, op ∈ [0, 12] → mailOp (m op []) = op) ∧ mailOp (withMail 1 [(0, 2, 1)] id) = 1 ∧ (withMail 1 [(0, 2, 1)] id).fw.phase < 2
      ∧ mailOp (withMail 3 [(0, 2, 4)] id) = 4 ∧ (withMail 3 [(0, 2, 4)] id).fw.phase = 3
      ∧ (∀ op, op ∈ [1, 2, 3, 4, 5, 6, 7, 8, 9, 10, 11] → mailOp (m op []) = op ∧ (m op []).fw.phase = 2)
      ∧ (m 3 []).fw.key = none ∧ (withMail 2 [(0, 2, 3)] fun f => { f with key := some [] }).fw.key ≠ none ∧ (m 4 []).fw.key = none
      ∧ (∀ e, e ∈ shape.fw.scrubs → e.entry ≠ 0) ∧ field shape.fw.request 8 2 = 1 ∧ asidExists shape 1 = true
      ∧ scrubShape shape 1 (field shape.fw.request 0x10 8) ≠ none ∧ scrubShape (m 5 [(8, 2, 1)]) 1 0 = none
      ∧ (∃ e, e ∈ have_.fw.scrubs ∧ e.entry = field have_.fw.request 8 8) ∧ (∀ e, e ∈ (m 6 []).fw.scrubs → e.entry ≠ 0)
      ∧ jobAt (start 7 0) 0 = none ∧ ((jobAt (start 7 0x200F00) (field (start 7 0x200F00).fw.request 8 8)).map (·.id)) = some 4
      ∧ ((jobAt (start 9 0x200F00) (field (start 9 0x200F00).fw.request 8 8)).map (·.id)) = some 4
      ∧ jobAt (start 9 0) 0 = none ∧ ¬ (tState.team.pc.toNat / 2 ^ 52 % 16 = 15) ∧ (lev 7 1).fw.lev.state = 1 ∧ (lev 9 2).fw.lev.state = 2
      ∧ tHandle / 2 ^ 52 % 16 = 15 ∧ tHandle + 64 * 4 ≤ 2 ^ 56 ∧ field (start 7 0).fw.request 0x10 8 = tHandle
      ∧ (start 7 0).fw.lev.state = 0 ∧ (lev 8 1).fw.lev.state = 1 ∧ (lev 8 4).fw.lev.state = 4 ∧ (m 8 []).fw.lev.state = 0
      ∧ (∀ k, k ∈ [0, 65536] → mailOp (read k) = 11 ∧ (read k).fw.phase = 3 ∧ field (read k).fw.request 8 8 = k)
      ∧ (∀ x, x ∈ (read 0).fw.log → (x.seq - 1) % 65536 = (2 - 1) % 65536 → x = log 2) ∧ ((2 - 1) % 65536 + 65536 - 0) % 65536 < 64 := by
  decide +kernel
/-- The public key of RFC 6979, A.2.5, and a signature with its value r and another s. -/
def tKey : List Byte :=
  (toBytes 32 0x60FED4BA255A9D31C961EB74C6356D68C049B8923B61FA6CE669622E60F29FB6).reverse
    ++ (toBytes 32 0x7903FE1008B8BC99A41AE9E95628BC64F2F1B20C2D7E9F5177A3C294D4462299).reverse
def tSigned (s : Nat) : List Byte :=
  (toBytes 32 0xEFD48B2AACB6A8FD1140DD9CD45E81D69D2C877B56AAF991C34D0EA84EAF3716).reverse ++ (toBytes 32 s).reverse
/-- The signature that RFC 6979, A.2.5, gives for the message "sample" with SHA-256. -/
theorem test_signature : signatureValid tKey [0x73, 0x61, 0x6D, 0x70, 0x6C, 0x65]
    (tSigned 0xF7CB1C942D657C41D436C7A1B6E29F65F3E900DBB9AFF4064DC4AB2F843ACDA8) = true := by decide +kernel
/-- A request that carries a record whose clock is `cap`, and a signature made outside with the key of that standard. -/
def tConfigure (cap sig : Nat) : State :=
  let s := withMail 2 ([(0, 2, 4)] ++ tConfig cap) fun f => { f with key := some tKey }
  { s with fw := { s.fw with request := s.fw.request.take 0x48 ++ tSigned sig ++ s.fw.request.drop 0x88 } }
theorem witness_Configure :
    let bad := tConfigure 11000 0x7B40B2E14B6FD1A06D2C6166F60F66DA6DCD0B96E0C82F7AD6DEBA6E94A80FA1
    let good := tConfigure 12000 0x6F145433ACA1056CECD73149BCD89441C282EED3B93AC07FF4D6670FAE59D7
    let forged := tConfigure 12000 0x7B40B2E14B6FD1A06D2C6166F60F66DA6DCD0B96E0C82F7AD6DEBA6E94A80FA1
    let record (s : State) : List Byte := fit 64 (s.fw.request.drop 8)
    let ok (s : State) : Bool := signatureValid tKey (record s) (fit 64 (s.fw.request.drop 0x48))
    (∀ s, s ∈ [bad, good, forged] → mailOp s = 4 ∧ s.fw.busy = true ∧ s.fw.phase = 2 ∧ s.fw.key = some tKey)
      ∧ ok bad = true ∧ configOk bad (record bad) = false ∧ ok good = true ∧ configOk good (record good) = true ∧ ok forged = false := by
  decide +kernel

/-- The tests' module with a record of cluster 5, its temperature and the module's power. -/
def withCluster (c : Cluster) (heat power : Nat) : State :=
  { tState with fw := { tState.fw with clusters := sset {} [] 5 c, cooled := 5, sensors := { temps := [(5, heat)], power := power } } }
/-- The tests' module with indicators measured, and an earlier measurement. -/
def measured (ws : List (Nat × Nat × Nat)) (before : List (List (Nat × Nat × Nat))) : State :=
  { tState with fw := { tState.fw with sensors := { values := ws }, history := before } }
/-- The tests' module with a tensor of four words registered with the scrubber, and a digest. -/
def scrubbing (digest : List Byte) : State :=
  let s := putMem (putMem tState 0x200600 (shapeRec 0 4 0x200A00 4 1 0x200D00)) 0x200D00 digest
  { s with fw := { s.fw with scrubs := [{ entry := 0, asid := 1, recVa := 0x200600 }] } }
theorem witness_FirmwareUpkeep :
    let c (n : Nat) : Cluster := { clock := n }
    let cap := tState.fw.cfg.cap
    (∀ n, n ∈ [12, 20] → ∀ h, h ∈ [95, 96, 106] → clusterRec (withCluster (c n) h cap) 5 = c n ∧ (c n).lost = false
        ∧ ((withCluster (c n) h cap).fw.sensors.temps.find? (·.1 = 5)) = some (5, h))
      ∧ tState.fw.wear = [] ∧ cap < (withCluster (c 20) 50 (cap + 1)).fw.sensors.power ∧ ¬ cap < (withCluster (c 20) 50 cap).fw.sensors.power
      ∧ 4 < tState.fw.cfg.sram ∧ 12 < (c 20).clock ∧ (c 20).clock < (c 20).target ∧ ({} : Cluster).target ≤ ({} : Cluster).clock ∧ (c 20).stopped = false
      ∧ clusterRec (withCluster { stopped := true } 95 0) 5 = { stopped := true } ∧ (withCluster { stopped := true } 95 0).fw.cooled = 5 := by
  decide +kernel
theorem witness_WearMeasurement :
    let cfg := tState.fw.cfg
    let full : State := { measured [(1, 3, 100)] [] with fab := { tState.fab with spares := [(0, 8), (0, 9), (0, 10), (0, 11)] } }
    (cfg.ring ≤ 90 ∧ ¬ cfg.ring ≤ 80 ∧ 10 ≤ cfg.laser ∧ cfg.dram ≤ 200 ∧ 5 < cfg.sram ∧ cfg.bond ≤ 30)
      ∧ (∀ w, w ∈ [(1, 3, 90), (2, 3, 10), (3, 3, 200), (4, 5, 5), (5, 3, 30)] → (measured [w] []).fw.sensors.values = [w])
      ∧ (∀ y, y ∈ [70, 75] → (measured [(1, 3, 70)] [[(1, 3, y)]]).fw.history = [[(1, 3, y)]]) ∧ ¬ cfg.ring ≤ 70
      ∧ (∀ y, y ∈ [60] → (measured [(1, 3, 70)] [[(1, 3, y)]]).fw.history = [[(1, 3, y)]] ∧ y < 70)
      ∧ tState.fab.spares = [] ∧ ¬ (full.fab.spares.filter (·.1 = 3 / 64)).length < 4 ∧ full.fw.sensors.values = [(1, 3, 100)]
      ∧ (clusterRec tState 5).lost = false ∧ 12 < (clusterRec tState 5).clock := by decide +kernel
theorem witness_Scrub :
    let good := scrubbing (sha256 (List.replicate 16 0))
    let bad := scrubbing (List.replicate 32 1)
    let r (s : State) : Option Shape := scrubShape s 1 0x200600
    let vas (s : State) : List Nat := ((r s).map tensorVas).getD []
    let data (s : State) : List Byte := (vas s).flatMap fun va => readBytes s (scrubWho s 1 va) va 4
    (∀ s, s ∈ [good, bad] → s.fw.phase = 2 ∧ s.fw.cfg.scrub ≠ 0
        ∧ s.fw.scrubs.find? (·.entry = s.fw.scrubNext) = some { entry := 0, asid := 1, recVa := 0x200600 }
        ∧ ((r s).map fun x => (elemBytes x, x.digest)) = some (4, 0x200D00) ∧ (vas s).length = 4
        ∧ (∀ va, va ∈ vas s → gateAt s (scrubWho s 1 (sectorOf va)) (sectorOf va) ≠ .wait ∧ scrubReads s 1 va 4 = true)
        ∧ scrubReads s 1 0x200D00 32 = true)
      ∧ sha256 (data good) = readBytes good (scrubWho good 1 0x200D00) 0x200D00 32
      ∧ sha256 (data bad) ≠ readBytes bad (scrubWho bad 1 0x200D00) 0x200D00 32 := by decide +kernel

/-- An error at a VA of ASID 1, met by a team or by none. -/
def tError (cls addr : Nat) (team : Option Nat) : ErrorSite := { cls := cls, asid := 1, addr := addr, cluster := 0, team := team, engine := false }
theorem witness_ErrorsAndLosses :
    let s := withLevels tState 0
    (tError 1 0x200000 none).team = none ∧ (tError 1 0x200000 none).queue = none ∧ windowPage tState (tagOf 1 0x200000) 0x200000 = false
      ∧ (tError 3 0x200000 none).cls ≠ 1 ∧ (tError 1 0x200000 (some tHandle)).engine = false ∧ teamOf tState tHandle = some tState.team
      ∧ tState.team.place.run = 1 ∧ tState.team.ord.leave = none ∧ tState.team.scalarAtom = false
      ∧ (tError 1 0x200000 (some tHandle)).lane = false ∧ (tError 1 0x200000 (some tHandle)).line = false
      ∧ (withWords tState [0x004000500AE02000003DE000]).team.lane.queue.length = 1 ∧ tState.team.sys.handler = false
      ∧ (withOrd fun o => { o with leave := some .preempt }).team.ord.leave ≠ none ∧ midWord tState tHandle = false
      ∧ midWord (inWord (withWords tState [0x004000500AE02000003DE000])) tHandle = true ∧ (inHand tState).team.sys.handler = true
      ∧ tState.team.lane.queue = []
      ∧ (withOrd fun o => { o with atoms := [{ key := 1024, group := 3 }] }).team.scalarAtom = true
      ∧ ({ tTeam with place := { run := 2 } } : Team).place.run ≠ 1
      ∧ (clusterRec s 0).lost = false ∧ s.sb = [] ∧ teamOf s tHandle = some s.team ∧ s.team.place.run = 1 ∧ s.team.place.cluster = 0
      ∧ ((levelRec s s.team.card.launch).map (·.state)) = some 0 := by decide +kernel
theorem witness_ErrorsAndLosses_engine :
    let c := tJob (tmplBytes []) 0x200A00 fun c => { c with started := true }
    let e : ErrorSite := { tError 3 0x200A00 (some tHandle) with engine := true, work := some 0 }
    let q : ErrorSite := { tError 3 0x400100 none with queue := some tQueue.id }
    e.engine = true ∧ e.queue = none ∧ e.cls ≠ 4 ∧ e.work = some 0 ∧ copyOf (withJob c) 0 = some c ∧ c.started = true ∧ c.paused = false
      ∧ (let m := tJob (tmplBytes []) 0x200A00 fun c => { c with moved := true }
         copyOf (withJob m) 0 = some m ∧ m.moved = true ∧ m.paused = false)
      ∧ (let n := tJob (tmplBytes []) 0x200A00 id
         copyOf (withJob n) 0 = some n ∧ n.started = false ∧ copyMayRun (withJob n) n = true)
      ∧ ((teamOf (withJob c) c.team).map (·.place.run)) = some 1
      ∧ q.queue = some tQueue.id ∧ q.cls ≠ 1 ∧ q.cls ≠ 2 ∧ queueOf (withCards []) tQueue.id = some tQueue ∧ tQueue.status < 2 := by
  decide +kernel
theorem witness_BringUp :
    let s (phase step : Nat) (r : BringUp) : State :=
      { State.reset with fw := { State.reset.fw with phase := phase, step := step, report := r } }
    let odd : BringUp := { spares := [(0, 8), (0, 9), (0, 10), (0, 11), (0, 12)], failed := [(5, 3), (7, 4)], clocks := [(5, 16)] }
    let served (x : (Nat × Nat) × Nat) : Bool := decide (((odd.spares.take x.2).filter (·.1 = x.1.1)).length < 4)
    (∀ n, n ∈ [1, 2, 3, 4, 5, 6, 7, 8] → (s 1 n odd).fw.phase = 1 ∧ (s 1 n odd).fw.step = n) ∧ State.reset.fw.phase = 0
      ∧ (s 0 0 { romOk := false }).fw.report.romOk = false ∧ odd.romOk = true ∧ ({ fibres := 21 } : BringUp).fibres < 22 ∧ 22 ≤ odd.fibres
      ∧ odd.spares.zipIdx.filter (fun x => !served x) = [((0, 12), 4)] ∧ (clusterRec (s 1 2 odd) 12).lost = false
      ∧ ({ flight := [23] } : BringUp).flight.getD 0 0 = 23 ∧ (∀ b, b < 8 → odd.flight.getD b 0 ≤ 22)
      ∧ (4 + 1, 3) ∈ odd.failed ∧ (7, 4) ∈ odd.failed ∧ odd.clocks.find? (·.1 = 5) = some (5, 16)
      ∧ (clusterRec { s 1 7 odd with fw := { (s 1 7 odd).fw with clusters := sset {} [] 3 { lost := true, domain := 8 } } } 3).lost = true
      ∧ 2 ≤ tState.fw.phase := by decide +kernel
theorem witness_MemoryInvariantStep : State.reset.memOk ∧ isNext (step { State.reset with agenda := [.event (.thermalStop 5)] }) (fun t => t.fresh = 1) = true := by
  constructor
  · unfold State.memOk; decide +kernel
  · decide +kernel

/-- A record with some fields set, each an offset, a number of bytes and a value. -/
def patched (bs : List Byte) (fs : List (Nat × Nat × Nat)) : List Byte :=
  fs.foldl (fun b f => b.take f.1 ++ toBytes f.2.1 f.2.2 ++ b.drop (f.1 + f.2.1)) bs

theorem witness_AccessChecks_aperture :
    let s := setS tState 5 (2 ^ 56 - 4096)
    let va (n : Nat) (off : Int) : Nat := (readReg s 5 + BitVec.ofInt 64 (off * n)).toNat
    inAperture (va 8 1) = true ∧ va 8 1 % 4096 ≠ 0 ∧ inAperture (va 4 0) = true ∧ s.team.sys.handler = false
      ∧ inAperture (readReg s 5).toNat = true ∧ (readReg (setS tState 5 0x200004) 5).toNat % 64 ≠ 0
      ∧ inAperture (readReg (setS tState 5 0x200004) 5).toNat = false := by decide +kernel
theorem witness_GroupErrorStore :
    let s := setS (asMember { tGroup with state := 1 } id) 5 0x600010
    let u := setS (asMember tGroup id) 5 0x600010
    (∀ z, z ∈ [s, u] → mayAccess z 0x600010 4 .rw = true ∧ mayAccess z 0x600010 4 .w = true
        ∧ kindAt z (tagOf z.team.card.asid 0x600010) 0x600010 = 2 ∧ (∀ e, e ∈ z.sb → e.held = false) ∧ noStores z = true
        ∧ teamShare z z.team.card.handle < 128 ∧ coreShare z (coreOf z.team) < 512)
      ∧ ((groupOf s (groupAt s (tagOf 1 0x600010) 0x600010)).map (·.state)) = some 1
      ∧ ((groupOf u (groupAt u (tagOf 1 0x600010) 0x600010)).map (·.state)) = some 0 := by decide +kernel
theorem witness_GroupAtomics :
    let s (g : Group) (a : List GroupAtom) : State := setS { asMember g id with team := { tTeam with ord := { atoms := a } } } 5 0x600010
    let key : GroupAtom := { key := 1024, group := 3 }
    let g (z : State) : Option (Nat × Bool) :=
      (groupOf z (groupAt z (tagOf 1 0x600010) 0x600010)).map fun r => (r.state, decide (r.waiting = []))
    let bad : Group := { tGroup with state := 1 }
    (∀ z, z ∈ [s bad [], s bad [key], s tGroup [], s tGroup [key], s { tGroup with waiting := [{ tReq 0 0 with team := 99 }] } [],
        s tGroup [{ key with value := some 9 }]] →
        (readReg z 5).toNat = 0x600010 ∧ mayAccess z 0x600010 4 .rw = true ∧ mayAccess z 0x600010 8 .rw = true
          ∧ kindAt z (tagOf z.team.card.asid 0x600010) 0x600010 = 2 ∧ noStores z = true ∧ z.fw.lev.state = 0)
      ∧ g (s bad []) = some (1, true) ∧ g (s bad [key]) = some (1, true) ∧ g (s tGroup []) = some (0, true)
      ∧ g (s { tGroup with waiting := [{ tReq 0 0 with team := 99 }] } []) = some (0, false)
      ∧ (∀ a, a ∈ [key, { key with value := some 9 }] → ((s tGroup [a]).team.ord.atoms.find? (·.key = 1024)) = some a)
      ∧ ((s tGroup []).team.ord.atoms.find? (·.key = 1024)) = none ∧ (9 : Word).toNat < 256 ^ 4 := by decide +kernel
theorem witness_LaneGroupWindows :
    let at_ (g : Group) (a : List GroupAtom) (busy : Bool) : State := let s := atLanes 0x600000 4
      { asMember g id with team := { s.team with
          regs := { s.team.regs with mask := 1 }, ord := { s.team.ord with atoms := a }, lane := { s.team.lane with busy := busy } } }
    let bad := at_ { tGroup with state := 1 } [] false
    let fresh := at_ tGroup [] false
    let came := at_ tGroup [{ key := 0, group := 3, value := some 9 }] true
    let f := tMem 6 0 true
    (∀ s, s ∈ [bad, fresh, came] → takerList s.team f = [0] ∧ takes s f 0 = true ∧ laneAddr s.team 0x209 f 0 = 0x600000
        ∧ mayAccess s 0x600000 4 .rw = true ∧ kindAt s (tagOf s.team.card.asid 0x600000) 0x600000 = 2)
      ∧ unbegun bad.team ∧ ((groupOf bad (groupAt bad (tagOf 1 0x600000) 0x600000)).map (·.state)) = some 1
      ∧ laneAddr bad.team 0x202 (tMem 4 0 false) 0 = 0x600000 ∧ mayAccess bad 0x600000 4 .w = true
      ∧ unbegun fresh.team ∧ ((groupOf fresh (groupAt fresh (tagOf 1 0x600000) 0x600000)).map fun r => (r.state, decide (r.waiting = []))) = some (0, true)
      ∧ fresh.team.ord.atoms = [] ∧ noStores fresh = true ∧ fresh.fw.lev.state = 0 ∧ (laneAmoKind 0).bytes = 4
      ∧ came.team.lane.busy = true ∧ came.team.lane.skip = 0 ∧ openLanes came.team f = [0] ∧ (9 : Word).toNat < 256 ^ 4
      ∧ ((came.team.ord.atoms.find? (·.key = 0)).map (·.value)) = some (some 9) := by decide +kernel

/-- The tests' module with a collective descriptor and its two records. -/
def collState (desc src dst : List Byte) : State := putMem (putMem (putMem withColl 0x200500 desc) 0x200600 src) 0x2006C0 dst
/-- The fields of the tests' collective changed, and its records. -/
def collAs (fs : List (Nat × Nat × Nat)) : State := collState (patched tColl fs) (shapeRec 0 0 0x200A00 4 1 0) (shapeRec 0 0 0x200B00 8 1 0)
/-- A descriptor is read at its VA with no reason of its own, for a rank of the bound group. -/
def collRead (s : State) (fs : List (Nat × Nat × Nat)) : Bool :=
  !s.team.sys.handler && decide ((readReg s 5).toNat = 0x200500) && mayAccess s 0x200500 64 .r
    && isOk (teamRead s 0x200500 64) (· = patched tColl fs)
/-- The records of such a descriptor are read after the descriptor. -/
def collRecs (s : State) (src dst : List Byte) : Bool :=
  let u := touchBytes s 0x200500 64
  isOk (readRec u 0x200600) (· = src) && isOk (readRec (afterRec u 0x200600 src) 0x2006C0) (· = dst)

theorem witness_CollectiveChecked_descriptor :
    (∀ x, x ∈ [(1, [(0, 1, 5)]), (2, [(2, 1, 16)]), (3, [(3, 1, 8)]), (4, [(0x20, 4, 4096)])] → collRead (collAs x.2) x.2 = true
        ∧ collFails (patched tColl x.2) x.1 = true ∧ ∀ j, j ∈ [1, 2, 3, 4] → j < x.1 → collFails (patched tColl x.2) j = false)
      ∧ (∀ fs, fs ∈ [[], [(4, 2, 9)], [(0x10, 8, 0x600000)], [(0x10, 8, 0x200E00)]] → collRead (collAs fs) fs = true
          ∧ ∀ k, k ∈ [1, 2, 3, 4] → collFails (patched tColl fs) k = false) := by decide +kernel
theorem witness_CollectiveChecked_group :
    let with_ (g : Group) : State := { collAs [] with link := { tState.link with groups := [g] } }
    groupOf (collAs [(4, 2, 9)]) 9 = none ∧ groupOf (with_ { tGroup with state := 1 }) 3 = some { tGroup with state := 1 }
      ∧ groupOf (with_ { tGroup with locals := [] }) 3 = some { tGroup with locals := [] }
      ∧ issuingRank (with_ { tGroup with locals := [] }) { tGroup with locals := [] } (collAs []).team = none
      ∧ groupOf (collAs []) 3 = some tGroup ∧ tGroup.state ≠ 1 ∧ issuingRank (collAs []) tGroup (collAs []).team = some 0 := by decide +kernel
theorem witness_CollectiveChecked_ranks :
    let s := collAs [(0x10, 8, 0x600000)]
    let u (n : Nat) : State := putMem (collAs [(0x10, 8, 0x200E00)]) 0x200E00 (toBytes 128 n)
    spanTrap s (focusWho s) (some (0x600000, 128)) .r = some (5, 0x600000)
      ∧ (∀ n, n ∈ [0, 3] → spanTrap (u n) (focusWho (u n)) (some (0x200E00, 128)) .r = none
          ∧ isOk (teamRead (touchBytes (u n) 0x200500 64) 0x200E00 128) (· = toBytes 128 n) = true)
      ∧ 0 ∉ (List.range tGroup.rankmap.length).filter (fun x => bit (ofBytes (toBytes 128 0)) x)
      ∧ 0 ∈ (List.range tGroup.rankmap.length).filter (fun x => bit (ofBytes (toBytes 128 3)) x) ∧ 0 ∈ List.range tGroup.rankmap.length := by
  decide +kernel
theorem witness_CollectiveChecked_records :
    let good := shapeRec 0 0 0x200A00 4 1 0
    let far := shapeRec 0 0 0x800000 4 1 0
    let dst := shapeRec 0 0 0x200B00 8 1 0
    let short := shapeRec 0 0 0x200B00 7 1 0
    (∀ x, x ∈ [(good, dst), (shapeRec 16 0 0x200A00 4 1 0, dst), (good, shapeRec 16 0 0x200B00 8 1 0), (good, short), (far, dst)] →
        collRead (collState tColl x.1 x.2) [] = true ∧ collRecs (collState tColl x.1 x.2) x.1 x.2 = true)
      ∧ shapeOk (shapeOf good) = true ∧ shapeOk (shapeOf dst) = true ∧ shapeOk (shapeOf (shapeRec 16 0 0x200A00 4 1 0)) = false
      ∧ shapeOk (shapeOf short) = true ∧ (shapeOf short).count ≠ 2 * (shapeOf good).count ∧ (shapeOf good).fmt = 0 ∧ (shapeOf dst).fmt = 0
      ∧ (shapeOf dst).count = 2 * (shapeOf good).count ∧ shapeOk (shapeOf far) = true ∧ (shapeOf far).fmt = 0 ∧ (shapeOf far).count = 4
      ∧ (firstTrap (collState tColl far dst) (collSpans tColl (shapeOf far) (shapeOf dst) 2)).isSome = true
      ∧ firstTrap (collState tColl good dst) (collSpans tColl (shapeOf good) (shapeOf dst) 2) = none := by decide +kernel
theorem witness_CollectiveChecked_outstanding :
    let c (n : Nat) : Coll := { id := n, cluster := 0, core := 0, team := tHandle, asid := 1, group := 3, issue := n, rank := 0, ranks := [0, 1]
                                descVa := 0x200500, desc := tColl, src := [], dst := []
                                hash := { kind := 0, op := 0, fmt := 0, elems := 4, root := 0, ranks := [0, 1] } }
    let s : State := { collAs [] with eng := { tState.eng with colls := (List.range 8).map c } }
    collRead s [] = true ∧ collRecs s (shapeRec 0 0 0x200A00 4 1 0) (shapeRec 0 0 0x200B00 8 1 0) = true
      ∧ 8 ≤ (s.eng.colls.filter fun c => c.group = 3 && c.rank = 0).length ∧ (collAs []).eng.colls = [] := by decide +kernel
/-- Into local memory: a destination at a local address with a slot of 4,096 bytes for each rank, with an arrival queue or without. -/
def collLocal (queued : Bool) (la : Nat) : List (Nat × Nat × Nat) :=
  [(3, 1, if queued then 3 else 1), (0x18, 8, la), (0x20, 4, 4096), (0x24, 4, if queued then 0x1000 else 0)]
theorem witness_CollectiveChecked_local :
    let owned (s : State) : State := { s with tiles := [3, 4].foldl (fun m k => sset {} m k { owner := 3 }) [] }
    let head (s : State) (l : Nat) : State := lmWrite s 0 0x1000 (toBytes 8 0 ++ toBytes 8 l)
    let src := shapeOf (shapeRec 0 0 0x200A00 4 1 0)
    let rs (la : Nat) : List (Nat × Nat) := collRanges (collDesc (patched tColl (collLocal false la))) src.count 2
    let plain := collLocal false 0x3000
    let q := collLocal true 0x3000
    let taken : State := let s := head (owned (collAs q)) 2; { s with tiles := sset {} s.tiles 1 { owner := 3 } }
    (∀ x, x ∈ [(collAs plain, plain), (collAs (collLocal false 0x3F000), collLocal false 0x3F000), (owned (collAs plain), plain),
        (head (owned (collAs q)) 2, q), (head (owned (collAs q)) 9, q), (taken, q)] → collRead x.1 x.2 = true
        ∧ (∀ k, k ∈ [1, 2, 3, 4] → collFails (patched tColl x.2) k = false)
        ∧ isOk (readRec (touchBytes x.1 0x200500 64) 0x200600) (· = shapeRec 0 0 0x200A00 4 1 0) = true
        ∧ firstTrap x.1 (collSpans (patched tColl x.2) src (shapeOf []) 2) = none)
      ∧ shapeOk src = true ∧ src.fmt = 0
      ∧ (∀ x, x ∈ rs 0x3000 → inWindow tTeam x.1 = true ∧ inWindow tTeam (x.1 + x.2 - 1) = true)
      ∧ ((rs 0x3F000).any fun x => !(inWindow tTeam x.1 && inWindow tTeam (x.1 + x.2 - 1))) = true
      ∧ ((rangeTiles (rs 0x3000)).all fun x => (tileRec (owned (collAs plain)) 0 x).owner = 3) = true
      ∧ ((rangeTiles (rs 0x3000)).any fun x => (tileRec (collAs plain) 0 x).owner ≠ 3) = true
      ∧ (∀ la, la ∈ [0x1000, 0x100F, 0x100F + 8 * 2 ^ 2, 0x100F + 8 * 2 ^ 8] → inWindow tTeam la = true)
      ∧ (qheader (head (owned (collAs q)) 2) 0 0x1000).lcap = 2 ∧ (qheader (head (owned (collAs q)) 2) 0 0x1000).rest = 0
      ∧ (qheader (head (owned (collAs q)) 9) 0 0x1000).lcap = 9 ∧ (tileRec (head (owned (collAs q)) 2) 0 1).owner = 0
      ∧ (tileRec taken 0 1).owner ≠ 0 := by decide +kernel
theorem witness_CollectiveChecked_queue :
    let fs := [(3, 1, 3), (0x18, 8, 0x3000), (0x20, 4, 4096), (0x24, 4, 0x3FFF0)]
    let s : State := { collAs fs with tiles := [3, 4].foldl (fun m k => sset {} m k { owner := 3 }) [] }
    collRead s fs = true ∧ (∀ k, k ∈ [1, 2, 3, 4] → collFails (patched tColl fs) k = false)
      ∧ inWindow s.team (0x3FFF0 + 15 + 8 * 2 ^ min (qheader s 0 0x3FFF0).lcap 8) = false := by decide +kernel


/-- A store of another team that has marked its sector. -/
def tMark (asid sector : Nat) : SbEntry := { tStore with team := 99, asid := asid, sector := sector, marked := true }
/-- Its cluster's clocks stopped. -/
def withStopped (s : State) : State := { s with fw := { s.fw with clusters := sset {} [] 0 { stopped := true } } }

/-- A module about to store to the copy aperture: a table of four templates with this one first, and its two records. -/
def atAperture (d : Nat) (tm src dst : List Byte) : State :=
  let s := setSs { tState with team := { tTeam with card := { tTeam.card with ttable := 0x200400, tmpls := 4 } } } [(5, 2 ^ 56 - 4096), (6, d)]
  putMem (putMem (putMem s 0x200400 tm) 0x200600 src) 0x2006C0 dst
/-- A template over those records, with fields of its own. -/
def copyTmpl (fs : List (Nat × Nat × Nat)) : List Byte := tmplBytes ([(8, 8, 0x200600), (0x10, 8, 0x2006C0)] ++ fs)
/-- The template is read at its VA. -/
def copyRead (s : State) (tm : List Byte) : Bool :=
  let va := (readReg s 5 + BitVec.ofInt 64 ((0 : BitVec 9).toInt * 8)).toNat
  inAperture va && decide (va % 4096 = 0) && !s.team.sys.handler && mayAccess s 0x200400 128 .r && isOk (teamRead s 0x200400 128) (· = tm)
/-- Both records are read after the template. -/
def copyRecs (s : State) (src dst : List Byte) : Bool :=
  let u := touchBytes s 0x200400 128
  isOk (readRec u 0x200600) (· = src) && isOk (readRec (afterRec u 0x200600 src) 0x2006C0) (· = dst)

theorem witness_CopyAccepted_template :
    let good := shapeRec 0 0 0x200A00 4 1 0
    let dst := shapeRec 0 0 0x200B00 4 1 0
    (∀ x, x ∈ [(1, [(0, 1, 3)]), (2, [(4, 4, 1)]), (3, [(3, 1, 1)]), (7, [(0x1C, 4, 1)])] →
        copyRead (atAperture 0 (copyTmpl x.2) good dst) (copyTmpl x.2) = true ∧ templateFails (copyTmpl x.2) 0 x.1 = true
          ∧ ∀ j, j ∈ [1, 2, 3, 7] → j < x.1 → templateFails (copyTmpl x.2) 0 j = false)
      ∧ (readReg (atAperture 4 (copyTmpl []) good dst) 6).toNat % 2 ^ 16 = 4
      ∧ (∀ x, x ∈ [(0, []), (0, [(2, 1, 2), (0x18, 4, 0x2001)]), (0, [(2, 1, 1)]), (1, [(3, 1, 1)])] → ∀ k, k ∈ [1, 2, 3, 7] →
          templateFails (copyTmpl x.2) x.1 k = false) := by decide +kernel
theorem witness_CopyAccepted_records :
    let good := shapeRec 0 0 0x200A00 4 1 0
    let dst := shapeRec 0 0 0x200B00 4 1 0
    let more := shapeRec 0 0 0x200B00 5 1 0
    let bad := shapeRec 16 0 0x200A00 4 1 0
    (∀ x, x ∈ [(bad, dst), (good, bad), (good, more), (good, dst)] → copyRead (atAperture 0 (copyTmpl []) x.1 x.2) (copyTmpl []) = true
        ∧ copyRecs (atAperture 0 (copyTmpl []) x.1 x.2) x.1 x.2 = true)
      ∧ shapeOk (shapeOf bad) = false ∧ (∀ x, x ∈ [good, dst, more] → shapeOk (shapeOf x) = true)
      ∧ ((shapeOf good).dims.getD 0 0 < (shapeOf more).dims.getD 0 0 ∧ 0 < (shapeOf more).rank)
      ∧ (∀ x, x ∈ [(0, [(2, 1, 2), (0x18, 4, 0x2001)]), (0, [(2, 1, 1)]), (0x10000, [(3, 1, 1)])] →
          copyRead (atAperture x.1 (copyTmpl x.2) good dst) (copyTmpl x.2) = true
            ∧ copyRecs (atAperture x.1 (copyTmpl x.2) good dst) good dst = true)
      ∧ ((readReg (atAperture 0x10000 (copyTmpl []) good dst) 6).extractLsb' 16 48).toInt = 1 := by decide +kernel
/-- A plain copy of four elements to four has no reason 4, whatever else its template says. -/
theorem copy_same_shape (tm : List Byte) (arg : Int) (hk : field tm 0 1 = 0) :
    ¬ recordsFail tm arg (shapeOf (shapeRec 0 0 0x200A00 4 1 0)) (shapeOf (shapeRec 0 0 0x200B00 4 1 0)) 4 := by
  have h : (shapeOf (shapeRec 0 0 0x200A00 4 1 0)).rank = 1 ∧ (shapeOf (shapeRec 0 0 0x200B00 4 1 0)).rank = 1
      ∧ (shapeOf (shapeRec 0 0 0x200A00 4 1 0)).fmt = (shapeOf (shapeRec 0 0 0x200B00 4 1 0)).fmt
      ∧ (shapeOf (shapeRec 0 0 0x200A00 4 1 0)).dims = (shapeOf (shapeRec 0 0 0x200B00 4 1 0)).dims := by decide +kernel
  rintro (e | e | ⟨-, k, -, e⟩ | ⟨e, -⟩)
  · exact e (h.1.trans h.2.1.symm)
  · exact e h.2.2.1
  · rw [h.2.2.2] at e; exact Nat.lt_irrefl _ e
  · exact e hk
/-- The reasons 4, 5, 6 and 8, each of a template and its records that have no earlier one. -/
theorem witness_CopyAccepted_reasons :
    let good := shapeOf (shapeRec 0 0 0x200A00 4 1 0)
    let dst := shapeOf (shapeRec 0 0 0x200B00 4 1 0)
    let more := shapeOf (shapeRec 0 0 0x200B00 5 1 0)
    let skew := copyTmpl [(2, 1, 2), (0x18, 4, 0x2001)]
    let sums := copyTmpl [(2, 1, 1)]
    let moved := copyTmpl [(3, 1, 1)]
    recordsFail (copyTmpl []) 0 good more 4
      ∧ (recordsFail skew 0 good dst 5 ∧ ¬ recordsFail skew 0 good dst 4)
      ∧ (recordsFail sums 0 good dst 6 ∧ ¬ recordsFail sums 0 good dst 4 ∧ ¬ recordsFail sums 0 good dst 5)
      ∧ recordsFail moved 1 good dst 8 ∧ ¬ recordsFail moved 1 good dst 4 ∧ ¬ recordsFail moved 1 good dst 5 ∧ ¬ recordsFail moved 1 good dst 6 := by
  refine ⟨.inr (.inr (.inl ⟨by decide +kernel, 0, by decide +kernel, by decide +kernel⟩)),
    ⟨?_, copy_same_shape _ _ (by decide +kernel)⟩, ⟨?_, copy_same_shape _ _ (by decide +kernel), ?_⟩, ?_,
    copy_same_shape _ _ (by decide +kernel), ?_, ?_⟩
  case refine_4 =>
    have hs : (shapeOf (shapeRec 0 0 0x200A00 4 1 0)).strides = [1] ∧ (shapeOf (shapeRec 0 0 0x200A00 4 1 0)).dims = [4]
        ∧ (shapeOf (shapeRec 0 0 0x200B00 4 1 0)).dims = [4] := by decide +kernel
    have hm : field (copyTmpl [(3, 1, 1)]) 0 1 = 0 ∧ field (copyTmpl [(3, 1, 1)]) 3 1 = 1 := by decide +kernel
    refine ⟨hm.1, .inl ⟨3, ⟨[3], ?_, ?_, ?_⟩, ?_⟩⟩
    · rw [hs.2.2]; rfl
    · rw [hs.2.2]; intro k hk; have : k = 0 := by simpa using hk
      subst this; decide
    · rw [hs.1]; decide
    · rintro ⟨lo, hi, -, ⟨ix, hl, hx, rfl⟩, -, hle⟩
      rw [hs.2.1] at hl hx
      rw [hs.1, hm.2] at hle
      match ix, hl with
      | [x], _ =>
        have := hx 0 Nat.zero_lt_one
        simp [offsetAt] at hle this
        omega
  all_goals simp only [recordsFail]; decide +kernel
/-- The checks that follow, of a copy with none of those reasons: the global ranges, the local window, the tiles' owner and the channel. -/
theorem witness_CopyAccepted :
    let good := shapeRec 0 0 0x200A00 4 1 0
    let dst := shapeRec 0 0 0x200B00 4 1 0
    let far := shapeRec 0 0 0x800000 4 1 0
    let loc (la : Nat) : List Byte := copyTmpl [(2, 1, 2), (0x18, 4, la)]
    let s (tm src : List Byte) : State := atAperture 0 tm src dst
    let own (z : State) : State := { z with tiles := sset {} [] 2 { owner := 1 } }
    let full : State := { s (copyTmpl []) good with eng := { tState.eng with copies := (List.range 16).map fun n => { tCopy n 1 with chan := 31 } } }
    let rs (tm src : List Byte) := firstTrap (s tm src) (copyRanges tm 0 (shapeOf src) (shapeOf dst))
    let bytes (la : Nat) : List Int := localBytes (templateOf (loc la)) 0 (shapeOf dst)
    let waiting (z : State) : Nat := (z.eng.copies.filter fun c => c.cluster = z.team.place.cluster && c.chan = (2 ^ 56 - 4096) / 4096 % 32).length
    (∀ x, x ∈ [(copyTmpl [], good), (copyTmpl [], far), (loc 0x2000, good), (loc 0x3FFFC, good)] → copyRead (s x.1 x.2) x.1 = true
        ∧ copyRecs (s x.1 x.2) x.2 dst = true ∧ shapeOk (shapeOf x.2) = true ∧ shapeOk (shapeOf dst) = true)
      ∧ (rs (copyTmpl []) far).isSome = true
      ∧ (∀ x, x ∈ [(copyTmpl [], good), (loc 0x2000, good), (loc 0x3FFFC, good)] → rs x.1 x.2 = none)
      ∧ (∀ x, x ∈ bytes 0x2000 → 0 ≤ x ∧ inWindow tTeam x.toNat = true) ∧ (∃ x, x ∈ bytes 0x3FFFC ∧ inWindow tTeam x.toNat = false)
      ∧ (∀ x, x ∈ bytes 0x2000 → (tileRec (own (s (loc 0x2000) good)) 0 (x.toNat / 4096)).owner = 1
          ∧ (tileRec (s (loc 0x2000) good) 0 (x.toNat / 4096)).owner ≠ 1)
      ∧ copyRead full (copyTmpl []) = true ∧ copyRecs full good dst = true ∧ waiting full = 16 ∧ waiting (s (copyTmpl []) good) = 0 := by
  decide +kernel
/-- A copy of a record to one of the same shape, with no argument, has no reason at all. -/
theorem witness_CopyAccepted_none (k : Nat) (hk : k ∈ [4, 5, 6, 8]) :
    ¬ recordsFail (copyTmpl []) 0 (shapeOf (shapeRec 0 0 0x200A00 4 1 0)) (shapeOf (shapeRec 0 0 0x200B00 4 1 0)) k := by
  have hs : (shapeOf (shapeRec 0 0 0x200A00 4 1 0)).strides = [1] ∧ (shapeOf (shapeRec 0 0 0x200A00 4 1 0)).dims = [4]
      ∧ (shapeOf (shapeRec 0 0 0x200B00 4 1 0)).dims = [4] := by decide +kernel
  have hm : field (copyTmpl []) 3 1 = 0 := by decide +kernel
  simp only [List.mem_cons, List.not_mem_nil, or_false] at hk
  rcases hk with rfl | rfl | rfl | rfl
  · exact copy_same_shape _ _ (by decide +kernel)
  · simp only [recordsFail]; decide +kernel
  · simp only [recordsFail]; decide +kernel
  · rintro ⟨-, ⟨o, h, hn⟩ | ⟨o, h, hn⟩⟩
    · rw [hs.1, hs.2.2] at h
      refine hn ⟨o, o, ?_, ?_, ?_, ?_⟩ <;> simp [hm, hs.1, hs.2.1, h]
    · exact hn ⟨o, o, h, h, by simp [hm], by simp [hm]⟩

theorem witness_HandlerReturns_posted : (inHand tState).posted = [] := by decide +kernel
theorem witness_SupervisorWords_crew :
    let s := setS (withMate 0x00F0000000010000) 5 0x00F0000000010000
    ∃ x, teamOf s (readReg s 5).toNat = some x ∧ crewOf s x = [0x00F0000000010000]
      ∧ ∀ x, x ∈ s.team :: s.others → x.sys.handler = true → x.lane.busy = false :=
  ⟨_, rfl, by decide +kernel, by decide +kernel⟩
theorem witness_CancelAndYield_handle :
    let s := setS (atSup (inOrder (withLevels tState 0))) 5 0x200F40
    readReg s 5 ≠ 0 ∧ levelOf s.team = 1 ∧ ((levelAt s s.team (readReg s 5).toNat).map (·.kind)) = some 0
      ∧ levelsRise s = true ∧ s.sched.levels.map (·.id) = [1, 2, 3, 4] ∧ (∀ x, x ∈ s.team :: s.others → x.place.run ≠ 2)
      ∧ (s.sched.levels.map fun x => decide (x.va ≠ 0) && counterOk s x) = [true, false, false, true]
      ∧ (∀ x, x ∈ s.sched.levels → x.va ≠ 0 → present s (counterOf s x).1 x.va 8 = true)
      ∧ (s.sched.levels.all fun x => s.sched.levels.all fun y => x.id = y.id || x.va = 0 || y.va = 0 || (List.range 8).all fun i =>
          (List.range 8).all fun j => decide (placeOf s (counterOf s x).1 (x.va + i) ≠ placeOf s (counterOf s y).1 (y.va + j))) = true := by
  decide +kernel
theorem witness_CancelAndYield_memory : (setS (atSup (inOrder (withLevels tState 0))) 5 0x200F40).memOk := by unfold State.memOk; decide +kernel

theorem witness_ScalarWordRuns_midway :
    let mid (w : Nat) : State := inWord (atWord tState w)
    let s := mid (wordJ 0x29 7)
    let b := mid 0
    (∀ z, z ∈ [s, b] → z.team.laneMid = true ∧ z.team.sys.handler = false ∧ z.team.ord.leave = none ∧ z.team.ord.stepped = false
        ∧ due (tick { z with agenda := [] }) = false)
      ∧ fetchScalar (tick { s with agenda := [] }) = .word (BitVec.ofNat 32 (wordJ 0x29 7))
      ∧ isOk (decodeS (BitVec.ofNat 32 (wordJ 0x29 7))) (fun i => !streamWait s.team i) = true
      ∧ isNext (exec (.trap 7) s) (fun t => t.team.card.handle = tHandle && t.team.sys.handler && t.team.ord.leave.isNone) = true
      ∧ isOk (decodeS 0) (fun _ => true) = false ∧ delivers b { cause := 0x01 } = true := by decide +kernel
theorem witness_InstructionFetch_midway :
    let s (pc : Nat) : State := inWord { tState with team := { tTeam with pc := BitVec.ofNat 64 pc } }
    (s 0x800000).team.laneMid = true ∧ (s 0x800000).team.sys.handler = false ∧ due (s 0x800000) = false
      ∧ delivers (s 0x800000) { cause := 0x05, va := 0x800000 } = true
      ∧ regionAt (s 0x800000) (focusWho (s 0x800000)) 0x800000 = none := by decide +kernel
theorem witness_StepRunsHardwareStep_mail :
    ({ tState with agenda := [.mail 0x100 [1]] } : State).agenda = [.mail 0x100 [1]]
      ∧ State.reset.agenda = [] ∧ State.reset.fw.phase ≤ 1 ∧ 1 < tState.fw.phase ∧ tState.team.place.run = 1 := by decide +kernel
theorem witness_StopsAtBoundaries_mates :
    let one : State := standing { tState with agenda := [.scalar tHandle] } fun o => { o with stepped := true }
    let two : State := { one with
      team := { one.team with card := { one.team.card with crew := 2, launch := 7 } }
      others := [{ tTeam with card := { tTeam.card with handle := 0x00F0000000010000, crew := 2, crk := 1, tix := 1, launch := 7 } }] }
    (∀ s, s ∈ [one, two] → s.team.place.run = 1 ∧ clocked s (coreOf s.team) = true ∧ s.team.scalarAtom = false ∧ midWord s tHandle = false
        ∧ s.team.ord.leave = none ∧ s.team.ord.stepped = true) ∧ matesStepped one = true ∧ matesStepped two = false := by decide +kernel
theorem witness_LaneAtomics_room :
    let s := twoLanes (atLanes 0x200000 4)
    cacheRoom s 2 = true ∧ ∀ l, l ∈ [0, 1] → steady s (focusWho s) (laneAddr s.team 0x209 (tMem 6 0 true) l) = true := by
  refine ⟨?_, by decide +kernel⟩
  unfold cacheRoom
  exact decide_eq_true (show 0 + 0 + 8192 * 0 + 2 < Config.sliceLines by decide)
theorem witness_LocalQueues_covered :
    let q := setS (withQueue 1) 5 0x1000
    let s : State := { q with
      team := { q.team with card := { q.team.card with crew := 2 }, ord := { q.team.ord with cover := 2 } }, sb := [tStore] }
    (qheader s (coreOf s.team) 0x1000).used ≠ 0 ∧ 1 < s.team.card.crew ∧ (∀ e, e ∈ s.sb → e.held = false) ∧ tStore ∈ s.sb
      ∧ tStore.team = s.team.card.handle ∧ tStore.seq < s.team.ord.cover ∧ queueTrap s (readReg s 5).toNat = none
      ∧ s.team.sys.handler = false ∧ q.team.card.crew ≤ 1 := by decide +kernel
theorem witness_CardPosted_waits :
    let s : State := { withRing 3 with sb := [tMark 1 0x400000] }
    isOk (postChecks s (readReg s 5).toNat (readReg s 6)) (· = tQueue) = true ∧ isOk (teamRead s (readReg s 5).toNat 128) (fun _ => true) = true
      ∧ present s (hwWho (queueDom s tQueue) 1) 0x400000 768 = true ∧ noStores s = true
      ∧ gateWaits s (hwWho (queueDom s tQueue) 1) 0x400000 8 = true
      ∧ (∀ r, r ∈ [3, 4] → gateWaits (withRing r) (hwWho (queueDom (withRing r) tQueue) 1) 0x400000 8 = false) := by decide +kernel
theorem witness_StoreBufferDrains_clocked :
    let s := withStores [tStore, tRelease]
    let e : SbEntry := { tStore with sector := 0x600000 }
    let g := withGroup { tGroup with waiting := [{ tReq 0 0 with team := 99 }] }
    let w : State := { g with sb := [e], xl := { g.xl with pages := g.xl.pages ++ [tPage 1 0x60 96] } }
    (∀ z, z ∈ [s, w] → (∀ x, x ∈ z.sb → clocked z x.core = true) ∧ z.posted = [] ∧ z.eng.tasks = []
        ∧ ∀ x, x ∈ z.team :: z.others → x.ord.kept = [])
      ∧ w.sb[0]? = some e ∧ gateAt w (entryWho w e) e.sector = .go ∧ kindAt w e.asid e.sector = 2
      ∧ groupFree w (groupAt w e.asid e.sector) = false ∧ tGroup.waiting = []
      ∧ clocked (withStopped s) 0 = false ∧ (withStopped s).sb[0]? = some tStore := by decide +kernel
theorem witness_ControlWordsInOrder_room :
    let k : Task := tTask 0 true tRecord
    let s (n : Nat) : State := { withTasks [k] with sb := (List.range n).map fun j => { tStore with sector := 0x200400 + 64 * j, seq := 7 } }
    (∀ n, n ∈ [1, 128] → taskOf (s n) k.id = some k ∧ teamOf (s n) k.team = some (s n).team
        ∧ ∀ e, e ∈ (s n).sb → e.held = false ∧ e.seq ≠ (s n).team.ord.seq + 1)
      ∧ k.due = [] ∧ k.recVa % 64 = 0 ∧ teamShare (s 1) tHandle < 128 ∧ coreShare (s 1) 0 < 512 ∧ 128 ≤ teamShare (s 128) tHandle
      ∧ ((s 1).sb.map fun e => (e.team, e.asid, e.sector, e.sent)) = [(k.team, tagOf k.asid k.recVa, k.recVa, false)] := by decide +kernel
theorem witness_LoadReplies_cases :
    let s := withOrd fun o => { o with load := some 0x210000 }
    s.team.laneMid = false ∧ (inHand s).team.sys.handler = true ∧ (inWord s).team.laneMid = true ∧ (inWord s).team.sys.handler = false
      ∧ clocked s (coreOf s.team) = true ∧ clocked (withStopped s) (coreOf s.team) = false
      ∧ (∀ z, z ∈ [s, inHand s, inWord s] → gateAt z (whoOf z z.team) 0x210000 = .absent) := by decide +kernel
theorem witness_RegisterMisses_needs :
    let s := withMiss 0 []
    let l (v : Nat) : RegLine := { team := tHandle, v := v, w := 0 }
    let mark : State := { s with sb := [tMark 0 (tHandle + 0x13000)] }
    let need := fun v : Nat => needsLine s.team (l v)
    need 10 = true ∧ need 3 = false ∧ needsLine (inHand s).team (l 10) = false
      ∧ clocked s (coreOf s.team) = true ∧ clocked (withStopped s) (coreOf s.team) = false ∧ s.posted = [] ∧ mark.posted = []
      ∧ lineWaits mark mark.team 10 0 = true ∧ lineWaits s s.team 10 0 = false := by decide +kernel


theorem witness_TeamsArePlaced_waits :
    let s := withHeader (noTeam (withCards [tCard 0 1 1 (launchBytes 0)]))
    let m : State := { s with sb := [tMark 0 ((tCard 0 1 1 (launchBytes 0)).image 0)] }
    let img := (tCard 0 1 1 (launchBytes 0)).image 0
    gateWaits m (hwWho (clusterRec m 0).domain 0) img 64 = true ∧ gateWaits s (hwWho (clusterRec s 0).domain 0) img 64 = false
      ∧ (readyPool m).find? (fun c => c.level = 1) = some (tCard 0 1 1 (launchBytes 0)) ∧ queueOf m (tCard 0 1 1 (launchBytes 0)).id.queue = some tQueue
      ∧ coreFits m (liveTeams m) (tCard 0 1 1 (launchBytes 0)) 0 0 5 (crewShare (tCard 0 1 1 (launchBytes 0)) 0) = true
      ∧ headerOk m (clusterRec m 0).domain tQueue (tCard 0 1 1 (launchBytes 0)) 0 = true
      ∧ imageOk m (clusterRec m 0).domain img (imageSize (tCard 0 1 1 (launchBytes 0)).regs (tCard 0 1 1 (launchBytes 0)).words) = true := by
  decide +kernel
theorem witness_SliceExpiry_clocked :
    let u := withLevels tState 0
    clocked (withStopped u) (coreOf u.team) = false ∧ clocked u (coreOf u.team) = true ∧ teamOf (withStopped u) tHandle = some u.team := by
  decide +kernel
theorem witness_TileTaskNodes_stopped :
    let n : NodeId := { job := 4, graph := 0, node := 0 }
    let s := withNode 1 tRecord
    let off : State := { s with sched := { s.sched with levels := s.sched.levels.map fun l => { l with state := if l.kind = 0 then 1 else l.state } } }
    let other : State := { s with team := { s.team with card := { s.team.card with job := 9 } } }
    (∀ z, z ∈ [s, off, other] → ((nodeCard z n).map fun c => (c.kind, c.standing, c.job)) = some (1, 1, 4) ∧ z.eng.tasks = []
        ∧ teamOf z tHandle = some z.team ∧ z.team.place.run = 1)
      ∧ launchStopped s s.team = false ∧ launchStopped off off.team = true ∧ other.team.card.job ≠ 4 := by decide +kernel
theorem witness_QueuesEnd_open :
    let q : Queue := { tQueue with dropping := true, sealat := some 0, status := 1 }
    let s (cs : List Card) (st : Nat) : State := let s := withCards cs
      { s with sched := { s.sched with queues := [q], levels := s.sched.levels.map fun l => { l with state := st } } }
    queueOf (s [tCard 0 1 1 (launchBytes 0)] 2) tQueue.id = some q ∧ openCards (s [tCard 0 1 1 (launchBytes 0)] 2) tQueue.id ≠ 0
      ∧ ((levelRec (s [] 0) q.job).map (·.state)) = some 0 ∧ openCards (s [] 2) tQueue.id = 0 ∧ 0 ≤ q.head
      ∧ ∀ y, y ∈ (s [] 2).sched.levels → 2 ≤ y.state := by decide +kernel
theorem witness_MatrixEngines_ends :
    let s (ks : List Task) : State := withTasks ks
    (tTask 0 false tRecord).ended = none ∧ (tTask 0 true tRecord).due = [] ∧ coreShare (s []) 0 < 512 ∧ (s []).posted = []
      ∧ (s []).team.ord.cover ≤ (s []).team.ord.seq + 1 ∧ ([tTask 0 true tRedundant].map (·.id)).Nodup
      ∧ (∀ y, y ∈ (s [tTask 0 true tRecord]).eng.tasks → y.due = [] ∧ y.ended = none) := by decide +kernel
/-- The elements of the one block of that task stand apart in local memory. -/
theorem witness_MatrixEngines_apart :
    let c := operandOf tRecord 2 0
    let la (m n : Nat) : Nat := lmAddr 0 (operandLa c m 0 (4 * n))
    ∀ m n m' n', m < 64 → n < 64 → m' < 64 → n' < 64 → ¬ (m = m' ∧ n = n') → la m n + 4 ≤ la m' n' ∨ la m' n' + 4 ≤ la m n := by
  have h : ((List.range 64).all fun m => (List.range 64).all fun n =>
      lmAddr 0 (operandLa (operandOf tRecord 2 0) m 0 (4 * n)) == 0x4000 + 256 * m + 4 * n) = true := by decide +kernel
  intro c la m n m' n' hm hn hm' hn' hne
  have e (i j : Nat) (hi : i < 64) (hj : j < 64) : la i j = 0x4000 + 256 * i + 4 * j := by
    simpa using List.all_eq_true.1 (List.all_eq_true.1 h i (List.mem_range.2 hi)) j (List.mem_range.2 hj)
  rw [e m n hm hn, e m' n' hm' hn']
  omega
theorem witness_CopyCompletion_clocked :
    let c := tJob (tmplBytes []) 0x200A00 fun c => { c with moved := true }
    copyOf (withJob c) 0 = some c ∧ clocked (withJob c) c.core = true ∧ clocked (withStopped (withJob c)) c.core = false := by decide +kernel
theorem witness_CollectiveEngine_clocked :
    let a := tGather id
    let b := tGather fun c => { c with written := [(0, 0), (1, 0)], appended := [(0, 0)] }
    clocked (withGather a) a.core = true ∧ clocked (withStopped (withGather a)) a.core = false ∧ (withStopped (withGather a)).fw.lev.state = 0
      ∧ (b.written.filter (!b.appended.contains ·)).head? = some (1, 0) ∧ goesOut (withGather a) a = false ∨ sealed (withGather a) = false := by
  decide +kernel
theorem witness_GroupRecovery_member :
    let s := asMember { tGroup with root := 7 } id
    groupOf s 3 = some { tGroup with root := 7 } ∧ 7 ≠ s.link.moduleId := by decide +kernel
theorem witness_StampedRequests_reports :
    let g : Group := { tGroup with root := 7, unread := 63 }
    let s := asMember g id
    groupOf s 3 = some g ∧ g.root ≠ s.link.moduleId ∧ 63 ≤ g.unread ∧ s.posted = [] ∧ (∀ e, e ∈ s.sb → e.marked = false)
      ∧ (asMember tGroup id).posted = [] := by decide +kernel

theorem witness_CoherenceMessages_asked :
    let m := tMsg 0x200010
    let stash := withHolders [(64, .S)] false true
    let marked : State := { tState with sb := [{ tStore with core := 16, marked := true }] }
    let held := withHolders [(1, .M)] true false
    msgSecs m = [0x200000] ∧ msgSecs { m with stash := some 0 } = [0x200000] ∧ m.stash = none
      ∧ (stashHolder stash 0 1 0x200000).isSome = true ∧ copyState stash 0 1 0x200000 = .I ∧ msgTaken stash m = true
      ∧ stashHolder held 0 1 0x200000 = none ∧ copyState held 1 1 0x200000 = .M
      ∧ (marked.sb.map fun e => (e.marked, e.asid, e.sector, decide (e.core / 16 ≠ m.cluster))) = [(true, 1, 0x200000, true)]
      ∧ slotVictim marked 0 (1, 0x2000) = none ∧ copyState marked 0 1 0x200000 = .I := by decide +kernel
theorem witness_SectorMasks :
    let m : BusMsg := { tMsg 0x200010 with sectors := 0xF }
    m.sectors = (0x3 : BitVec 4) ||| 0xC ∧ (∀ i, i < 4 → ∀ j, j < 4 → (0x3 : BitVec 4).getLsbD i = true → (0xC : BitVec 4).getLsbD j = true → i < j)
      ∧ msgSecs m = [0x200000, 0x200040, 0x200080, 0x2000C0] := by decide +kernel
theorem witness_DataMessages_due :
    let m := tMsg 0x200000
    let d (by_ : Option Nat) : DataDue := { holder := 0, asid := 1, sec := 0x200000, tag := 0, supplier := by_ }
    let s (ds : List DataDue) : State := { tState with fab := { tState.fab with due := ds } }
    let late : State := { s [d none] with fab := { (s [d none]).fab with evicts := [(1, 0x200000)] } }
    let own : State := { s [d (some 0)] with sb := [tStore] }
    (∀ x, x ∈ [d none, d (some 0)] → x.holder = 0 ∧ x.asid = m.asid ∧ x.sec = 0x200000 ∧ x.tag = m.tag)
      ∧ (s []).fab.due = [] ∧ (s [d none]).fab.due = [] ++ d none :: [] ∧ (m.asid, 0x200000) ∉ (s [d none]).fab.evicts
      ∧ (m.asid, 0x200000) ∈ late.fab.evicts ∧ (d none).supplier = none ∧ (s [d none]).sb = []
      ∧ (own.sb.all fun e => e.asid = 1 && e.sector = 0x200000 && e.covers = 0 && !e.held && !e.sent && e.core / 16 = 0) = true ∧ own.sb ≠ []
      ∧ m.stash = none ∧ m.cluster < 64 := by decide +kernel
theorem witness_DataMessages_far :
    let s := withFar id
    let m : BusMsg := { tMsg 0x210080 with sectors := 4 }
    let z : State := { s with fab := { s.fab with evicts := [(1, 0x210080)] } }
    msgSecs m = [0x210080] ∧ (1, 0x210080) ∈ z.fab.evicts ∧ m.stash = none ∧ homePlace z 1 0x210080 = .far 1 0x50080
      ∧ dirtyCopy z 1 0x210080 = false := by decide +kernel
theorem witness_RegionCommands_first :
    (regionSet tState 1 3 0).xl.leaving = [] ∧ (1 : Nat) < 2 ^ 14 := by decide +kernel
theorem witness_TeamCommands_image :
    let resume (s : State) : State := asked s 0x0A [(0x50, 8, tHandle)]
    let away : State := let s := resume (withHalted 0)
      { s with xl := { s.xl with pages := s.xl.pages.filter fun p => p.vpage ≠ tHandle / 65536 } }
    let mark : State := { resume (withHalted 0) with sb := [tMark 0 tHandle] }
    let ready := resume (withHalted 0)
    (∀ s, s ∈ [away, mark, ready] → asks s 0x0A = true ∧ teamOf s tHandle = some s.team ∧ s.team.place.run = 3 ∧ crewOf s s.team = [tHandle])
      ∧ present away (hwWho (teamDomain away away.team) 0) tHandle 0x13000 = false
      ∧ present mark (hwWho (teamDomain mark mark.team) 0) tHandle 0x13000 = true
      ∧ gateWaits mark (hwWho (teamDomain mark mark.team) 0 tHandle) tHandle 0x13000 = true
      ∧ gateWaits ready (hwWho (teamDomain ready ready.team) 0 tHandle) tHandle 0x13000 = false := by decide +kernel

end Sys2Proof.Tests
end

section
/-! PROOF. The focus team's registers across a stop: the hardware's own writes keep every team, and a stop that is delivered enters the handler
with the registers as they stood (R332, R354). -/

namespace Sys2Proof.Machine

/-- Nothing has changed but what the homes of virtual memory, the hardware's own writes to it and the ports under them hold. -/
def AtHomes (s t : State) : Prop :=
  t = { s with
    mem := t.mem, posted := t.posted, hand := t.hand, xl := t.xl, fab := t.fab, link := t.link, hostp := t.hostp }

namespace AtHomes

theorem refl (s : State) : AtHomes s s := rfl

theorem trans {s t u : State} (h : AtHomes s t) (k : AtHomes t u) : AtHomes s u := by
  unfold AtHomes at h k ⊢
  rw [k, h]

theorem of_fabOnly {s t : State} (h : FabOnly s t) : AtHomes s t := by
  unfold AtHomes
  rw [h]

theorem setFab (s : State) (f : Fabric) : AtHomes s { s with fab := f } := rfl

theorem setHostp (s : State) (p : HostPorts) : AtHomes s { s with hostp := p } := rfl

theorem setPosted (s : State) (ps : List Posted) : AtHomes s { s with posted := ps } := rfl

theorem team {s t : State} (h : AtHomes s t) : t.team = s.team := by rw [h]

theorem foldl {α : Type} {f : State → α → State} (h : ∀ s x, AtHomes s (f s x)) (l : List α) (s : State) :
    AtHomes s (l.foldl f s) := by
  induction l generalizing s with
  | nil => exact refl s
  | cons x l ih => exact (h s x).trans (ih _)

end AtHomes

/-! The ports: a message to an adapter (R405, R416). -/

theorem atHomes_setPort (s : State) (n : Nat) (p : Port) : AtHomes s (setPort s n p) := rfl

theorem atHomes_sendFlit (s : State) (port chan : Nat) (first last : Bool) (payload : List Byte) :
    AtHomes s (sendFlit s port chan first last payload) := rfl

theorem atHomes_sendOn (s : State) (port chan : Nat) (p : Packet) : AtHomes s (sendOn s port chan p) := by
  unfold sendOn
  dsimp only
  split
  · exact AtHomes.foldl (fun s _ => atHomes_sendFlit s ..) _ s
  · exact atHomes_setPort ..

theorem atHomes_hostSend (s : State) (adapter : Nat) (m : LinkMsg) : AtHomes s (hostSend s adapter m) := by
  unfold hostSend
  split
  · exact atHomes_sendOn ..
  · exact AtHomes.refl s

/-! The homes: data that is written there or waited for, and the requests that an access sends as it waits (R395, R419, R420). -/

theorem atHomes_writeHome (s : State) (tag sec : Nat) : AtHomes s (writeHome s tag sec) := by
  unfold writeHome
  split
  · exact (AtHomes.setHostp s _).trans (atHomes_hostSend ..)
  · exact AtHomes.refl s

theorem atHomes_landData (s : State) (tag sec : Nat) : AtHomes s (landData s tag sec) := by
  unfold landData landEvict
  dsimp only
  split
  · rfl
  · split
    · exact (AtHomes.setFab s _).trans (atHomes_writeHome ..)
    · exact AtHomes.refl s

theorem atHomes_askHosts (s : State) (blk : Bool) (place : Nat) (adapters : List Nat) :
    AtHomes s (askHosts s blk place adapters) :=
  AtHomes.foldl (fun s _ => (AtHomes.setHostp s _).trans (atHomes_hostSend ..)) adapters s

theorem atHomes_askGate (s : State) (w : Who) (va : Nat) : AtHomes s (askGate s w va) := by
  unfold askGate
  dsimp only
  split
  case h_1 => exact AtHomes.refl s
  case h_2 =>
    split
    · split
      · exact atHomes_landData ..
      · exact AtHomes.refl s
    · split
      · exact AtHomes.refl s
      · exact (AtHomes.setHostp s _).trans (atHomes_hostSend ..)
  case h_3 =>
    split
    · exact AtHomes.refl s
    · split
      · split
        · exact AtHomes.refl s
        · exact atHomes_askHosts ..
      · split
        · exact atHomes_landData ..
        · exact AtHomes.refl s

/-! A write of the hardware, made or left waiting (R116, R419). -/

theorem atHomes_byteInto (s : State) (x : Where) (b : Byte) : AtHomes s (byteInto s x b) := by cases x <;> rfl

theorem atHomes_markDirty (s : State) (tag va : Nat) : AtHomes s (markDirty s tag va) := by
  unfold AtHomes
  rw [markDirty_fields]

theorem atHomes_handFill (s : State) (cl sec : Nat) : AtHomes s (handFill s cl sec) := by
  unfold AtHomes
  rw [handFill_only]

theorem atHomes_writeByte (s : State) (w : Who) (va : Nat) (b : Byte) : AtHomes s (writeByte s w va b) := by
  have dirty := atHomes_markDirty s (tagOf w.asid va) va
  unfold writeByte
  dsimp only
  split
  · split
    · split
      · exact (dirty.trans (atHomes_handFill ..)).trans rfl
      · exact (dirty.trans (atHomes_handFill ..)).trans (atHomes_byteInto ..)
    · exact dirty.trans (atHomes_byteInto ..)
  · exact dirty.trans (atHomes_byteInto ..)

theorem atHomes_writeBytes (w : Who) (bs : List Byte) (s : State) (va : Nat) : AtHomes s (writeBytes s w va bs) := by
  induction bs generalizing s va with
  | nil => exact AtHomes.refl s
  | cons b bs ih => exact (atHomes_writeByte s w va b).trans (ih _ _)

theorem atHomes_settleFar (s : State) (p : Posted) : AtHomes s (settleFar s p) := by
  unfold settleFar
  split
  · exact AtHomes.refl s
  · refine AtHomes.foldl (fun s x => ?_) _ s
    dsimp only
    split
    · exact AtHomes.refl s
    · exact (atHomes_writeHome ..).trans (.of_fabOnly (fabOnly_useHome ..))

theorem atHomes_hwPost (s : State) (p : Posted) : AtHomes s (hwPost s p) := by
  unfold hwPost
  split
  · exact (AtHomes.setPosted s _).trans (AtHomes.foldl (fun s x => atHomes_askGate s _ x) _ _)
  · exact (atHomes_writeBytes ..).trans (atHomes_settleFar ..)

theorem atHomes_teamWrite (s : State) (t : Team) (va : Nat) (bs : List Byte) : AtHomes s (teamWrite s t va bs) :=
  atHomes_hwPost ..

/-! Stop records and the handler's entry (R332, R354, R360). -/

/-- A record in the focus team's fault area changes no more of the team than which slots are inner ones. -/
theorem putSlots_focus (s : State) (k : Nat) (bs : List Byte) :
    (putSlots s s.team k bs).team
      = { s.team with ord := { s.team.ord with inner := innerAfter s.team.ord.inner k (bs.length / 64) } } := by
  have written := ((atHomes_teamWrite s s.team (s.team.card.fault + 64 * k + 8) (bs.drop 8)).trans
    (atHomes_teamWrite _ s.team (s.team.card.fault + 64 * k) (bs.take 8))).team
  simp only [putSlots, updTeam, written, if_true]

/-- A stop that is delivered leaves its record in the lowest free slots and enters the handler. -/
theorem takeStop_delivered {s : State} {st : Stop} (h : delivers s st = true) :
    ∃ k, freeSlots s s.team (if st.four then 4 else 1) = some k
      ∧ takeStop s st = setTeam (putSlots s s.team k (stopBytes st st.cause st.reason))
          (enterHandler (putSlots s s.team k (stopBytes st st.cause st.reason)).team
            (stopWord st.cause st.reason st.code false true s.team.ord.expired) (BitVec.ofNat 64 (s.team.card.fault + 64 * k))) := by
  unfold delivers at h
  simp only [Bool.and_eq_true, Bool.not_eq_true', decide_eq_true_eq] at h
  obtain ⟨⟨⟨⟨⟨⟨hhandler, hcause⟩, hbreak⟩, hdebug⟩, hreq⟩, hhalting⟩, hslot⟩ := h
  obtain ⟨k, hk⟩ := Option.isSome_iff_exists.1 hslot
  have hnotHalt : ¬ (st.cause = 0x1C ∨ st.cause = 0x1D) := by omega
  have hfree : haltsFor s.team st.cause = none := by
    have halways : alwaysHalts st.cause = false := by
      simp only [alwaysHalts, Bool.and_eq_false_iff, decide_eq_false_iff_not]
      omega
    simp only [haltsFor, halways, hbreak, hdebug, hreq, hhalting, Bool.or_self, Bool.false_eq_true, if_false]
  refine ⟨k, hk, ?_⟩
  simp [takeStop, hhandler, hnotHalt, hk, hfree]

/-- The handler finds every register as it stood (R332). -/
theorem takeStop_delivered_regs {s : State} {st : Stop} (h : delivers s st = true) : (takeStop s st).team.regs = s.team.regs := by
  obtain ⟨k, -, entered⟩ := takeStop_delivered h
  simp only [entered, setTeam_team, enterHandler, putSlots_focus]

end Sys2Proof.Machine
end

section
/-! PROOF. The band register (R52, R195, R244). -/

namespace Sys2Proof.Machine

theorem exec_csrw (a : SReg) (n : BitVec 12) (s : State) : exec (.csrw a n) s = execCsrw a n s := rfl

theorem exec_vband (f : LaneFields) (s : State) : exec (.vband f) s = execVband f s := rfl

@[simp] theorem laneStop_cause (s : State) (cause va : Nat) (lanes : Lanes) (reason : Nat) :
    (laneStop s cause va lanes reason).cause = cause := by
  unfold laneStop
  split <;> rfl

/-- The size codes that are not reserved (R52). -/
theorem bandOk_iff {c : Nat} : bandOk c = true ↔ 1 ≤ c ∧ c ≤ 5 := by simp [bandOk]

/-- The band sizes of R244 are those of the size codes of R52. -/
theorem isBandSize_iff {x : Nat} :
    (x = 2 || x = 4 || x = 8 || x = 16 || x = 32) = true ↔ ∃ k, 1 ≤ k ∧ k ≤ 5 ∧ x = 2 ^ k := by
  constructor
  · simp only [Bool.or_eq_true, decide_eq_true_eq]
    rintro ((((rfl | rfl) | rfl) | rfl) | rfl)
    · exact ⟨1, by decide⟩
    · exact ⟨2, by decide⟩
    · exact ⟨3, by decide⟩
    · exact ⟨4, by decide⟩
    · exact ⟨5, by decide⟩
  · rintro ⟨k, hlow, hhigh, rfl⟩
    have codes : k = 1 ∨ k = 2 ∨ k = 3 ∨ k = 4 ∨ k = 5 := by omega
    rcases codes with rfl | rfl | rfl | rfl | rfl <;> rfl

/-- `csrw` of BAND keeps the low three bits of an assigned code, and traps at a reserved one. -/
theorem exec_csrw_band (a : SReg) (s : State) :
    exec (.csrw a 5) s =
      if bandOk ((readReg s a).toNat % 8) then
        .next (advance (setRegs s { s.team.regs with band := (readReg s a).truncate 3 }))
      else .next (takeStop s (scalarStop s 0x03)) := by
  have written : csrWritten s (5 : BitVec 12).toNat (readReg s a) =
      if bandOk ((readReg s a).toNat % 8) then .ok (setRegs s { s.team.regs with band := (readReg s a).truncate 3 })
      else trapping s 0x03 := rfl
  rw [exec_csrw, execCsrw, written]
  cases bandOk ((readReg s a).toNat % 8) <;> rfl

/-- A legal `vband` sets the code of its size and is past, or traps. -/
theorem exec_vband_legal {f : LaneFields} {s : State} (legal : laneLegal s.team.card.v 0x181 f = true) {x : Nat}
    (hx : x = readOp s.team f 1 3 0) :
    exec (.vband f) s =
      if x = 2 || x = 4 || x = 8 || x = 16 || x = 32 then
        .next (popWord (setRegs s { s.team.regs with band := BitVec.ofNat 3 (ilog2 x) }))
      else .next (takeStop s (laneStop s 0x03)) := by
  rw [exec_vband, execVband, laneWord, if_pos legal, hx]
  rfl

/-- A `csrw` of an assigned code sets it, and bands are then as many lanes (R52). -/
theorem csrw_band_sets (s : State) (a : SReg) (hlow : 1 ≤ (readReg s a).toNat % 8) (hhigh : (readReg s a).toNat % 8 ≤ 5) :
    ∃ t, exec (.csrw a 5) s = .next t ∧ t.team.regs.band.toNat = (readReg s a).toNat % 8
      ∧ bandSize t.team = 2 ^ ((readReg s a).toNat % 8) := by
  have code : ((readReg s a).truncate 3).toNat = (readReg s a).toNat % 8 := BitVec.toNat_setWidth ..
  refine ⟨_, (exec_csrw_band a s).trans (if_pos (bandOk_iff.2 ⟨hlow, hhigh⟩)), ?_, ?_⟩
  · exact code
  · exact congrArg (2 ^ ·) code

/-- A `csrw` of a reserved code traps, and the register stands in the handler (R52). -/
theorem csrw_band_traps (s : State) (a : SReg) (reserved : (readReg s a).toNat % 8 = 0 ∨ 6 ≤ (readReg s a).toNat % 8) :
    ∃ st, exec (.csrw a 5) s = .next (takeStop s st) ∧ st.cause = 0x03
      ∧ (delivers s st = true → (takeStop s st).team.regs.band = s.team.regs.band) := by
  have notOk : ¬ bandOk ((readReg s a).toNat % 8) = true := by
    rw [bandOk_iff]
    omega
  exact ⟨_, (exec_csrw_band a s).trans (if_neg notOk), rfl, fun h => by rw [takeStop_delivered_regs h]⟩

/-- A `vband` of a band size sets its code, and nothing else changes but the lane stream past the word (R244). -/
theorem vband_sets {s : State} {f : LaneFields} (legal : laneLegal s.team.card.v 0x181 f = true) {x k : Nat}
    (hx : x = readOp s.team f 1 3 0) (hlow : 1 ≤ k) (hhigh : k ≤ 5) (size : x = 2 ^ k) :
    ∃ t, exec (.vband f) s = .next t ∧ t.team.regs = { s.team.regs with band := BitVec.ofNat 3 k }
      ∧ t.team.lane = pastWord s.team.lane ∧ bandSize t.team = x
      ∧ t = { s with team := { s.team with regs := t.team.regs, lane := t.team.lane } } := by
  have log : ilog2 x = k := by rw [size, ilog2, Nat.log2_two_pow]
  have code : (BitVec.ofNat 3 k).toNat = k := Nat.mod_eq_of_lt (by omega)
  have runs := (exec_vband_legal legal hx).trans (if_pos (isBandSize_iff.2 ⟨k, hlow, hhigh, size⟩))
  rw [log] at runs
  refine ⟨_, runs, rfl, rfl, ?_, rfl⟩
  rw [size]
  exact congrArg (2 ^ ·) code

/-- A `vband` of any other value traps, and the register stands in the handler (R52, R244). -/
theorem vband_traps {s : State} {f : LaneFields} (legal : laneLegal s.team.card.v 0x181 f = true) {x : Nat}
    (hx : x = readOp s.team f 1 3 0) (other : ∀ k, 1 ≤ k → k ≤ 5 → x ≠ 2 ^ k) :
    ∃ st, exec (.vband f) s = .next (takeStop s st) ∧ st.cause = 0x03
      ∧ (delivers s st = true → (takeStop s st).team.regs.band = s.team.regs.band) := by
  have noSize : ¬ (x = 2 || x = 4 || x = 8 || x = 16 || x = 32) = true := by
    rw [isBandSize_iff]
    rintro ⟨k, hlow, hhigh, size⟩
    exact other k hlow hhigh size
  exact ⟨_, (exec_vband_legal legal hx).trans (if_neg noSize), laneStop_cause .., fun h => by rw [takeStop_delivered_regs h]⟩

/-- Settles O12: each word's one branch on its code or size decides between the write and the stop, which keeps the registers. -/
theorem bandRegister : Obligations.BandRegister := by
  unfold Obligations.BandRegister
  exact ⟨csrw_band_sets, csrw_band_traps, fun _ _ _ legal hx =>
    ⟨fun _ hlow hhigh size => vband_sets legal hx hlow hhigh size, vband_traps legal hx⟩⟩

end Sys2Proof.Machine
end

section
/-! PROOF. The corners of division (R166). -/

namespace Sys2Proof.Machine

/-! The results by zero. -/

theorem divSigned_zero (x : Word) : divSigned x 0 = 0xFFFFFFFFFFFFFFFF := if_pos rfl

theorem divUnsigned_zero (x : Word) : divUnsigned x 0 = 0xFFFFFFFFFFFFFFFF := if_pos rfl

theorem remSigned_zero (x : Word) : remSigned x 0 = x := if_pos rfl

theorem remUnsigned_zero (x : Word) : remUnsigned x 0 = x := if_pos rfl

/-! The results of -2^63 by -1, whose quotient 2^63 is no signed word and wraps. -/

theorem ne_zero_of_toInt_negOne {y : Word} (hy : y.toInt = -1) : y ≠ 0 := by
  rintro rfl
  exact absurd hy (by decide)

theorem divSigned_least_by_negOne {x y : Word} (hx : x.toInt = -2 ^ 63) (hy : y.toInt = -1) :
    (divSigned x y).toInt = -2 ^ 63 := by
  rw [divSigned, if_neg (ne_zero_of_toInt_negOne hy), hx, hy]
  decide

theorem remSigned_least_by_negOne {x y : Word} (hx : x.toInt = -2 ^ 63) (hy : y.toInt = -1) : remSigned x y = 0 := by
  rw [remSigned, if_neg (ne_zero_of_toInt_negOne hy), hx, hy]
  decide

/-- Each division instruction is a register-register operation, of a function with the corners of R166. -/
theorem exec_division {i : Instr} {d a b : SReg} (hi : i = .divS d a b ∨ i = .divZ d a b ∨ i = .remS d a b ∨ i = .remZ d a b) :
    ∃ f : Word → Word → Word, (∀ s, exec i s = alu2 f d a b s)
      ∧ (∀ x, f x 0 = if i = .divS d a b ∨ i = .divZ d a b then 0xFFFFFFFFFFFFFFFF else x)
      ∧ ∀ x y : Word, x.toInt = -2 ^ 63 → y.toInt = -1 →
          (i = .divS d a b → (f x y).toInt = -2 ^ 63) ∧ (i = .remS d a b → f x y = 0) := by
  rcases hi with rfl | rfl | rfl | rfl
  · exact ⟨divSigned, fun _ => rfl, fun x => (divSigned_zero x).trans (if_pos (.inl rfl)).symm,
      fun _ _ hx hy => ⟨fun _ => divSigned_least_by_negOne hx hy, nofun⟩⟩
  · exact ⟨divUnsigned, fun _ => rfl, fun x => (divUnsigned_zero x).trans (if_pos (.inr rfl)).symm,
      fun _ _ _ _ => ⟨nofun, nofun⟩⟩
  · exact ⟨remSigned, fun _ => rfl, fun x => (remSigned_zero x).trans (if_neg (by simp)).symm,
      fun _ _ hx hy => ⟨nofun, fun _ => remSigned_least_by_negOne hx hy⟩⟩
  · exact ⟨remUnsigned, fun _ => rfl, fun x => (remUnsigned_zero x).trans (if_neg (by simp)).symm,
      fun _ _ _ _ => ⟨nofun, nofun⟩⟩

/-- Settles O2: each word is a register-register operation, which changes only `sd` and the PC, of a function with the corners of
R166. -/
theorem divisionCorners : Obligations.DivisionCorners := by
  unfold Obligations.DivisionCorners
  intro d a b s hd i hi
  obtain ⟨f, runs, byZero, leastByNegOne⟩ := exec_division hi
  have result : readReg (finish s d (f (readReg s a) (readReg s b))) d = f (readReg s a) (readReg s b) := by
    rw [readReg_finish, if_pos ⟨rfl, hd⟩]
  obtain ⟨-, regs, team, -⟩ := finish_only s d (f (readReg s a) (readReg s b))
  refine ⟨_, runs s, (congrArg Regs.flags regs).trans rfl, (congrArg Team.sys team).trans rfl,
    (congrArg Team.place team).trans rfl, finish_pc .., ?_, ?_⟩
  · intro hb
    rw [result, hb, byZero]
  · intro ha hb
    rw [result]
    exact leastByNegOne _ _ ha hb

end Sys2Proof.Machine
end

section
/-! PROOF. What an L-word of the shared form leaves when its pattern is known modulo the width of its type, and the patterns that its
operands have (R47, R48, R60, R200, R204). -/

namespace Sys2Proof.Machine

/-! Types: their widths, and numbers that a type does not tell apart. -/

theorem widthOf_pos (ty : Nat) : 0 < widthOf ty := by
  unfold widthOf
  split <;> decide

theorem two_pow_eq_double {w : Nat} (hw : 0 < w) : 2 ^ w = 2 * 2 ^ (w - 1) := by
  rw [← Nat.pow_succ', Nat.succ_eq_add_one, Nat.sub_add_cancel hw]

/-- A power of two as an integer. -/
theorem cast_two_pow (w : Nat) : ((2 ^ w : Nat) : Int) = 2 ^ w := Int.natCast_pow 2 w

theorem cast_emod_two_pow {w a b : Nat} (h : a % 2 ^ w = b % 2 ^ w) : (a : Int) % 2 ^ w = (b : Int) % 2 ^ w := by
  rw [← cast_two_pow, ← Int.natCast_emod, ← Int.natCast_emod, h]

theorem two_pow_eq_double_int {w : Nat} (hw : 0 < w) : (2 : Int) ^ w = 2 * 2 ^ (w - 1) := by
  rw [← cast_two_pow, ← cast_two_pow, two_pow_eq_double hw]
  rfl

theorem widthOf_of_ty64 {ty : Nat} (h : ty64 ty = true) : widthOf ty = 64 := by
  simp only [ty64, Bool.or_eq_true, decide_eq_true_eq] at h
  rcases h with rfl | rfl <;> rfl

theorem toBits_lt (w : Nat) (x : Int) : toBits w x < 2 ^ w := by
  unfold toBits
  have := Nat.two_pow_pos w
  omega

theorem toBits_emod (w : Nat) (x : Int) : (toBits w x : Int) % 2 ^ w = x % 2 ^ w := by
  have positive := Nat.two_pow_pos w
  have cast : (toBits w x : Int) = x % ((2 ^ w : Nat) : Int) := Int.toNat_of_nonneg (Int.emod_nonneg _ (by omega))
  rw [cast, cast_two_pow]
  exact Int.emod_emod ..

/-- The number of a pattern is its two's complement (R60). -/
theorem sInt_toNat {w : Nat} (hw : 0 < w) (x : BitVec w) : sInt w x.toNat = x.toInt := by
  have half : 2 ^ w = 2 * 2 ^ (w - 1) := two_pow_eq_double hw
  have bound := x.isLt
  rw [sInt, BitVec.toInt_eq_toNat_cond, Nat.mod_eq_of_lt bound]
  split <;> split <;> omega

theorem inType_congr {ty : Nat} {a b : Int} (h : a % 2 ^ widthOf ty = b % 2 ^ widthOf ty) : inType ty a = inType ty b := by
  rw [inType, inType, Int.sub_emod a, Int.sub_emod b, h]

/-! The shared form of the L-words that write a vector register. -/

theorem flagsOf_zero (s : State) (f : LaneFields) : flagsOf s f (fun _ => 0) = 0 := by
  unfold flagsOf
  induction takerList s.team f with
  | nil => rfl
  | cons l ls ih =>
    have kept : (0 : Flags) ||| 0 = 0 := rfl
    rw [List.foldl_cons, kept]
    exact ih

/-- Values that a type does not tell apart leave the same bits. -/
theorem LaneWrote.congr {s t : State} {f : LaneFields} {ty : Nat} {val val' : Nat → Int} {fl : Flags}
    (h : LaneWrote s t f ty val fl) (same : ∀ l, val l % 2 ^ widthOf ty = val' l % 2 ^ widthOf ty) : LaneWrote s t f ty val' fl := by
  obtain ⟨written, rest⟩ := h
  exact ⟨fun l taken => (written l taken).trans (congrArg _ (inType_congr (same l))), rest⟩

/-- A legal word that raises no flag writes what its results are modulo the width of its type. -/
theorem vecWord_wrote_noFlags {op ty : Nat} {f : LaneFields} {s : State} (legal : laneLegal s.team.card.v op f = true)
    (one : Team → Nat → Nat) (val : Nat → Int)
    (same : ∀ l, (one s.team l : Int) % 2 ^ widthOf ty = val l % 2 ^ widthOf ty) :
    ∃ t, vecWord op ty f s (fun t l => (one t l, 0)) = .next t ∧ LaneWrote s t f ty val 0 := by
  obtain ⟨t, runs, wrote⟩ := vecWord_wrote op ty f s (fun t l => (one t l, 0)) legal
  rw [flagsOf_zero] at wrote
  exact ⟨t, runs, wrote.congr same⟩

/-! Operands: a pattern of the type's width, where predicates, specials and constants have one. -/

theorem vreg_lt (t : Team) (r l : Nat) : vreg t r l < 2 ^ 32 := BitVec.isLt _

theorem readOp_lt {ty : Nat} (codes : ∀ x, intCode ty x < 2 ^ widthOf ty) (t : Team) (f : LaneFields) (slot l : Nat) :
    readOp t f slot ty l < 2 ^ widthOf ty := by
  have narrowed (x : Nat) : x % 2 ^ widthOf ty < 2 ^ widthOf ty := Nat.mod_lt _ (Nat.two_pow_pos _)
  unfold readOp
  dsimp only
  split
  · split
    case isTrue wide =>
      have low := vreg_lt t (codeFor f slot) l
      have high := vreg_lt t (codeFor f slot + 1) l
      rw [widthOf_of_ty64 wide]
      omega
    case isFalse => exact narrowed _
  · split
    · exact narrowed _
    · split
      · exact codes _
      · split <;> exact codes _

theorem intCode_lt {ty : Nat} (h : isInt ty = true ∨ ty = 15) (x : Int) : intCode ty x < 2 ^ widthOf ty := by
  have pattern : (isInt ty || ty = 15) = true := by simpa using h
  rw [intCode, if_pos pattern]
  exact toBits_lt ..

end Sys2Proof.Machine
end

section
/-! PROOF. The arithmetic forms of the integer class (R204). -/

namespace Sys2Proof.Machine

theorem satOf_iff {f : LaneFields} : satOf f = true ↔ f.md.toNat % 2 = 1 := by simp [satOf, bit]

/-- The limits of a type (R60). -/
theorem clampInt_eq (ty : Nat) (x : Int) : clampInt ty x = max (leastOf ty) (min x (greatestOf ty)) := by
  have low : intMin ty = leastOf ty := by simp [intMin, leastOf]
  have high : intMax ty = greatestOf ty := by simp [intMax, greatestOf]
  have ordered : leastOf ty ≤ greatestOf ty := by
    have signed : (0 : Int) < 2 ^ (widthOf ty - 1) := Int.pow_pos (by decide)
    have unsigned : (0 : Int) < 2 ^ widthOf ty := Int.pow_pos (by decide)
    unfold leastOf greatestOf
    split <;> omega
  rw [clampInt, low, high]
  split
  · omega
  · split <;> omega

theorem abs_eq_natAbs (x : Int) : (if x < 0 then -x else x) = x.natAbs := by split <;> omega

theorem ediv_two_pow_eq_fdiv (x : Int) (w : Nat) : x / (2 ^ w : Nat) = x.fdiv (2 ^ w) := by
  rw [cast_two_pow, Int.fdiv_eq_ediv_of_nonneg x (Int.le_of_lt (Int.pow_pos (by decide)))]

/-- Each arithmetic form is the shared form, of the exact number of R204. -/
theorem exec_intNumber {i : Instr} {op : Nat} {f : LaneFields} {g : Int → Int → Int → Int} (word : laneOf i = some (op, f))
    (number : intNumber i (widthOf f.ty.toNat) = some g) (s : State) :
    exec i s = vecWord op f.ty.toNat f s fun t l =>
      (intResult f.ty.toNat (satOf f) (g (intOf f.ty.toNat (readOp t f 1 f.ty.toNat l))
        (intOf f.ty.toNat (readOp t f 2 f.ty.toNat l)) (intOf f.ty.toNat (readOp t f 3 f.ty.toNat l))), 0) := by
  unfold intNumber at number
  split at number <;> cases number <;> cases word
  case h_4 => -- vmulh
    simp only [← ediv_two_pow_eq_fdiv]
    rfl
  case h_6 => -- vabs
    simp only [← abs_eq_natAbs]
    rfl
  all_goals rfl

theorem laneIntegerArithmetic : Claims.LaneIntegerArithmetic := by
  intro s i op f g word legal number
  rw [exec_intNumber word number s]
  refine vecWord_wrote_noFlags legal _ _ fun l => ?_
  rw [intResult]
  simp only [satOf_iff, clampInt_eq]
  exact toBits_emod ..

end Sys2Proof.Machine
end

section
/-! PROOF. The bitwise, counting and bit field forms (R206, R207): the functions of the model are those of the patterns. -/

namespace Sys2Proof.Machine

/-! Shifts. -/

theorem sraBits_eq {w : Nat} (hw : 0 < w) (x : BitVec w) (n : Nat) : sraBits w x.toNat n = (x.sshiftRight n).toNat := by
  rw [sraBits, sInt_toNat hw, BitVec.sshiftRight, BitVec.toNat_ofInt, Int.shiftRight_eq_div_pow]
  rfl

/-- The two parts of a rotated pattern do not meet, so that their sum is the pattern. -/
theorem rotBits_eq {w : Nat} (x : BitVec w) {n : Nat} (hn : n < w) : rotBits w x.toNat n = (x.rotateLeft n).toNat := by
  have width : 2 ^ n * 2 ^ (w - n) = 2 ^ w := by rw [← Nat.pow_add, Nat.add_sub_cancel' (Nat.le_of_lt hn)]
  have wrapped : x.toNat / 2 ^ (w - n) < 2 ^ n := by
    rw [Nat.div_lt_iff_lt_mul (Nat.two_pow_pos _), width]
    exact x.isLt
  have shifted : x.toNat * 2 ^ n % 2 ^ w = 2 ^ n * (x.toNat % 2 ^ (w - n)) := by
    rw [← width, Nat.mul_comm, Nat.mul_mod_mul_left]
  rw [rotBits, BitVec.toNat_rotateLeft, Nat.mod_eq_of_lt hn, Nat.shiftLeft_eq, Nat.shiftRight_eq_div_pow, shifted,
    Nat.two_pow_add_eq_or_of_lt wrapped]

/-! Counts and reversal, by recursion on the width. -/

theorem clzBits_eq_find (n x : Nat) : clzBits n x = ((List.range n).find? fun k => x.testBit (n - 1 - k)).getD n := by
  induction n with
  | zero => rfl
  | succ n ih =>
    have top : x.testBit (n + 1 - 1 - 0) = decide (x / 2 ^ n % 2 = 1) := Nat.testBit_eq_decide_div_mod_eq
    have below : (fun k => x.testBit (n + 1 - 1 - k)) ∘ Nat.succ = fun k => x.testBit (n - 1 - k) := by
      funext k
      rw [Function.comp_apply, show n + 1 - 1 - k.succ = n - 1 - k by omega]
    rw [clzBits, List.range_succ_eq_map, List.find?_cons, top, List.find?_map, below, ih]
    by_cases h : x / 2 ^ n % 2 = 1
    · simp [h]
    · cases (List.range n).find? fun k => x.testBit (n - 1 - k) <;> simp [h, Nat.add_comm]

theorem find?_eq_of_mem {α : Type} {p q : α → Bool} {xs : List α} (same : ∀ x ∈ xs, p x = q x) : xs.find? p = xs.find? q := by
  induction xs with
  | nil => rfl
  | cons x xs ih =>
    rw [List.find?_cons, List.find?_cons, same x List.mem_cons_self, ih fun y hy => same y (List.mem_cons_of_mem x hy)]

theorem clzBits_eq {w : Nat} (x : BitVec w) : clzBits w x.toNat = ((List.range w).find? fun k => x.getMsbD k).getD w := by
  have same : ∀ k ∈ List.range w, x.toNat.testBit (w - 1 - k) = x.getMsbD k := by
    intro k hk
    rw [BitVec.getMsbD_eq_getLsbD, decide_eq_true (List.mem_range.1 hk), Bool.true_and, BitVec.testBit_toNat]
  rw [clzBits_eq_find, find?_eq_of_mem same]

theorem popBits_eq (n x : Nat) : popBits n x = (List.range n).countP fun k => x.testBit k := by
  induction n generalizing x with
  | zero => rfl
  | succ n ih =>
    rw [popBits, ih, List.range_succ_eq_map, List.countP_cons, List.countP_map]
    simp only [Function.comp_def, Nat.testBit_succ, Nat.testBit_zero, decide_eq_true_eq]
    split <;> omega

theorem revBits_lt (n x : Nat) : revBits n x < 2 ^ n := by
  induction n generalizing x with
  | zero => exact Nat.one_pos
  | succ n ih =>
    have rest := ih (x / 2)
    have low : x % 2 * 2 ^ n ≤ 1 * 2 ^ n := Nat.mul_le_mul_right _ (by omega)
    rw [revBits, Nat.pow_succ]
    omega

theorem testBit_revBits (n x i : Nat) : (revBits n x).testBit i = (decide (i < n) && x.testBit (n - 1 - i)) := by
  induction n generalizing x with
  | zero => simp [revBits]
  | succ n ih =>
    have low (j : Nat) : (x % 2).testBit j = (decide (j < 1) && x.testBit j) := Nat.testBit_mod_two_pow x 1 j
    rw [revBits, Nat.mul_comm, Nat.testBit_two_pow_mul_add _ (revBits_lt n _), ih, low, Nat.add_sub_cancel]
    split
    case isTrue below =>
      have place : n - i = n - 1 - i + 1 := by omega
      simp [below, place, Nat.testBit_succ, Nat.lt_succ_of_lt below]
    case isFalse above =>
      rcases Nat.eq_or_lt_of_le (Nat.le_of_not_lt above) with rfl | outside
      · simp
      · simp [show ¬ i - n < 1 by omega, show ¬ i < n + 1 by omega]

theorem revBits_eq {w : Nat} (x : BitVec w) : revBits w x.toNat = x.reverse.toNat := by
  refine Nat.eq_of_testBit_eq fun i => ?_
  rw [testBit_revBits, BitVec.testBit_toNat, BitVec.testBit_toNat, BitVec.getLsbD_reverse, BitVec.getMsbD_eq_getLsbD]

/-! Bit fields. -/

theorem sInt_of_lt {n x : Nat} (h : x < 2 ^ n) : sInt n x = if 2 ^ (n - 1) ≤ x then (x : Int) - 2 ^ n else x := by
  rw [sInt, Nat.mod_eq_of_lt h, cast_two_pow]
  split <;> split <;> omega

/-- A number with a field of its bits replaced, as the sum of its three parts. -/
theorem replaceField_parts (d m pos len : Nat) :
    d - bits d pos len * 2 ^ pos + m * 2 ^ pos = 2 ^ pos * (2 ^ len * (d / 2 ^ pos / 2 ^ len) + m) + d % 2 ^ pos := by
  have outer : 2 ^ pos * (d / 2 ^ pos) + d % 2 ^ pos = d := Nat.div_add_mod ..
  have inner : 2 ^ len * (d / 2 ^ pos / 2 ^ len) + bits d pos len = d / 2 ^ pos := Nat.div_add_mod ..
  rw [← inner, Nat.mul_add] at outer
  rw [Nat.mul_add, Nat.mul_comm _ (2 ^ pos), Nat.mul_comm m]
  omega

theorem testBit_replaceField (d a pos len i : Nat) :
    (d - bits d pos len * 2 ^ pos + a % 2 ^ len * 2 ^ pos).testBit i
      = if pos ≤ i ∧ i < pos + len then a.testBit (i - pos) else d.testBit i := by
  rw [replaceField_parts, Nat.testBit_two_pow_mul_add _ (Nat.mod_lt _ (Nat.two_pow_pos _)),
    Nat.testBit_two_pow_mul_add _ (Nat.mod_lt _ (Nat.two_pow_pos _))]
  simp only [Nat.testBit_mod_two_pow, Nat.testBit_div_two_pow]
  by_cases below : i < pos
  · rw [if_pos below, if_neg (by omega)]
    simp only [below, decide_true, Bool.true_and]
  · by_cases within : i - pos < len
    · simp [below, within, show pos ≤ i ∧ i < pos + len by omega]
    · simp [below, within, show ¬ (pos ≤ i ∧ i < pos + len) by omega, show i - pos - len + len + pos = i by omega]

/-- The mask of a field (R207). -/
def fieldMask (w pos len : Nat) : BitVec w := BitVec.ofNat w ((2 ^ len - 1) * 2 ^ pos)

theorem getLsbD_fieldMask {w pos len : Nat} (fits : pos + len ≤ w) (i : Nat) :
    (fieldMask w pos len).getLsbD i = decide (pos ≤ i ∧ i < pos + len) := by
  rw [fieldMask, BitVec.getLsbD_ofNat, Nat.testBit_mul_two_pow, Nat.testBit_two_pow_sub_one, Bool.eq_iff_iff]
  simp only [Bool.and_eq_true, decide_eq_true_eq]
  omega

/-- The masked form of R207 replaces the field. -/
theorem toNat_maskedField {w : Nat} (d x : BitVec w) {pos len : Nat} (fits : pos + len ≤ w) :
    ((d &&& ~~~fieldMask w pos len) ||| ((x <<< pos) &&& fieldMask w pos len)).toNat
      = d.toNat - bits d.toNat pos len * 2 ^ pos + x.toNat % 2 ^ len * 2 ^ pos := by
  refine Nat.eq_of_testBit_eq fun i => ?_
  rw [testBit_replaceField, BitVec.testBit_toNat, BitVec.testBit_toNat, BitVec.testBit_toNat, BitVec.getLsbD_or,
    BitVec.getLsbD_and, BitVec.getLsbD_and, BitVec.getLsbD_not, BitVec.getLsbD_shiftLeft, getLsbD_fieldMask fits]
  by_cases within : pos ≤ i ∧ i < pos + len
  · simp [within, show i < w by omega, show ¬ i < pos by omega]
  · by_cases inside : i < w
    · simp [within, inside]
    · simp [within, inside, BitVec.getLsbD_of_ge d i (by omega)]

theorem binsBits_eq {ty : Nat} (d x y z : BitVec (widthOf ty)) {pos len : Nat} (hpos : pos = y.toNat % widthOf ty)
    (hlen : len = min (z.toNat % 128) (widthOf ty - pos)) :
    binsBits ty d.toNat x.toNat y.toNat z.toNat
      = ((d &&& ~~~fieldMask _ pos len) ||| ((x <<< pos) &&& fieldMask _ pos len)).toNat := by
  have inside : pos < widthOf ty := hpos ▸ Nat.mod_lt _ (widthOf_pos ty)
  subst hpos hlen
  rw [toNat_maskedField d x (by omega)]
  rfl

theorem bextBits_eq {ty : Nat} (x y z : BitVec (widthOf ty)) {pos len n : Nat} (hpos : pos = y.toNat % widthOf ty)
    (hlen : len = min (z.toNat % 128) (widthOf ty - pos)) (hn : n = x.toNat / 2 ^ pos % 2 ^ len) :
    bextBits ty x.toNat y.toNat z.toNat % 2 ^ widthOf ty
      = (BitVec.ofInt (widthOf ty) (if isSigned ty ∧ 0 < len ∧ (2 ^ (len - 1) : Int) ≤ n then (n : Int) - 2 ^ len else n)).toNat := by
  have bound : n < 2 ^ len := hn ▸ Nat.mod_lt _ (Nat.two_pow_pos _)
  have value : bextBits ty x.toNat y.toNat z.toNat
      = if (0 < len && isSigned ty) = true then toBits (widthOf ty) (sInt len n) else n := by
    subst hpos hlen hn
    rfl
  have high : (2 ^ (len - 1) : Int) ≤ n ↔ 2 ^ (len - 1) ≤ n := by rw [← cast_two_pow, Int.ofNat_le]
  rw [value, BitVec.toNat_ofInt]
  by_cases widened : 0 < len ∧ isSigned ty = true
  · obtain ⟨nonempty, signed⟩ := widened
    have extended : (0 < len && isSigned ty) = true := by simp only [nonempty, signed, decide_true, Bool.and_self]
    rw [if_pos extended, Nat.mod_eq_of_lt (toBits_lt ..), sInt_of_lt bound, toBits]
    simp only [high, signed, nonempty, true_and]
  · have plain : ¬ (0 < len && isSigned ty) = true := by simpa only [Bool.and_eq_true, decide_eq_true_eq] using widened
    rw [if_neg plain, if_neg fun h => widened ⟨h.2.1, h.1⟩]
    rfl

/-! The forms. -/

theorem laneLegal_uses {V op : Nat} {f : LaneFields} (legal : laneLegal V op f = true) :
    ∃ u, laneUses op f.ty.toNat f.md.toNat f.b.toNat = some u := by
  unfold laneLegal at legal
  split at legal
  · cases legal
  · exact ⟨_, ‹_›⟩

theorem legal_of_uses {types modifier : Bool} {u v : Uses} (h : (if (types && modifier) = true then some u else none) = some v) :
    types = true := by
  cases types
  · cases h
  · rfl

/-- The forms of patterns are legal in the integer types and b32 (R203). -/
theorem bitForm_type {V op : Nat} {f : LaneFields} (form : 0x00C ≤ op ∧ op ≤ 0x018) (legal : laneLegal V op f = true) :
    isInt f.ty.toNat = true ∨ f.ty.toNat = 15 := by
  obtain ⟨u, uses⟩ := laneLegal_uses legal
  have bitwise (h : (isInt f.ty.toNat || f.ty.toNat = 15) = true) : isInt f.ty.toNat = true ∨ f.ty.toNat = 15 := by
    simpa only [Bool.or_eq_true, decide_eq_true_eq] using h
  have field (h : tyB f.ty.toNat = true) : isInt f.ty.toNat = true ∨ f.ty.toNat = 15 := by
    simp only [tyB, isInt, Bool.or_eq_true, decide_eq_true_eq] at h ⊢
    omega
  have codes : (op = 0x00C ∨ op = 0x00D ∨ op = 0x00E ∨ op = 0x00F ∨ op = 0x010 ∨ op = 0x011 ∨ op = 0x012 ∨ op = 0x013
      ∨ op = 0x014 ∨ op = 0x015 ∨ op = 0x016) ∨ op = 0x017 ∨ op = 0x018 := by omega
  rcases codes with h | h
  · rcases h with rfl | rfl | rfl | rfl | rfl | rfl | rfl | rfl | rfl | rfl | rfl <;> exact bitwise (legal_of_uses uses)
  · rcases h with rfl | rfl <;> exact field (legal_of_uses uses)

/-- An L-word is the shared form, of a function of its four operands that gives a pattern modulo the width of its type. -/
def GivesPattern (i : Instr) (op : Nat) (f : LaneFields) (ty : Nat)
    (g : BitVec (widthOf ty) → BitVec (widthOf ty) → BitVec (widthOf ty) → BitVec (widthOf ty) → BitVec (widthOf ty)) : Prop :=
  ∃ one : Nat → Nat → Nat → Nat → Nat,
    (∀ s, exec i s = vecWord op ty f s fun t l =>
      (one (readOp t f 0 ty l) (readOp t f 1 ty l) (readOp t f 2 ty l) (readOp t f 3 ty l), 0))
    ∧ ∀ d x y z, one d.toNat x.toNat y.toNat z.toNat % 2 ^ widthOf ty = (g d x y z).toNat

theorem bits1_givesPattern {i : Instr} {op : Nat} {f : LaneFields} (g : Nat → Nat → Nat) (runs : ∀ s, exec i s = bits1 op g f s)
    {h : BitVec (widthOf f.ty.toNat) → BitVec (widthOf f.ty.toNat)}
    (gives : ∀ x, g (widthOf f.ty.toNat) x.toNat % 2 ^ widthOf f.ty.toNat = (h x).toNat) :
    GivesPattern i op f f.ty.toNat fun _ x _ _ => h x :=
  ⟨fun _ x _ _ => g (widthOf f.ty.toNat) x % 2 ^ widthOf f.ty.toNat, runs, fun _ x _ _ => (Nat.mod_mod ..).trans (gives x)⟩

theorem bits2_givesPattern {i : Instr} {op : Nat} {f : LaneFields} (g : Nat → Nat → Nat → Nat)
    (runs : ∀ s, exec i s = bits2 op g f s)
    {h : BitVec (widthOf f.ty.toNat) → BitVec (widthOf f.ty.toNat) → BitVec (widthOf f.ty.toNat)}
    (gives : ∀ x y, g (widthOf f.ty.toNat) x.toNat y.toNat % 2 ^ widthOf f.ty.toNat = (h x y).toNat) :
    GivesPattern i op f f.ty.toNat fun _ x y _ => h x y :=
  ⟨fun _ x y _ => g (widthOf f.ty.toNat) x y % 2 ^ widthOf f.ty.toNat, runs, fun _ x y _ => (Nat.mod_mod ..).trans (gives x y)⟩

/-- Each form of patterns gives the pattern of R206 and R207. -/
theorem exec_bitPattern {i : Instr} {op ty : Nat} {f : LaneFields} {g} (word : laneOf i = some (op, f)) (hty : ty = f.ty.toNat)
    (pattern : bitPattern i (widthOf ty) (isSigned ty) = some g) : (0x00C ≤ op ∧ op ≤ 0x018) ∧ GivesPattern i op f ty g := by
  have amount (y : Nat) : y % widthOf ty < widthOf ty := Nat.mod_lt _ (widthOf_pos ty)
  subst hty
  unfold bitPattern at pattern
  split at pattern <;> cases pattern <;> cases word <;> refine ⟨by decide, ?_⟩
  · -- vand
    exact bits2_givesPattern (fun _ x y => x &&& y) (fun _ => rfl) fun x y => by rw [← BitVec.toNat_and, BitVec.toNat_mod_cancel]
  · -- vor
    exact bits2_givesPattern (fun _ x y => x ||| y) (fun _ => rfl) fun x y => by rw [← BitVec.toNat_or, BitVec.toNat_mod_cancel]
  · -- vxor
    exact bits2_givesPattern (fun _ x y => x ^^^ y) (fun _ => rfl) fun x y => by rw [← BitVec.toNat_xor, BitVec.toNat_mod_cancel]
  · -- vnot
    exact bits1_givesPattern (fun w x => 2 ^ w - 1 - x) (fun _ => rfl) fun x => by rw [← BitVec.toNat_not, BitVec.toNat_mod_cancel]
  · -- vshl
    exact bits2_givesPattern (fun w x y => x * 2 ^ (y % w)) (fun _ => rfl) fun x y => by rw [BitVec.toNat_shiftLeft, Nat.shiftLeft_eq]
  · -- vshr
    exact bits2_givesPattern (fun w x y => x / 2 ^ (y % w)) (fun _ => rfl) fun x y => by
      rw [← Nat.shiftRight_eq_div_pow, ← BitVec.toNat_ushiftRight, BitVec.toNat_mod_cancel]
  · -- vsra
    exact bits2_givesPattern (fun w x y => sraBits w x (y % w)) (fun _ => rfl) fun x y => by
      rw [sraBits_eq (widthOf_pos _), BitVec.toNat_mod_cancel]
  · -- vrot
    exact bits2_givesPattern (fun w x y => rotBits w x (y % w)) (fun _ => rfl) fun x y => by
      rw [rotBits_eq x (amount _), BitVec.toNat_mod_cancel]
  · -- vclz
    exact bits1_givesPattern clzBits (fun _ => rfl) fun x => by rw [clzBits_eq, BitVec.toNat_ofNat]
  · -- vpopc
    exact bits1_givesPattern popBits (fun _ => rfl) fun x => by rw [popBits_eq, BitVec.toNat_ofNat]; rfl
  · -- vbrev
    exact bits1_givesPattern revBits (fun _ => rfl) fun x => by rw [revBits_eq, BitVec.toNat_mod_cancel]
  · -- vbext
    exact ⟨fun _ => bextBits f.ty.toNat, fun _ => rfl, fun _ x y z => bextBits_eq x y z rfl rfl rfl⟩
  · -- vbins
    exact ⟨binsBits f.ty.toNat, fun _ => rfl,
      fun d x y z => (congrArg (· % _) (binsBits_eq d x y z rfl rfl)).trans (BitVec.toNat_mod_cancel _)⟩

theorem laneBitPatterns : Claims.LaneBitPatterns := by
  intro s i op f word legal ty w g pattern arg
  obtain ⟨form, one, runs, gives⟩ := exec_bitPattern word rfl pattern
  have read (slot l : Nat) : (arg slot l).toNat = readOp s.team f slot ty l :=
    Nat.mod_eq_of_lt (readOp_lt (intCode_lt (bitForm_type form legal)) ..)
  rw [runs s]
  refine vecWord_wrote_noFlags legal _ _ fun l => ?_
  have same := gives (arg 0 l) (arg 1 l) (arg 2 l) (arg 3 l)
  rw [read, read, read, read] at same
  exact cast_emod_two_pow (same.trans (BitVec.toNat_mod_cancel _).symm)

/-- Settles O28: each word is the shared form of the L-words, of the exact number or of the pattern of its operands. -/
theorem laneIntegerResults : Obligations.LaneIntegerResults :=
  ⟨laneIntegerArithmetic, laneBitPatterns⟩

end Sys2Proof.Machine
end

section
/-! PROOF. Division (R205). -/

namespace Sys2Proof.Machine

/-- Both words are the division form, of the quotient toward zero and its remainder, with the results by zero. -/
theorem exec_laneDivision {i : Instr} {op : Nat} {f : LaneFields} (word : (i = .vdiv f ∧ op = 0x006) ∨ (i = .vrem f ∧ op = 0x007))
    (s : State) :
    exec i s = divide op (fun x y => if op = 0x006 then (if y = 0 then -1 else x.tdiv y)
      else (if y = 0 then x else x - x.tdiv y * y)) f s := by
  rcases word with ⟨rfl, rfl⟩ | ⟨rfl, rfl⟩
  · rfl
  · have rest (x y : Int) : x - x.tdiv y * y = x.tmod y := by rw [Int.tmod_def, Int.mul_comm]
    simp only [rest]
    rfl

/-- The least value's opposite, one above the greatest, wraps to the least again. -/
theorem inType_neg_leastOf {ty : Nat} (signed : isSigned ty = true) : inType ty (-leastOf ty) = leastOf ty := by
  have width : (2 : Int) ^ widthOf ty = 2 * 2 ^ (widthOf ty - 1) := two_pow_eq_double_int (widthOf_pos ty)
  have least : leastOf ty = -2 ^ (widthOf ty - 1) := if_pos signed
  have wraps : -leastOf ty - leastOf ty = 2 ^ widthOf ty := by
    omega
  rw [inType, wraps, Int.emod_self, Int.zero_add]

theorem inType_zero {ty : Nat} (signed : isSigned ty = true) : inType ty 0 = 0 := by
  have width := two_pow_eq_double_int (widthOf_pos ty)
  have positive : (0 : Int) < 2 ^ (widthOf ty - 1) := Int.pow_pos (by decide)
  have least : leastOf ty = -2 ^ (widthOf ty - 1) := if_pos signed
  rw [inType, Int.emod_eq_of_lt (by omega) (by omega)]
  omega

theorem divide_wrote {op : Nat} {f : LaneFields} {s : State} (g : Int → Int → Int) (legal : laneLegal s.team.card.v op f = true)
    {ty : Nat} (hty : ty = f.ty.toNat) :
    ∃ t, divide op g f s = .next t
      ∧ LaneWrote s t f ty (fun l => g (intOf ty (readOp s.team f 1 ty l)) (intOf ty (readOp s.team f 2 ty l)))
          (flagsOf s f fun l => if intOf ty (readOp s.team f 2 ty l) = 0 then fDz else 0) := by
  subst hty
  obtain ⟨t, runs, wrote⟩ := vecWord_wrote op f.ty.toNat f s _ legal
  exact ⟨t, runs, wrote.congr fun l => toBits_emod ..⟩

/-- Settles O29: the division form, with the wrap of the one quotient that is out of its type. -/
theorem laneDivision : Obligations.LaneDivision := by
  intro s f i op word legal ty x y
  rw [exec_laneDivision word s]
  obtain ⟨t, runs, wrote⟩ := divide_wrote _ legal rfl
  refine ⟨t, runs, wrote, fun l taken signed least negOne => ?_⟩
  obtain ⟨written, -⟩ := wrote
  refine (written l taken).trans (congrArg _ ?_)
  have hx : intOf ty (readOp s.team f 1 ty l) = leastOf ty := least
  have hy : intOf ty (readOp s.team f 2 ty l) = -1 := negOne
  dsimp only
  rw [hx, hy]
  split
  · simpa using inType_neg_leastOf signed
  · simpa using inType_zero signed

end Sys2Proof.Machine
end

section
/-! PROOF. Selection (R208). -/

namespace Sys2Proof.Machine

theorem limited_le {greatest infinity code : Nat} {fl fl' : Flags} (h : greatest ≤ infinity) :
    (if greatest < code then (infinity, fl) else (code, fl')).1 ≤ infinity := by
  split
  · exact Nat.le_refl _
  · dsimp only
    omega

/-- An f32 magnitude rounded to nearest is no more than infinity's code (R67). -/
theorem roundMag_f32_le (m : Nat) (e : Int) : (roundMag 4 0 m e false).1 ≤ 0x7F800000 := by
  unfold roundMag
  simp only [show saturates 4 0 = false from rfl, show towardZero 0 = false from rfl, show infCode 4 = 0x7F800000 from rfl,
    show maxCode 4 = 0x7F7FFFFF from rfl, Bool.false_eq_true, if_false]
  exact limited_le (by decide)

theorem intCode_f32_lt (x : Int) : intCode 4 x < 2 ^ widthOf 4 := by
  have sign (neg : Bool) : signBit 4 neg ≤ 2 ^ 31 := by cases neg <;> decide
  have rounded : intCode 4 x = (roundTo 4 0 (.num (decide (x < 0)) x.natAbs 0)).1 := rfl
  have width : widthOf 4 = 32 := rfl
  have negative := sign (decide (x < 0))
  have magnitude := roundMag_f32_le x.natAbs 0
  rw [rounded, width, roundTo, if_neg (by decide)]
  dsimp only
  split
  · omega
  · dsimp only
    omega

theorem readOp_predicate {ty : Nat} (t : Team) (f : LaneFields) (slot l : Nat) (low : 1632 ≤ codeFor f slot)
    (high : codeFor f slot ≤ 1647) :
    readOp t f slot ty l = intCode ty (b2n ((predSet t (codeFor f slot - 1632)).getLsbD l)) := by
  have noVector : ¬ codeFor f slot < 1536 := by omega
  have noScalar : scaCode (codeFor f slot) = false := by
    simp only [scaCode, Bool.and_eq_false_iff, decide_eq_false_iff_not]
    omega
  have predicate : preCode (codeFor f slot) = true := by simp [preCode, low, high]
  simp [readOp, noVector, noScalar, predicate]

theorem intCode_f32_bit (b : Bool) : intCode 4 (b2n b) = if b then 0x3F800000 else 0 := by cases b <;> decide

theorem stored_f32 {c : Nat} (h : c < 2 ^ 32) : stored 4 (inType 4 c) = c := by
  have kept : extendR47 4 c = c % 2 ^ 32 := rfl
  rw [stored_inType, if_neg (by decide), kept, Nat.mod_mod, Nat.mod_eq_of_lt h]

theorem vsel_wrote {f : LaneFields} {s : State} (legal : laneLegal s.team.card.v 0x019 f = true) {ty : Nat} (hty : ty = f.ty.toNat) :
    ∃ t, exec (.vsel f) s = .next t ∧ LaneWrote s t f ty
      (fun l => if readOp s.team f 3 ty l ≠ 0 then readOp s.team f 1 ty l else readOp s.team f 2 ty l) 0 := by
  subst hty
  refine vecWord_wrote_noFlags legal _ _ fun l => ?_
  split <;> rfl

/-- Settles O30: `vsel` is the shared form, of one of two operands by the pattern of the third. -/
theorem laneSelect : Obligations.LaneSelect := by
  intro s f legal ty
  refine ⟨vsel_wrote legal rfl, ?_, ?_⟩
  · intro _ slot l low high
    rw [readOp_predicate s.team f slot l low high, intCode_f32_bit]
  · intro single l taken vector negZero
    obtain ⟨t, runs, written, -⟩ := vsel_wrote legal single.symm
    have selects : readOp s.team f 3 4 l = 0x80000000 := by
      simp [readOp, vector, negZero, ty64, widthOf]
    have narrow : readOp s.team f 1 4 l < 2 ^ 32 := readOp_lt intCode_f32_lt ..
    refine ⟨t, runs, (written l taken).trans ?_⟩
    dsimp only
    rw [selects, if_pos (by decide), stored_f32 narrow]

end Sys2Proof.Machine
end

section
/-! PROOF. The hardware's own writes (R116, R335, R419): the bytes that they may change, and all else that moves while they wait at their homes
or are sent on through an adapter. -/

namespace Sys2Proof.Machine

/-! Messages to the adapters, and the requests of an access that waits (R395, R416, R419, R420): no byte changes. -/

/-- Nothing has changed but the fabric and what is on its way to the adapters. -/
def Sent (s t : State) : Prop :=
  t = { s with
    fab := t.fab
    hostp := { s.hostp with farFills := t.hostp.farFills, farOut := t.hostp.farOut, snoops := t.hostp.snoops }
    link := { s.link with ports := t.link.ports, outbox := t.link.outbox } }

namespace Sent

theorem refl (s : State) : Sent s s := rfl

theorem trans {s t u : State} (h : Sent s t) (k : Sent t u) : Sent s u := by
  unfold Sent at h k ⊢
  rw [k, h]

theorem of_fabOnly {s t : State} (h : FabOnly s t) : Sent s t := by
  unfold Sent
  rw [h]

theorem foldl {α : Type} {f : State → α → State} (h : ∀ s x, Sent s (f s x)) (l : List α) (s : State) : Sent s (l.foldl f s) := by
  induction l generalizing s with
  | nil => exact refl s
  | cons x l ih => exact (h s x).trans (ih _)

theorem setFab (s : State) (f : Fabric) : Sent s { s with fab := f } := rfl

theorem setQueues (s : State) (fills : List (Nat × Nat)) (out : List FarReq) (snoops : List Snoop) :
    Sent s { s with hostp := { s.hostp with farFills := fills, farOut := out, snoops := snoops } } := rfl

theorem sameMap {s t : State} (h : Sent s t) : SameMap s t := sameMap_of (by rw [h]) (by rw [h])

theorem readByte {s t : State} (h : Sent s t) (w : Who) (va : Nat) : readByte t w va = readByte s w va :=
  readByte_congr h.sameMap (by rw [h]) (by rw [h]) (by rw [h]) w va

end Sent

theorem sent_sendFlit (s : State) (port chan : Nat) (first last : Bool) (payload : List Byte) :
    Sent s (sendFlit s port chan first last payload) := rfl

theorem sent_sendOn (s : State) (port chan : Nat) (p : Packet) : Sent s (sendOn s port chan p) := by
  unfold sendOn
  dsimp only
  split
  · exact Sent.foldl (fun s _ => sent_sendFlit s ..) _ s
  · rfl

theorem sent_hostSend (s : State) (adapter : Nat) (m : LinkMsg) : Sent s (hostSend s adapter m) := by
  unfold hostSend
  split
  · exact sent_sendOn ..
  · exact Sent.refl s

theorem sent_writeHome (s : State) (tag sec : Nat) : Sent s (writeHome s tag sec) := by
  unfold writeHome
  split
  · exact (Sent.setQueues s ..).trans (sent_hostSend ..)
  · exact Sent.refl s

theorem sent_landData (s : State) (tag sec : Nat) : Sent s (landData s tag sec) := by
  unfold landData landEvict
  dsimp only
  split
  · rfl
  · split
    · exact (Sent.setFab s _).trans (sent_writeHome ..)
    · exact Sent.refl s

theorem sent_askHosts (s : State) (blk : Bool) (place : Nat) (adapters : List Nat) : Sent s (askHosts s blk place adapters) :=
  Sent.foldl (fun s _ => (Sent.setQueues s ..).trans (sent_hostSend ..)) adapters s

theorem sent_askGate (s : State) (w : Who) (va : Nat) : Sent s (askGate s w va) := by
  unfold askGate
  dsimp only
  split
  case h_1 => exact Sent.refl s
  case h_2 =>
    split
    · split
      · exact sent_landData ..
      · exact Sent.refl s
    · split
      · exact Sent.refl s
      · exact (Sent.setQueues s ..).trans (sent_hostSend ..)
  case h_3 =>
    split
    · exact Sent.refl s
    · split
      · split
        · exact Sent.refl s
        · exact sent_askHosts ..
      · split
        · exact sent_landData ..
        · exact Sent.refl s

theorem sent_settleFar (s : State) (p : Posted) : Sent s (settleFar s p) := by
  unfold settleFar
  split
  · exact Sent.refl s
  · refine Sent.foldl (fun s x => ?_) _ s
    dsimp only
    split
    · exact Sent.refl s
    · exact (sent_writeHome ..).trans (.of_fabOnly (fabOnly_useHome ..))

/-! Bytes performed: the memories, the dirty bits and the handoff copies. -/

/-- Nothing has changed but the memories, the dirty bits and the fabric. -/
def Performed (s t : State) : Prop :=
  t = { s with
    mem := t.mem, hand := t.hand, fab := t.fab, hostp := { s.hostp with far := t.hostp.far }, xl := { s.xl with pages := t.xl.pages } }

theorem Performed.trans {s t u : State} (h : Performed s t) (k : Performed t u) : Performed s u := by
  unfold Performed at h k ⊢
  rw [k, h]

theorem performed_markDirty (s : State) (tag va : Nat) : Performed s (markDirty s tag va) := by
  obtain ⟨f, -, pages⟩ := markDirty_xl s tag va
  unfold Performed
  rw [markDirty_fields, pages]

theorem performed_handFill (s : State) (cl sec : Nat) : Performed s (handFill s cl sec) := by
  unfold Performed
  rw [handFill_only]

theorem performed_byteInto (s : State) (x : Where) (b : Byte) : Performed s (byteInto s x b) := by cases x <;> rfl

theorem performed_writeByte (s : State) (w : Who) (va : Nat) (b : Byte) : Performed s (writeByte s w va b) := by
  have dirty := performed_markDirty s (tagOf w.asid va) va
  unfold writeByte
  dsimp only
  split
  · split
    · split
      · exact (dirty.trans (performed_handFill ..)).trans rfl
      · exact (dirty.trans (performed_handFill ..)).trans (performed_byteInto ..)
    · exact dirty.trans (performed_byteInto ..)
  · exact dirty.trans (performed_byteInto ..)

theorem noFarPage_markDirty (s : State) (tag va : Nat) : noFarPage (markDirty s tag va) = noFarPage s := by
  obtain ⟨f, dirties, pages⟩ := markDirty_xl s tag va
  have kept (p : PageEntry) : (f p).far = p.far := by rcases dirties p with h | h <;> rw [h]
  simp only [noFarPage, pages, List.all_map, Function.comp_def, kept]

/-- Where no page is mapped to far memory, no byte lies there. -/
theorem whereIs_ne_far {s : State} (h : noFarPage s = true) (dom tag va a y : Nat) : whereIs s dom tag va ≠ .far a y := by
  intro far
  unfold whereIs at far
  split at far
  · cases far
  · next p found =>
    have near : p.far = none := Option.isNone_iff_eq_none.1 (List.all_eq_true.1 h p (List.mem_of_find?_eq_some found))
    rw [pagePlace, near] at far
    split at far <;> cases far

theorem noFarPage_byteInto (s : State) (x : Where) (b : Byte) : noFarPage (byteInto s x b) = noFarPage s := by cases x <;> rfl

theorem hostp_byteInto {s : State} {x : Where} (near : ∀ a y, x ≠ .far a y) (b : Byte) : (byteInto s x b).hostp = s.hostp := by
  cases x with
  | absent => rfl
  | dram p => rfl
  | far a y => exact absurd rfl (near a y)

theorem noFarPage_handFill (s : State) (cl sec : Nat) : noFarPage (handFill s cl sec) = noFarPage s := by
  rw [handFill_only]
  rfl

theorem noFarPage_writeByte (s : State) (w : Who) (va : Nat) (b : Byte) : noFarPage (writeByte s w va b) = noFarPage s := by
  have dirty := noFarPage_markDirty s (tagOf w.asid va) va
  unfold writeByte
  dsimp only
  split
  · split
    · split
      · exact (noFarPage_handFill ..).trans dirty
      · exact (noFarPage_byteInto ..).trans ((noFarPage_handFill ..).trans dirty)
    · exact (noFarPage_byteInto ..).trans dirty
  · exact (noFarPage_byteInto ..).trans dirty

/-- Where no page is mapped to far memory, a byte performed leaves the host's side as it was. -/
theorem hostp_writeByte {s : State} (h : noFarPage s = true) (w : Who) (va : Nat) (b : Byte) : (writeByte s w va b).hostp = s.hostp := by
  have near := whereIs_ne_far h w.domain (tagOf w.asid va) va
  have dirty : (markDirty s (tagOf w.asid va) va).hostp = s.hostp := by rw [markDirty_fields]
  unfold writeByte
  dsimp only
  split
  · split
    · split
      · exact (far_handFill ..).trans dirty
      · exact (hostp_byteInto near b).trans ((far_handFill ..).trans dirty)
    · exact (hostp_byteInto near b).trans dirty
  · exact (hostp_byteInto near b).trans dirty

/-! A write of the hardware, made or left waiting (R116, R419). -/

/-- What one or more of the hardware's own writes to a range leave: its bytes may change, more writes may wait, and the ports are used only where
one does or where pages lie in far memory. -/
structure HwWrote (s t : State) (w : Who) (va n : Nat) : Prop where
  frame : t = { s with
    mem := t.mem, hand := t.hand, posted := t.posted, fab := t.fab, xl := { s.xl with pages := t.xl.pages }
    hostp := { s.hostp with far := t.hostp.far, farFills := t.hostp.farFills, farOut := t.hostp.farOut, snoops := t.hostp.snoops }
    link := { s.link with ports := t.link.ports, outbox := t.link.outbox } }
  queued : s.posted <+: t.posted
  pages : noFarPage t = noFarPage s
  calm : t.posted = s.posted → noFarPage s = true → t.hostp = s.hostp ∧ t.link = s.link
  places : SameMap s t
  sectors : HandOk s → HandOk t
  elsewhere : HandOk s → ∀ w' a, (∀ i, i < n → placeOf s w' a ≠ placeOf s w (va + i)) → readByte t w' a = readByte s w' a

namespace HwWrote

theorem refl (s : State) (w : Who) (va n : Nat) : HwWrote s s w va n :=
  ⟨rfl, ⟨[], List.append_nil _⟩, rfl, fun _ _ => ⟨rfl, rfl⟩, SameMap.refl s, id, fun _ _ _ _ => rfl⟩

theorem placeOf {s t : State} {w : Who} {va n : Nat} (h : HwWrote s t w va n) (w' : Who) (a : Nat) :
    placeOf t w' a = placeOf s w' a := h.places.1 ..

theorem trans {s t u : State} {w : Who} {va n : Nat} (h : HwWrote s t w va n) (k : HwWrote t u w va n) : HwWrote s u w va n where
  frame := by
    have first := h.frame
    have second := k.frame
    rw [first] at second
    exact second
  queued := h.queued.trans k.queued
  pages := k.pages.trans h.pages
  calm := fun same near => by
    have between : t.posted = s.posted := (h.queued.eq_of_length_le (same ▸ k.queued.length_le)).symm
    obtain ⟨ports, links⟩ := h.calm between near
    obtain ⟨ports', links'⟩ := k.calm (same.trans between.symm) (h.pages.trans near)
    exact ⟨ports'.trans ports, links'.trans links⟩
  places := h.places.trans k.places
  sectors := k.sectors ∘ h.sectors
  elsewhere := fun ok w' a other => by
    have after : ∀ i, i < n → Machine.placeOf t w' a ≠ Machine.placeOf t w (va + i) := fun i hi => by
      rw [h.placeOf, h.placeOf]
      exact other i hi
    exact (k.elsewhere (h.sectors ok) w' a after).trans (h.elsewhere ok w' a other)

/-- Bytes of a range are bytes of a wider one. -/
theorem widen {s t : State} {w : Who} {va va' n n' : Nat} (h : HwWrote s t w va n) (low : va' ≤ va) (high : va + n ≤ va' + n') :
    HwWrote s t w va' n' :=
  { frame := h.frame, queued := h.queued, pages := h.pages, calm := h.calm, places := h.places, sectors := h.sectors
    elsewhere := fun ok w' a other => h.elsewhere ok w' a fun i hi => by
      have inside := other (va - va' + i) (by omega)
      rwa [show va' + (va - va' + i) = va + i by omega] at inside }

/-- A message sent where a write waits or pages lie in far memory. -/
theorem of_sent {s t : State} {ps : List Posted} (h : Sent { s with posted := ps } t) (queued : s.posted <+: ps)
    (stirs : ps = s.posted → noFarPage s = false) (w : Who) (va n : Nat) : HwWrote s t w va n := by
  have waiting : t.posted = ps := by rw [h]
  have moved : SameMap s { s with posted := ps } := sameMap_of rfl rfl
  refine ⟨?_, ?_, ?_, ?_, moved.trans h.sameMap, ?_, fun _ w' a _ => ?_⟩
  · rw [h]
  · rwa [waiting]
  · rw [h]
    rfl
  · intro same near
    rw [stirs (waiting.symm.trans same)] at near
    cases near
  · intro ok
    rw [h]
    exact ok
  · exact (h.readByte w' a).trans (readByte_congr moved rfl rfl rfl w' a)

theorem of_writeByte (s : State) (w : Who) (va : Nat) (b : Byte) : HwWrote s (writeByte s w va b) w va 1 := by
  have performed := performed_writeByte s w va b
  have link : (writeByte s w va b).link = s.link := by rw [performed]
  have posted : (writeByte s w va b).posted = s.posted := by rw [performed]
  refine ⟨?_, ?_, noFarPage_writeByte .., fun _ near => ⟨hostp_writeByte near .., link⟩, sameMap_writeByte ..,
    fun ok => handOk_writeByte ok w va b, ?_⟩
  · rw [performed]
  · exact ⟨[], (List.append_nil _).trans posted.symm⟩
  · exact fun ok w' a other => readByte_writeByte_other s w va b ok w' a (other 0 Nat.one_pos)

theorem of_writeBytes (w : Who) (bs : List Byte) (s : State) (va : Nat) : HwWrote s (writeBytes s w va bs) w va bs.length := by
  induction bs generalizing s va with
  | nil => exact refl ..
  | cons b bs ih =>
    have size : (b :: bs).length = bs.length + 1 := rfl
    exact ((of_writeByte s w va b).widen (Nat.le_refl va) (by omega)).trans
      ((ih (writeByte s w va b) (va + 1)).widen (by omega) (by omega))

theorem of_hwPost (s : State) (p : Posted) : HwWrote s (hwPost s p) p.who p.va p.bytes.length := by
  unfold hwPost
  split
  · refine of_sent (Sent.foldl (fun s x => sent_askGate s p.who x) _ _) ⟨[p], rfl⟩ ?_ ..
    simp
  · have written := of_writeBytes p.who p.bytes s p.va
    refine written.trans ?_
    cases near : noFarPage (writeBytes s p.who p.va p.bytes)
    · exact of_sent (sent_settleFar _ p) ⟨[], List.append_nil _⟩ (fun _ => near) ..
    · have stays : settleFar (writeBytes s p.who p.va p.bytes) p = writeBytes s p.who p.va p.bytes := by
        refine if_pos ?_
        simpa [noFarPage] using near
      rw [stays]
      exact refl ..

/-- The hardware acts with the same authority for every team of a domain. -/
theorem of_teamWrite (s : State) (t : Team) (va : Nat) (bs : List Byte) :
    HwWrote s (teamWrite s t va bs) (hwWho (teamDomain s t) 0) va bs.length := by
  have h := of_hwPost s { team := t.card.handle, domain := teamDomain s t, asid := 0, va := va, bytes := bs }
  exact ⟨h.frame, h.queued, h.pages, h.calm, h.places, h.sectors, h.elsewhere⟩

/-- The clusters are as they were. -/
theorem teamDomain {s u : State} {w : Who} {va n : Nat} (h : HwWrote s u w va n) (t : Team) : teamDomain u t = teamDomain s t := by
  unfold Machine.teamDomain clusterRec
  rw [h.frame]

theorem withBytes {s t : State} {w : Who} {va n : Nat} (h : HwWrote s t w va n) : t = { withBytes s t with fab := t.fab } := by
  have frame := h.frame
  unfold Machine.withBytes
  dsimp only
  split
  case isTrue calm =>
    obtain ⟨same, near⟩ := Bool.and_eq_true_iff.1 calm
    obtain ⟨ports, links⟩ := h.calm (of_decide_eq_true same) near
    rw [ports, links] at frame
    exact frame
  case isFalse => exact frame

end HwWrote

end Sys2Proof.Machine
end

section
/-! PROOF. The mask stack and the active mask (R51, R246, R247, R335): what a new stack leaves in the context image, and the four stack words
and `mset`. -/

namespace Sys2Proof.Machine

/-! Lane sets. -/

theorem bit_eq_beq (x i : Nat) : bit x i = (x / 2 ^ i % 2 == 1) := rfl

theorem bit_zero (x : Nat) : bit x 0 = (x % 2 == 1) := by rw [bit_eq_beq, Nat.pow_zero, Nat.div_one]

theorem getLsbD_invertIf (b : Bool) (x : Lanes) {l : Nat} (h : l < 1024) :
    (if b then ~~~ x else x).getLsbD l = (x.getLsbD l != b) := by
  cases b <;> simp [h]

theorem getLsbD_wholeTeam (t : Team) {l : Nat} (h : l < 1024) : (wholeTeam t).getLsbD l = decide (l < teamLanes t) := by
  rw [wholeTeam, BitVec.getLsbD_ofNat, Nat.testBit_two_pow_sub_one, decide_eq_true h, Bool.true_and]

/-- The condition of `mif` and `mbrk` (R246). -/
theorem getLsbD_maskCond (t : Team) (f : LaneFields) (l : Nat) :
    (maskCond t f).getLsbD l
      = ((takers t f).getLsbD l && ((predSet t (codeFor f 1 - 1632)).getLsbD l != (f.md.toNat % 2 == 1))) := by
  rw [maskCond, BitVec.getLsbD_and]
  by_cases h : l < 1024
  · rw [getLsbD_invertIf _ _ h, bit_zero]
    rfl
  · rw [BitVec.getLsbD_of_ge (takers t f) l (by omega), Bool.false_and, Bool.false_and]

/-- A mask word replaced (R247). -/
theorem getLsbD_withMaskWord (m : Lanes) (b x : Nat) {l : Nat} (h : l < 1024) :
    (withMaskWord m b x).getLsbD l = if l / 32 = b then decide (x / 2 ^ (l % 32) % 2 = 1) else m.getLsbD l := by
  rw [withMaskWord, BitVec.getLsbD_ofNat, decide_eq_true h, Bool.true_and, maskWord, testBit_replaceField, BitVec.testBit_toNat]
  by_cases inside : l / 32 = b
  · rw [if_pos inside, if_pos (by omega), show l - 32 * b = l % 32 by omega, Nat.testBit_eq_decide_div_mod_eq]
  · rw [if_neg inside, if_neg (by omega)]

/-! The stack (R51, R335). -/

theorem length_toBytes (n x : Nat) : (toBytes n x).length = n := by
  induction n generalizing x with
  | zero => rfl
  | succ n ih => rw [toBytes, List.length_cons, ih]

/-- An entry counted from the oldest is the same in a stack and in what is below its top. -/
theorem stackEntry_append (top st : List (Bool × Lanes)) {e : Nat} (h : e < st.length) :
    stackEntry (top ++ st) e = stackEntry st e := by
  have place : top.length + st.length - 1 - e = top.length + (st.length - 1 - e) := by omega
  rw [stackEntry, stackEntry, List.length_append, if_pos (by omega), if_pos h, place, List.getElem?_append_right (by omega),
    Nat.add_sub_cancel_left]

/-- The entries that a new stack puts below the top 32, or changes there. -/
def changedDeep (old st : List (Bool × Lanes)) : List Nat :=
  (List.range (st.length - Config.stackNear)).filter fun e =>
    !(decide (e + Config.stackNear < old.length) && stackEntry old e = stackEntry st e)

/-- An entry of a stack written into the context image of a team (R335). -/
def imageEntry (t : Team) (st : List (Bool × Lanes)) (s : State) (e : Nat) : State :=
  match stackEntry st e with
  | some x => teamWrite s t (t.card.handle + 0x1000 + 128 * e) (lanesBytes x.2)
  | none => s

theorem setStack_eq (s : State) (st : List (Bool × Lanes)) :
    setStack s st = (changedDeep s.team.regs.stack st).foldl (imageEntry s.team st) (setRegs s { s.team.regs with stack := st }) :=
  rfl

theorem changedDeep_lt {old st : List (Bool × Lanes)} {e : Nat} (h : e ∈ changedDeep old st) : e + 32 < st.length := by
  have below := List.mem_range.1 (List.mem_filter.1 h).1
  simp only [Config.stackNear] at below
  omega

/-- No entry below the top 32 changes where there is none, or where the stack is what was below the old one's top. -/
theorem changedDeep_eq_nil {old st : List (Bool × Lanes)} (h : st.length ≤ 32 ∨ ∃ top, old = top ++ st) : changedDeep old st = [] := by
  refine List.eq_nil_iff_forall_not_mem.2 fun e changed => ?_
  have deep := changedDeep_lt changed
  rcases h with short | ⟨top, rfl⟩
  · omega
  · have same := stackEntry_append top st (e := e) (by omega)
    have there : e + Config.stackNear < top.length + st.length := by
      simp only [Config.stackNear]
      omega
    simp [changedDeep, same, there] at changed

theorem imageEntry_wrote (s : State) (t : Team) {st : List (Bool × Lanes)} {e : Nat} (h : e + 32 < st.length) :
    HwWrote s (imageEntry t st s e) (hwWho (teamDomain s t) 0) (t.card.handle + 0x1000) (128 * (st.length - 32)) := by
  unfold imageEntry
  split
  · next x _ =>
    have size : (lanesBytes x.2).length = 128 := length_toBytes ..
    exact (HwWrote.of_teamWrite s t _ (lanesBytes x.2)).widen (by omega) (by omega)
  · exact HwWrote.refl ..

theorem imageEntries_wrote (t : Team) {st : List (Bool × Lanes)} (es : List Nat) (deep : ∀ e, e ∈ es → e + 32 < st.length) (s : State) :
    HwWrote s (es.foldl (imageEntry t st) s) (hwWho (teamDomain s t) 0) (t.card.handle + 0x1000) (128 * (st.length - 32)) := by
  induction es generalizing s with
  | nil => exact HwWrote.refl ..
  | cons e es ih =>
    have first := imageEntry_wrote s t (deep e List.mem_cons_self)
    have rest := ih (fun x hx => deep x (List.mem_cons_of_mem e hx)) (imageEntry t st s e)
    rw [first.teamDomain] at rest
    exact first.trans rest

theorem setStack_wrote (s : State) (st : List (Bool × Lanes)) :
    HwWrote (setRegs s { s.team.regs with stack := st }) (setStack s st) (hwWho (teamDomain s s.team) 0)
      (s.team.card.handle + 0x1000) (128 * (st.length - 32)) :=
  imageEntries_wrote s.team _ (fun _ => changedDeep_lt) _

/-- A new stack is all that changes where no entry below the top 32 does. -/
theorem setStack_near {s : State} {st : List (Bool × Lanes)} (h : st.length ≤ 32 ∨ ∃ top, s.team.regs.stack = top ++ st) :
    setStack s st = setRegs s { s.team.regs with stack := st } := by
  rw [setStack_eq, changedDeep_eq_nil h]
  rfl

theorem setStack_self (s : State) : setStack s s.team.regs.stack = s := setStack_near (.inr ⟨[], rfl⟩)

theorem setStack_team (s : State) (st : List (Bool × Lanes)) :
    (setStack s st).team = { s.team with regs := { s.team.regs with stack := st } } := by
  rw [(setStack_wrote s st).frame]
  rfl

/-! The mask and the stack together, as a word that completes leaves them. -/

/-- The state past a word, with another mask. -/
def pastWithMask (s : State) (m : Lanes) : State := popWord (setRegs s { s.team.regs with mask := m })

theorem pastWithMask_team (s : State) (m : Lanes) :
    (pastWithMask s m).team = { s.team with regs := { s.team.regs with mask := m }, lane := pastWord s.team.lane } := rfl

theorem pastWithMask_only (s : State) (m : Lanes) : pastWithMask s m = { s with team := (pastWithMask s m).team } := rfl

theorem readByte_pastWithMask (s : State) (m : Lanes) (w : Who) (va : Nat) : readByte (pastWithMask s m) w va = readByte s w va :=
  readByte_congr (sameMap_of rfl rfl) rfl rfl rfl w va

theorem pastWithMask_self (s : State) : pastWithMask s s.team.regs.mask = popWord s := rfl

theorem popWord_setMask (s : State) (m : Lanes) : popWord (setMask s m) = pastWithMask s (m &&& wholeTeam s.team) := rfl

theorem pastWithMask_wrote {s : State} {st : List (Bool × Lanes)} {m : Lanes} {mask : Nat → Bool}
    (bits : ∀ l, l < teamLanes s.team → l < 1024 → m.getLsbD l = mask l) : MaskWrote s (pastWithMask (setStack s st) m) mask st := by
  have team : (pastWithMask (setStack s st) m).team = { s.team with
      regs := { s.team.regs with mask := m, stack := st }, lane := pastWord s.team.lane } := by
    rw [pastWithMask_team, setStack_team]
  have only := pastWithMask_only (setStack s st) m
  have wrote := setStack_wrote s st
  refine ⟨fun l inTeam wide => ?_, ?_, ?_, ?_, ?_, fun near => ?_⟩
  · rw [team]
    exact bits l inTeam wide
  · rw [team]
  · rw [team]
  · have bytes := wrote.withBytes
    rw [only]
    generalize (pastWithMask (setStack s st) m).team = t
    exact congrArg (fun u : State => { u with team := t }) bytes
  · intro ok w' a other
    have sectors : HandOk (setRegs s { s.team.regs with stack := st }) := fun c hc => by
      simpa using List.all_eq_true.1 ok.2.2.2 c hc
    have before : readByte (setRegs s { s.team.regs with stack := st }) w' a = readByte s w' a :=
      readByte_congr (sameMap_of rfl rfl) rfl rfl rfl w' a
    rw [readByte_pastWithMask, ← before]
    exact wrote.elsewhere sectors w' a (other _ List.mem_cons_self)
  · rw [only, setStack_near near]
    rfl

/-- A word that gives the team a stack alone. -/
theorem setStack_maskWrote (s : State) (st : List (Bool × Lanes)) :
    MaskWrote s (popWord (setStack s st)) (fun l => s.team.regs.mask.getLsbD l) st := by
  rw [← pastWithMask_self]
  refine pastWithMask_wrote fun l _ _ => ?_
  rw [setStack_team]

/-- A word that gives the team a stack and a mask. -/
theorem setStack_setMask_wrote {s : State} {st : List (Bool × Lanes)} {m : Lanes} {mask : Nat → Bool}
    (bits : ∀ l, l < 1024 → m.getLsbD l = mask l) : MaskWrote s (popWord (setMask (setStack s st) m)) mask st := by
  rw [popWord_setMask]
  refine pastWithMask_wrote fun l inTeam wide => ?_
  have lanes : l < teamLanes (setStack s st).team := by rwa [setStack_team]
  rw [BitVec.getLsbD_and, getLsbD_wholeTeam _ wide, decide_eq_true lanes, Bool.and_true, bits l wide]

/-- A word that gives the team a mask alone. -/
theorem setMask_wrote {s : State} {m : Lanes} {mask : Nat → Bool} (bits : ∀ l, l < 1024 → m.getLsbD l = mask l) :
    MaskWrote s (popWord (setMask s m)) mask s.team.regs.stack := by
  have wrote := setStack_setMask_wrote (s := s) (st := s.team.regs.stack) bits
  rwa [setStack_self] at wrote

/-! The entries that `mbrk` clears (R246). -/

theorem clearInner_eq_none (c : Lanes) {st : List (Bool × Lanes)} (noLoop : ∀ x, x ∈ st → x.1 = false) : clearInner c st = none := by
  induction st with
  | nil => rfl
  | cons x st ih =>
    obtain ⟨kind, m⟩ := x
    obtain rfl : kind = false := noLoop _ List.mem_cons_self
    rw [clearInner, ih fun y hy => noLoop y (List.mem_cons_of_mem _ hy), Option.map_none]

theorem clearInner_eq_some (c : Lanes) {inner outer : List (Bool × Lanes)} {e : Bool × Lanes}
    (noLoop : ∀ x, x ∈ inner → x.1 = false) (loop : e.1 = true) :
    clearInner c (inner ++ e :: outer) = some (inner.map (fun x => (false, x.2 &&& ~~~ c)) ++ e :: outer) := by
  induction inner with
  | nil =>
    obtain ⟨kind, m⟩ := e
    obtain rfl : kind = true := loop
    rfl
  | cons x inner ih =>
    obtain ⟨kind, m⟩ := x
    obtain rfl : kind = false := noLoop _ List.mem_cons_self
    rw [List.cons_append, clearInner, ih fun y hy => noLoop y (List.mem_cons_of_mem _ hy)]
    rfl

/-- A lane set less the lanes of another, whose bits are given. -/
theorem getLsbD_without (x : Lanes) {c : Lanes} {cond : Nat → Bool} (bits : ∀ l, c.getLsbD l = cond l) (l : Nat) :
    (x &&& ~~~ c).getLsbD l = (x.getLsbD l && !cond l) := by
  rw [← bits, BitVec.getLsbD_and, BitVec.getLsbD_not]
  by_cases h : l < 1024
  · rw [decide_eq_true h, Bool.true_and]
  · rw [BitVec.getLsbD_of_ge x l (Nat.le_of_not_lt h), Bool.false_and, Bool.false_and]

/-! The words (R246, R247), where their fields are legal. -/

theorem laneWord_legal {op : Nat} {f : LaneFields} {s : State} (legal : laneLegal s.team.card.v op f = true) (k : State → Out) :
    laneWord op f s k = k s := if_pos legal

theorem laneDone_legal {op : Nat} {f : LaneFields} {s : State} (legal : laneLegal s.team.card.v op f = true) (k : State → State) :
    laneDone op f s k = .next (popWord (k s)) := if_pos legal

/-- A push below the depth limit. -/
theorem pushMask_room {s : State} (room : s.team.regs.stack.length < 256) (loop : Bool) (k : State → State) :
    pushMask s loop k = .next (popWord (k (setStack s ((loop, s.team.regs.mask) :: s.team.regs.stack)))) :=
  if_neg (Nat.not_le.2 room)

theorem pushMask_full {s : State} (full : 256 ≤ s.team.regs.stack.length) (loop : Bool) (k : State → State) :
    pushMask s loop k = .next (takeStop s (laneStop s 0x0A)) := if_pos full

theorem exec_mif (f : LaneFields) (s : State) : exec (.mif f) s = execMif f s := rfl
theorem exec_melse (f : LaneFields) (s : State) : exec (.melse f) s = execMelse f s := rfl
theorem exec_mend (f : LaneFields) (s : State) : exec (.mend f) s = execMend f s := rfl
theorem exec_mloop (f : LaneFields) (s : State) : exec (.mloop f) s = execMloop f s := rfl
theorem exec_mbrk (f : LaneFields) (s : State) : exec (.mbrk f) s = execMbrk f s := rfl
theorem exec_msetPred (f : LaneFields) (s : State) : exec (.msetPred f) s = execMsetPred f s := rfl
theorem exec_msetWord (f : LaneFields) (s : State) : exec (.msetWord f) s = execMsetWord f s := rfl
theorem exec_msetAll (f : LaneFields) (s : State) : exec (.msetAll f) s = execMsetAll f s := rfl

section
variable {s : State} {f : LaneFields}

theorem mif_legal (legal : laneLegal s.team.card.v 0x18A f = true) :
    exec (.mif f) s = pushMask s false fun u => setMask u (maskCond s.team f) := by rw [exec_mif, execMif, laneWord_legal legal]

theorem mloop_legal (legal : laneLegal s.team.card.v 0x18E f = true) : exec (.mloop f) s = pushMask s true fun u => u := by
  rw [exec_mloop, execMloop, laneWord_legal legal]

theorem mif_pushes (legal : laneLegal s.team.card.v 0x18A f = true) (room : s.team.regs.stack.length < 256) {cond : Nat → Bool}
    (bits : ∀ l, (maskCond s.team f).getLsbD l = cond l) :
    ∃ t, exec (.mif f) s = .next t ∧ MaskWrote s t cond ((false, s.team.regs.mask) :: s.team.regs.stack) :=
  ⟨_, (mif_legal legal).trans (pushMask_room room ..), setStack_setMask_wrote fun l _ => bits l⟩

theorem mloop_pushes (legal : laneLegal s.team.card.v 0x18E f = true) (room : s.team.regs.stack.length < 256) :
    ∃ t, exec (.mloop f) s = .next t
      ∧ MaskWrote s t (fun l => s.team.regs.mask.getLsbD l) ((true, s.team.regs.mask) :: s.team.regs.stack) :=
  ⟨_, (mloop_legal legal).trans (pushMask_room room ..), setStack_maskWrote ..⟩

theorem mif_overflows (legal : laneLegal s.team.card.v 0x18A f = true) (full : 256 ≤ s.team.regs.stack.length) :
    ∃ st, exec (.mif f) s = .next (takeStop s st) ∧ st.cause = 0x0A :=
  ⟨_, (mif_legal legal).trans (pushMask_full full ..), laneStop_cause ..⟩

theorem mloop_overflows (legal : laneLegal s.team.card.v 0x18E f = true) (full : 256 ≤ s.team.regs.stack.length) :
    ∃ st, exec (.mloop f) s = .next (takeStop s st) ∧ st.cause = 0x0A :=
  ⟨_, (mloop_legal legal).trans (pushMask_full full ..), laneStop_cause ..⟩

theorem melse_swaps (legal : laneLegal s.team.card.v 0x18B f = true) {e : Bool × Lanes} {st : List (Bool × Lanes)}
    (top : s.team.regs.stack = e :: st) :
    ∃ t, exec (.melse f) s = .next t
      ∧ MaskWrote s t (fun l => e.2.getLsbD l && !s.team.regs.mask.getLsbD l) s.team.regs.stack := by
  refine ⟨popWord (setMask s (e.2 &&& ~~~ s.team.regs.mask)), ?_, setMask_wrote fun l _ => getLsbD_without e.2 (fun _ => rfl) l⟩
  rw [exec_melse, execMelse, laneWord_legal legal, top]

theorem melse_underflows (legal : laneLegal s.team.card.v 0x18B f = true) (empty : s.team.regs.stack = []) :
    ∃ st, exec (.melse f) s = .next (takeStop s st) ∧ st.cause = 0x0B := by
  refine ⟨laneStop s 0x0B, ?_, laneStop_cause ..⟩
  rw [exec_melse, execMelse, laneWord_legal legal, empty]

theorem mend_pops (legal : laneLegal s.team.card.v 0x18C f = true) {e : Bool × Lanes} {st : List (Bool × Lanes)}
    (top : s.team.regs.stack = e :: st) :
    ∃ t, exec (.mend f) s = .next t ∧ MaskWrote s t (fun l => e.2.getLsbD l) st := by
  refine ⟨popWord (setMask (setStack s st) e.2), ?_, setStack_setMask_wrote fun _ _ => rfl⟩
  rw [exec_mend, execMend, laneWord_legal legal, top]

theorem mend_underflows (legal : laneLegal s.team.card.v 0x18C f = true) (empty : s.team.regs.stack = []) :
    ∃ st, exec (.mend f) s = .next (takeStop s st) ∧ st.cause = 0x0B := by
  refine ⟨laneStop s 0x0B, ?_, laneStop_cause ..⟩
  rw [exec_mend, execMend, laneWord_legal legal, empty]

theorem mbrk_breaks (legal : laneLegal s.team.card.v 0x18D f = true) {cond : Nat → Bool}
    (bits : ∀ l, (maskCond s.team f).getLsbD l = cond l) (inner : List (Bool × Lanes)) (e : Bool × Lanes)
    (outer : List (Bool × Lanes)) (parts : s.team.regs.stack = inner ++ e :: outer) (noLoop : ∀ x, x ∈ inner → x.1 = false)
    (loop : e.1 = true) :
    ∃ t st, exec (.mbrk f) s = .next t ∧ MaskWrote s t (fun l => s.team.regs.mask.getLsbD l && !cond l) (st ++ e :: outer)
      ∧ st.length = inner.length
      ∧ ∀ (k : Nat) (a b : Bool × Lanes), inner[k]? = some a → st[k]? = some b →
          b.1 = false ∧ ∀ l, b.2.getLsbD l = (a.2.getLsbD l && !cond l) := by
  refine ⟨_, inner.map fun x => (false, x.2 &&& ~~~ maskCond s.team f), ?_,
    setStack_setMask_wrote fun l _ => getLsbD_without s.team.regs.mask bits l, List.length_map .., ?_⟩
  · rw [exec_mbrk, execMbrk, laneWord_legal legal]
    dsimp only
    rw [parts, clearInner_eq_some _ noLoop loop]
  · intro k a b old new
    rw [List.getElem?_map, old] at new
    obtain rfl := Option.some.inj new
    exact ⟨rfl, getLsbD_without a.2 bits⟩

theorem mbrk_underflows (legal : laneLegal s.team.card.v 0x18D f = true) (noLoop : ∀ x, x ∈ s.team.regs.stack → x.1 = false) :
    ∃ st, exec (.mbrk f) s = .next (takeStop s st) ∧ st.cause = 0x0B := by
  refine ⟨laneStop s 0x0B, ?_, laneStop_cause ..⟩
  rw [exec_mbrk, execMbrk, laneWord_legal legal]
  dsimp only
  rw [clearInner_eq_none _ noLoop]

theorem msetPred_sets (legal : laneLegal s.team.card.v 0x18F f = true) :
    ∃ t, exec (.msetPred f) s = .next t
      ∧ MaskWrote s t (fun l => (predSet s.team (codeFor f 1 - 1632)).getLsbD l != (f.md.toNat / 4 % 2 == 1)) s.team.regs.stack := by
  refine ⟨_, ?_, setMask_wrote fun l wide => getLsbD_invertIf (bit f.md.toNat 2) _ wide⟩
  rw [exec_msetPred, execMsetPred, laneDone_legal legal]
  rfl

theorem msetAll_sets (legal : laneLegal s.team.card.v 0x18F f = true) :
    ∃ t, exec (.msetAll f) s = .next t ∧ MaskWrote s t (fun _ => true) s.team.regs.stack := by
  refine ⟨popWord (setMask s allLanes), ?_, setMask_wrote fun l wide => ?_⟩
  · rw [exec_msetAll, execMsetAll, laneDone_legal legal]
  · rw [allLanes, BitVec.getLsbD_allOnes, decide_eq_true wide]

theorem msetWord_sets (legal : laneLegal s.team.card.v 0x18F f = true) (own : readOp s.team f 2 3 0 < s.team.card.w) :
    ∃ t, exec (.msetWord f) s = .next t
      ∧ MaskWrote s t (fun l =>
          if l / 32 = readOp s.team f 2 3 0 then readOp s.team f 1 3 0 / 2 ^ (l % 32) % 2 = 1 else s.team.regs.mask.getLsbD l)
          s.team.regs.stack := by
  refine ⟨popWord (setMask s (withMaskWord s.team.regs.mask (uniWord s.team f 2) (uniWord s.team f 1))), ?_,
    setMask_wrote fun l wide => getLsbD_withMaskWord _ _ _ wide⟩
  rw [exec_msetWord, execMsetWord, laneWord_legal legal]
  exact if_neg (Nat.not_le.2 own)

theorem msetWord_traps (legal : laneLegal s.team.card.v 0x18F f = true) (foreign : s.team.card.w ≤ readOp s.team f 2 3 0) :
    ∃ st, exec (.msetWord f) s = .next (takeStop s st) ∧ st.cause = 0x03 := by
  refine ⟨laneStop s 0x03, ?_, laneStop_cause ..⟩
  rw [exec_msetWord, execMsetWord, laneWord_legal legal]
  exact if_pos foreign

end

end Sys2Proof.Machine
end

section
/-! PROOF. Predicates and `mget` (R45, R209, R248, R250), and the mask and predicate words together. -/

namespace Sys2Proof.Machine

/-! The destinations of legal words (R149). -/

theorem laneLegal_dest {op : Nat} {f : LaneFields} {V : Nat} (legal : laneLegal V op f = true) {u : Uses}
    (uses : laneUses op f.ty.toNat f.md.toNat f.b.toNat = some u) : codeOk V f.ty.toNat u.d f.d.toNat = true := by
  unfold laneLegal at legal
  rw [uses] at legal
  simp only [Bool.and_eq_true] at legal
  obtain ⟨⟨⟨⟨⟨⟨⟨⟨dest, -⟩, -⟩, -⟩, -⟩, -⟩, -⟩, -⟩, -⟩ := legal
  exact dest

/-- A row of the table whose use is one where a condition holds. -/
theorem uses_of_row {c : Bool} {u v : Uses} (h : (if c = true then some u else none) = some v) : v = u := by
  cases c
  · cases h
  · exact (Option.some.inj h).symm

/-- The predicate words write a predicate (R250). -/
theorem predicate_dest {V op : Nat} {f : LaneFields} (word : 0x191 ≤ op ∧ op ≤ 0x195) (legal : laneLegal V op f = true) :
    preCode f.d.toNat = true := by
  obtain ⟨u, uses⟩ := laneLegal_uses legal
  have dest := laneLegal_dest legal uses
  have ops : op = 0x191 ∨ op = 0x192 ∨ op = 0x193 ∨ op = 0x194 ∨ op = 0x195 := by omega
  rcases ops with rfl | rfl | rfl | rfl | rfl <;> · rw [uses_of_row uses] at dest; exact dest

/-- `mget.pred` writes a predicate (R248). -/
theorem mgetPred_dest {V : Nat} {f : LaneFields} (legal : laneLegal V 0x190 f = true) (form : f.md.toNat = 0) :
    preCode f.d.toNat = true := by
  obtain ⟨u, uses⟩ := laneLegal_uses legal
  have dest := laneLegal_dest legal uses
  rw [form] at uses
  rw [uses_of_row uses] at dest
  exact dest

/-- `mget.sum` and `mget.word` write a scalar register (R248). -/
theorem mget_scalar_dest {V : Nat} {f : LaneFields} (legal : laneLegal V 0x190 f = true)
    (form : f.md.toNat = 1 ∨ f.md.toNat = 2) : scaCode f.d.toNat = true := by
  obtain ⟨u, uses⟩ := laneLegal_uses legal
  have dest := laneLegal_dest legal uses
  rcases form with form | form <;> · rw [form] at uses; rw [uses_of_row uses] at dest; exact dest

/-! A predicate written in some lanes (R45, R209). -/

theorem popWord_writePred_team (s : State) (k : Nat) (at_ x : Lanes) :
    (popWord (writePred s k at_ x)).team = { s.team with
      regs := { s.team.regs with p := (popWord (writePred s k at_ x)).team.regs.p }, lane := pastWord s.team.lane } := by
  unfold writePred
  split <;> rfl

theorem popWord_writePred_only (s : State) (k : Nat) (at_ x : Lanes) :
    popWord (writePred s k at_ x) = { s with team := (popWord (writePred s k at_ x)).team } := by
  unfold writePred
  split <;> rfl

/-- The bits of a set replaced in some lanes. -/
theorem getLsbD_merge (old at_ x : Lanes) (l : Nat) :
    ((old &&& ~~~ at_) ||| (x &&& at_)).getLsbD l = if at_.getLsbD l = true then x.getLsbD l else old.getLsbD l := by
  rw [BitVec.getLsbD_or, getLsbD_without old (fun _ => rfl), BitVec.getLsbD_and]
  cases at_.getLsbD l <;> simp

theorem predSet_writePred (s : State) {d : Nat} (code : 1632 ≤ d) (at_ x : Lanes) (k l : Nat) :
    (predSet (popWord (writePred s (d - 1632) at_ x)).team k).getLsbD l =
      if k + 1632 = d ∧ k ≠ 15 ∧ at_.getLsbD l = true then x.getLsbD l else (predSet s.team k).getLsbD l := by
  by_cases ones : d - 1632 = 15
  · have kept : writePred s (d - 1632) at_ x = s := if_pos ones
    have discarded : ¬ (k + 1632 = d ∧ k ≠ 15 ∧ at_.getLsbD l = true) := fun h => h.2.1 (by omega)
    rw [kept, if_neg discarded]
    rfl
  · have written : (popWord (writePred s (d - 1632) at_ x)).team.regs.p
        = sset 0 s.team.regs.p (d - 1632) ((sget 0 s.team.regs.p (d - 1632) &&& ~~~ at_) ||| (x &&& at_)) := by
      rw [writePred, if_neg ones]
      rfl
    rw [predSet, predSet, written]
    by_cases own : k + 1632 = d
    · have register : d - 1632 = k := by omega
      rw [register] at ones ⊢
      rw [sget_sset_same, if_neg ones, if_neg ones, getLsbD_merge]
      simp only [own, ones, ne_eq, not_false_eq_true, true_and]
    · rw [sget_sset_other _ _ _ (by omega)]
      exact (if_neg fun h => own h.1).symm

theorem writePred_wrote {s : State} {f : LaneFields} (dest : preCode f.d.toNat = true) {x : Lanes} {val : Nat → Bool}
    (bits : ∀ l, takes s f l = true → x.getLsbD l = val l) :
    PredWrote s (popWord (writePred s (f.d.toNat - 1632) (takers s.team f) x)) f val := by
  refine ⟨fun k l inTeam => ?_, popWord_writePred_team .., popWord_writePred_only ..⟩
  have low : 1632 ≤ f.d.toNat := of_decide_eq_true (Bool.and_eq_true_iff.1 dest).1
  have taken : takes s f l = (takers s.team f).getLsbD l := by rw [takes, decide_eq_true inTeam, Bool.true_and]
  rw [predSet_writePred s low, taken]
  split
  case isTrue h => exact bits l (taken.trans h.2.2)
  case isFalse => rfl

/-- A lane set from a list holds the lanes listed. -/
theorem getLsbD_laneSet (ls : List Nat) {l : Nat} (h : l < 1024) : (laneSet ls).getLsbD l = decide (l ∈ ls) := by
  have one (k : Nat) : (1#1024 <<< k).getLsbD l = decide (l = k) := by
    rw [← BitVec.twoPow_eq, BitVec.getLsbD_twoPow]
    by_cases same : k = l
    · simp [same, h]
    · simp [same, Ne.symm same]
  have from_ (m : Lanes) : (ls.foldl (fun m k => m ||| (1#1024 <<< k)) m).getLsbD l = (m.getLsbD l || decide (l ∈ ls)) := by
    induction ls generalizing m with
    | nil => simp
    | cons k ls ih =>
      rw [List.foldl_cons, ih, BitVec.getLsbD_or, one, Bool.or_assoc]
      simp [List.mem_cons]
  have empty : (0 : Lanes).getLsbD l = false := BitVec.getLsbD_zero
  exact (from_ 0).trans (by rw [empty, Bool.false_or])

/-! Mask words as numbers (R21, R248). -/

/-- The sum of the powers of two at which a number has its bits is the number. -/
theorem foldl_powers (x n : Nat) {p : Nat → Bool} (bits : ∀ k, k < n → p k = x.testBit k) :
    (List.range n).foldl (fun a k => if p k then a + 2 ^ k else a) 0 = x % 2 ^ n := by
  induction n with
  | zero => simp [Nat.mod_one]
  | succ n ih =>
    rw [List.range_succ, List.foldl_append, ih fun k hk => bits k (Nat.lt_succ_of_lt hk), Nat.mod_pow_succ]
    simp only [List.foldl_cons, List.foldl_nil, bits n (Nat.lt_succ_self n), Nat.testBit_eq_decide_div_mod_eq, decide_eq_true_eq]
    split
    · next set => rw [set, Nat.mul_one]
    · next clear => rw [show x / 2 ^ n % 2 = 0 by omega, Nat.mul_zero, Nat.add_zero]

theorem maskWord_eq (m : Lanes) (b : Nat) :
    maskWord m b = (List.range 32).foldl (fun a k => if m.getLsbD (32 * b + k) then a + 2 ^ k else a) 0 := by
  refine (foldl_powers (m.toNat / 2 ^ (32 * b)) 32 fun k _ => ?_).symm
  rw [Nat.testBit_div_two_pow, BitVec.testBit_toNat, Nat.add_comm]

/-! The words (R248, R250), where their fields are legal. -/

theorem exec_mgetPred (f : LaneFields) (s : State) : exec (.mgetPred f) s = execMgetPred f s := rfl
theorem exec_mgetSum (f : LaneFields) (s : State) : exec (.mgetSum f) s = execMgetSum f s := rfl
theorem exec_mgetWord (f : LaneFields) (s : State) : exec (.mgetWord f) s = execMgetWord f s := rfl
theorem exec_pand (f : LaneFields) (s : State) : exec (.pand f) s = predOp 0x191 (· &&& ·) f s := rfl
theorem exec_por (f : LaneFields) (s : State) : exec (.por f) s = predOp 0x192 (· ||| ·) f s := rfl
theorem exec_pxor (f : LaneFields) (s : State) : exec (.pxor f) s = predOp 0x193 (· ^^^ ·) f s := rfl
theorem exec_pnot (f : LaneFields) (s : State) : exec (.pnot f) s = execPnot f s := rfl

/-- A word left a number in the scalar register in field D, and changed nothing else (R49). -/
def ScalarWrote (s t : State) (f : LaneFields) (x : Nat) : Prop :=
  t = { s with team := t.team }
    ∧ t.team = { s.team with regs := { s.team.regs with s := t.team.regs.s }, lane := pastWord s.team.lane }
    ∧ (∀ r, r.toNat + 1536 ≠ f.d.toNat → readReg t r = readReg s r)
    ∧ readReg t (BitVec.ofNat 7 (f.d.toNat - 1536)) = BitVec.ofNat 64 x

theorem writeScalar_wrote {s : State} {f : LaneFields} (dest : scaCode f.d.toNat = true) (x : Nat) :
    ScalarWrote s (popWord (writeScalar s f.d.toNat x)) f x := by
  have range : 1536 ≤ f.d.toNat ∧ f.d.toNat ≤ 1631 := by simpa [scaCode] using dest
  have register : (BitVec.ofNat 7 (f.d.toNat - 1536)).toNat = f.d.toNat - 1536 := by
    rw [BitVec.toNat_ofNat]
    omega
  have read (r : SReg) : readReg (popWord (writeScalar s f.d.toNat x)) r
      = if r.toNat < 96 then sget 0 (sset 0 s.team.regs.s (f.d.toNat - 1536) (BitVec.ofNat 64 x)) r.toNat else 0 := rfl
  refine ⟨rfl, rfl, fun r other => ?_, ?_⟩
  · rw [read, sget_sset_other _ _ _ (by omega)]
    rfl
  · rw [read, register, sget_sset_same, if_pos (by omega)]

section
variable {s : State} {f : LaneFields}

theorem mgetPred_writes (legal : laneLegal s.team.card.v 0x190 f = true) (form : f.md.toNat = 0) :
    ∃ t, exec (.mgetPred f) s = .next t ∧ t = { s with team := t.team }
      ∧ t.team = { s.team with regs := { s.team.regs with p := t.team.regs.p }, lane := pastWord s.team.lane }
      ∧ ∀ k l, l < teamLanes s.team → (predSet t.team k).getLsbD l =
          if k + 1632 = f.d.toNat ∧ k ≠ 15 then s.team.regs.mask.getLsbD l else (predSet s.team k).getLsbD l := by
  refine ⟨popWord (writePred s (f.d.toNat - 1632) (wholeTeam s.team) s.team.regs.mask), ?_, popWord_writePred_only ..,
    popWord_writePred_team .., fun k l inTeam => ?_⟩
  · rw [exec_mgetPred, execMgetPred, laneDone_legal legal]
  · have low : 1632 ≤ f.d.toNat := of_decide_eq_true (Bool.and_eq_true_iff.1 (mgetPred_dest legal form)).1
    rw [predSet_writePred s low]
    by_cases wide : l < 1024
    · simp [getLsbD_wholeTeam _ wide, inTeam]
    · have beyond (x : Lanes) : x.getLsbD l = false := BitVec.getLsbD_of_ge x l (Nat.le_of_not_lt wide)
      simp [beyond]

theorem mgetSum_reads (legal : laneLegal s.team.card.v 0x190 f = true) (form : f.md.toNat = 1) :
    ∃ t, exec (.mgetSum f) s = .next t
      ∧ ScalarWrote s t f ((List.range 32).foldl (fun a b => if maskWord s.team.regs.mask b ≠ 0 then a + 2 ^ b else a) 0) := by
  refine ⟨_, ?_, writeScalar_wrote (mget_scalar_dest legal (.inl form)) _⟩
  rw [exec_mgetSum, execMgetSum, laneDone_legal legal, summary]

theorem mgetWord_reads (legal : laneLegal s.team.card.v 0x190 f = true) (form : f.md.toNat = 2) :
    ∃ t, exec (.mgetWord f) s = .next t
      ∧ ScalarWrote s t f
          (if s.team.card.w ≤ readOp s.team f 2 3 0 then 0 else maskWord s.team.regs.mask (readOp s.team f 2 3 0)) := by
  refine ⟨_, ?_, writeScalar_wrote (mget_scalar_dest legal (.inr form)) _⟩
  rw [exec_mgetWord, execMgetWord, laneDone_legal legal, uniWord]

/-- An L-word that decides a bit in each lane that takes part writes those bits (R209, R250). -/
theorem predWord_wrote {op : Nat} (legal : laneLegal s.team.card.v op f = true) (dest : preCode f.d.toNat = true)
    (one : Team → Nat → Bool) : ∃ t, predWord op f s one = .next t ∧ PredWrote s t f (one s.team) := by
  refine ⟨_, laneDone_legal legal _, writePred_wrote dest fun l taken => ?_⟩
  rw [getLsbD_laneSet _ (takes_lt taken)]
  simp [mem_takerList, taken]

/-- The three combinations, each of its operation on bits. -/
theorem predOp_writes {op : Nat} {g : Lanes → Lanes → Lanes} (word : 0x191 ≤ op ∧ op ≤ 0x195)
    (legal : laneLegal s.team.card.v op f = true) (h : Bool → Bool → Bool)
    (bits : ∀ x y l, (g x y).getLsbD l = h (x.getLsbD l) (y.getLsbD l)) :
    ∃ t, predOp op g f s = .next t
      ∧ PredWrote s t f fun l =>
          h ((predSet s.team (codeFor f 1 - 1632)).getLsbD l != (f.md.toNat % 2 == 1))
            ((predSet s.team (codeFor f 2 - 1632)).getLsbD l != (f.md.toNat / 2 % 2 == 1)) := by
  refine ⟨_, laneDone_legal legal _, writePred_wrote (predicate_dest word legal) fun l taken => ?_⟩
  rw [bits, getLsbD_invertIf _ _ (takes_lt taken), getLsbD_invertIf _ _ (takes_lt taken), bit_zero, bit_eq_beq]
  rfl

theorem pnot_writes (legal : laneLegal s.team.card.v 0x194 f = true) :
    ∃ t, exec (.pnot f) s = .next t ∧ PredWrote s t f fun l => !(predSet s.team (codeFor f 1 - 1632)).getLsbD l := by
  refine ⟨_, (exec_pnot f s).trans (laneDone_legal legal _), writePred_wrote (predicate_dest (by decide) legal) fun l taken => ?_⟩
  rw [BitVec.getLsbD_not, decide_eq_true (takes_lt taken), Bool.true_and]
  rfl

theorem pmov_writes (legal : laneLegal s.team.card.v 0x195 f = true) :
    ∃ t, exec (.pmov f) s = .next t ∧ PredWrote s t f fun l => decide (readOp s.team f 1 f.ty.toNat l ≠ 0) :=
  predWord_wrote legal (predicate_dest (by decide) legal) fun t l => decide (readOp t f 1 f.ty.toNat l ≠ 0)

end

/-- Settles O35: each word is its one change of mask, stack, predicate or register past its checks, or the stop before any. -/
theorem masksAndPredicates : Obligations.MasksAndPredicates := by
  intro s f m old stack p cond wide word stops scalar ok
  have condition : ∀ l, (maskCond s.team f).getLsbD l = cond l := getLsbD_maskCond s.team f
  have words : word = maskWord old := (funext (maskWord_eq old)).symm
  refine ⟨fun legal room => mif_pushes legal room condition, mloop_pushes, ⟨mif_overflows, mloop_overflows⟩,
    fun e st top => ⟨fun legal => melse_swaps legal top, fun legal => mend_pops legal top⟩,
    fun empty => ⟨fun legal => melse_underflows legal empty, fun legal => mend_underflows legal empty⟩,
    fun legal => ⟨mbrk_breaks legal condition, mbrk_underflows legal⟩,
    fun legal => ⟨fun _ => msetPred_sets legal, fun _ => msetAll_sets legal, fun _ =>
      ⟨fun own _ => msetWord_sets legal own, msetWord_traps legal⟩⟩,
    fun legal => ⟨mgetPred_writes legal, ?_, ?_⟩, ?_, pnot_writes, pmov_writes⟩
  · rw [words]
    exact mgetSum_reads legal
  · rw [words]
    exact mgetWord_reads legal
  · rintro op i (⟨rfl, rfl⟩ | ⟨rfl, rfl⟩ | ⟨rfl, rfl⟩) legal
    · exact predOp_writes (by decide) legal (· && ·) fun _ _ _ => BitVec.getLsbD_and
    · exact predOp_writes (by decide) legal (· || ·) fun _ _ _ => BitVec.getLsbD_or
    · exact predOp_writes (by decide) legal (· != ·) fun _ _ _ => BitVec.getLsbD_xor

end Sys2Proof.Machine
end
